-- ==== Sys2Proof/Word.lean ====
section
/-! DEFINITION. The word types of the FL-620 model: a byte of a frame, and the 32-bit web position, encoder count or timestamp. -/

namespace Sys2Proof

/-- One byte of a frame (spec/09, section 9.2). -/
abbrev Byte := BitVec 8

/-- A 32-bit quantity that wraps: a web position in pu, an encoder count, or an encoder timestamp
(spec/00, Units and Numeric Conventions; R21). -/
abbrev Word32 := BitVec 32

end Sys2Proof
end

