-- ==== Sys2Proof/Syntax.lean ====
section
/-! DEFINITION. The commands of the FL-620: one constructor for each row of spec/opcode_table.json, with the operands the
row's rule gives the event. A management request carries its token and its body as bytes (R196, R197). -/

namespace Sys2Proof

/-- One of the two lanes of the web (spec/00, Terms). -/
inductive Lane where
  | a
  | b
deriving DecidableEq, Repr

/-- One of the five stations, in the order of their station codes 0 to 4 (spec/09, section 9.2; R95). -/
inductive Station where
  | lam
  | trimA
  | trimB
  | cutA
  | cutB
deriving DecidableEq, Repr

/-- One of the two link ports (spec/00, Where the FL-620 stands). -/
inductive Port where
  | north
  | south
deriving DecidableEq, Repr

/-- The shape of a registration mark (spec/03, introduction). -/
inductive MarkShape where
  | cue
  | pitch
  | tail
deriving DecidableEq, Repr

/-- The media class of a ROLL descriptor (R165). -/
inductive MediaClass where
  | paper
  | vinyl
  | mesh
  | fabric
  | film
deriving DecidableEq, Repr

/-- The state the laminator's own nip sensor reads (R141). -/
inductive NipSensor where
  | opened
  | closed
deriving DecidableEq, Repr

/-- The commands, in the order of spec/opcode_table.json. -/
inductive Instr where
  /-- COLD_RESET (R211): power-on, or RESET_N held low and released. -/
  | coldReset
  /-- PORT_DOWN (R179): the port loses the line signal; `receiving` says whether a frame was part-way through reception. -/
  | portDown (port : Port) (receiving : Bool)
  /-- PORT_UP (R179): the port finds a valid line signal. -/
  | portUp (port : Port)
  /-- FRAME_RECEIVED (R180): the bytes of a frame, DST to CHK, whose line has returned to idle at the port. -/
  | frameReceived (port : Port) (bytes : List Byte)
  /-- TRANSMISSION_END (R189): the frame in transmission at the port has been sent. -/
  | transmissionEnd (port : Port)
  /-- ENUM (R182): an ENUM frame received at the north port; the payload's first byte is its next field. -/
  | enum (dst src : Byte) (payload : List Byte)
  /-- POS_SAMPLE (R23): the count and timestamp of a dispatched POS frame, at the Position Tracker. -/
  | posSample (count stamp : Word32)
  /-- POS_SAMPLE_FLAGS (R164): the media-present and splice flags of a dispatched POS frame, at the Web Event Unit. -/
  | posSampleFlags (present splice : Bool)
  /-- MARK_CONVERSION (R40): a dispatched MARK frame, at the Position Tracker. -/
  | markConversion (lane : Lane) (shape : MarkShape) (tag : Byte) (count : Word32)
  /-- ROLL_DESCRIPTOR (R166): the five fields of a dispatched ROLL frame; the stretch is in two's complement. -/
  | rollDescriptor (media : MediaClass) (width thickness stretch : BitVec 16) (laminate : Bool)
  /-- STATUS (R141): a dispatched STATUS frame: sender, raw temperature code, nip sensor state. -/
  | status (src raw : Byte) (sensor : NipSensor)
  /-- ACT_DONE (R114): a dispatched ACT_DONE reply: sender and action id. -/
  | actDone (src : Byte) (id : BitVec 16)
  /-- ACT_FAULT (R115): a dispatched ACT_FAULT reply: sender, action id and station fault code. -/
  | actFault (src : Byte) (id : BitVec 16) (code : Byte)
  /-- SAMPLE_TIMER_EXPIRY (R30). -/
  | sampleTimerExpiry
  /-- ESTIMATE_TICK (R31): one 1 ms tick, at the Position Tracker in ESTIMATED. -/
  | estimateTick
  /-- ESTIMATE_TIME_EXPIRY (R31): the tick at which the estimate time reaches 1,000 ms. -/
  | estimateTimeExpiry
  /-- ACT_TIMEOUT_EXPIRY (R116): the timeout of the station's outstanding action runs out. -/
  | actTimeoutExpiry (station : Station)
  /-- VALIDITY_TIMER_EXPIRY (R141). -/
  | validityTimerExpiry
  /-- ACTION_ISSUE (R108): the due head of the station is issued. -/
  | actionIssue (station : Station)
  /-- CUT_SKIPPED (R106): the head cut of the lane's cutter is late beyond its tolerance. -/
  | cutSkipped (lane : Lane)
  /-- HEAD_CANCELLED (R111): the head of a FAULTED or OFFLINE station has reached its fire point. -/
  | headCancelled (station : Station)
  /-- WINDOW_EXPIRY (R59): P has passed the window of the lane's next expected mark. -/
  | windowExpiry (lane : Lane)
  /-- SEGMENT_RETIREMENT (R87): the segment at this place of the lane map, counted from the oldest, retires. -/
  | segmentRetirement (lane : Lane) (place : Nat)
  /-- LANE_DRAINED (R74): a DRAINING lane whose map is empty. -/
  | laneDrained (lane : Lane)
  /-- WEB_BREAK (R170): the absence accumulator has reached DB. -/
  | webBreak
  /-- ZONE_PASSING (R126): zone entries whose end the laminator position has passed. -/
  | zonePassing
  /-- SPLICE_PASSED (R174): splice entries that P has passed. -/
  | splicePassed
  /-- TRIM_SHORT (R156): the trim-short test of a lane. -/
  | trimShort (lane : Lane)
  /-- ATTN_QUEUED (R205): the pending ATTN frame is placed. -/
  | attnQueued
  /-- REPORT_QUEUED (R208): the oldest report moves into the own normal queue. -/
  | reportQueued
  /-- WRITE_JOB (R12), request code 01h. -/
  | writeJob (token : Byte) (body : List Byte)
  /-- DELETE_JOB (R13), request code 02h. -/
  | deleteJob (token : Byte) (body : List Byte)
  /-- READ_JOB (R14), request code 03h. -/
  | readJob (token : Byte) (body : List Byte)
  /-- WRITE_STATION (R96), request code 10h. -/
  | writeStation (token : Byte) (body : List Byte)
  /-- WRITE_LANE (R70), request code 11h. -/
  | writeLane (token : Byte) (body : List Byte)
  /-- WRITE_LINE (R198), request code 12h. -/
  | writeLine (token : Byte) (body : List Byte)
  /-- LANE_START (R71), request code 20h. -/
  | laneStart (token : Byte) (body : List Byte)
  /-- LANE_DRAIN (R72), request code 21h. -/
  | laneDrain (token : Byte) (body : List Byte)
  /-- LANE_STOP (R73), request code 22h. -/
  | laneStop (token : Byte) (body : List Byte)
  /-- CLEAR_STATION (R120), request code 30h. -/
  | clearStation (token : Byte) (body : List Byte)
  /-- CLEAR_LOST (R37), request code 31h. -/
  | clearLost (token : Byte) (body : List Byte)
  /-- INJECT_MARK (R51), request code 32h. -/
  | injectMark (token : Byte) (body : List Byte)
  /-- READ_STATUS (R200), request code 40h. -/
  | readStatus (token : Byte) (body : List Byte)
  /-- READ_MAP (R201), request code 41h. -/
  | readMap (token : Byte) (body : List Byte)
  /-- CLEAR_FLAGS (R204), request code 50h. -/
  | clearFlags (token : Byte) (body : List Byte)
  /-- SET_ATTN_MASK (R204), request code 51h. -/
  | setAttnMask (token : Byte) (body : List Byte)
  /-- CLEAR_COUNTERS (R209), request code 52h. -/
  | clearCounters (token : Byte) (body : List Byte)
  /-- LINE_RESET (R210), request code 60h, unicast or broadcast. -/
  | lineReset (broadcast : Bool) (token : Byte) (body : List Byte)
  /-- UNKNOWN_REQUEST (R197): a request whose code is in no row of R197's table. -/
  | unknownRequest (code token : Byte) (body : List Byte)
deriving DecidableEq, Repr

end Sys2Proof
end

