-- ==== Sys2Proof/Decode.lean ====
section
/-! DEFINITION. The reader of a command from the bits of spec/opcode_table.json. No row of the table gives bits (every
"fields" list is empty and no row has "fixed"), so no word spells a command: a command reaches the block as a frame
(Machine/Frames.lean reads those) or as an event. -/

namespace Sys2Proof

/-- The command a word spells by the table's bits: none, since the table gives no row any bits. -/
def decodeTableWord (_nbits _w : Nat) : Option Instr := none

end Sys2Proof
end

