-- ==== Sys2Proof/Machine/Arith.lean ====
section
/-! DEFINITION. Position comparison, rounding, saturating counters and byte order (spec/00, Units and Numeric Conventions). -/

namespace Sys2Proof.Machine

/-- The 32-bit difference `b - a` read as a signed number (spec/00, Position comparison). -/
def sdiff (b a : Word32) : Int := (b - a).toInt

/-- Position `a` precedes position `b` (spec/00, Position comparison). -/
def precedes (a b : Word32) : Bool := decide (0 < sdiff b a)

/-- The published position `p` reaches `x`: it equals `x`, or `x` precedes it (spec/00, Position comparison). -/
def reaches (p x : Word32) : Bool := decide (p = x) || precedes x p

/-- The one of two positions that follows the other. -/
def later (a b : Word32) : Word32 := if precedes a b then b else a

/-- The one of two positions that precedes the other. -/
def earlier (a b : Word32) : Word32 := if precedes b a then b else a

/-- Nearest integer to `n / d`, an exact half away from zero, for `d > 0` (spec/00, Integer arithmetic). -/
def roundHalfAway (n : Int) (d : Nat) : Int :=
  if n < 0 then -((2 * n.natAbs + d) / (2 * d) : Nat) else ((2 * n.natAbs + d) / (2 * d) : Nat)

/-- The quotient rounded toward zero (spec/00, Integer arithmetic). -/
def truncDiv (n d : Int) : Int := n.tdiv d

/-- The least integer not below `n / d` (spec/00, Integer arithmetic). -/
def ceilDiv (n d : Nat) : Nat := (n + d - 1) / d

/-- A value clamped to a range (spec/00, Integer arithmetic). -/
def clampInt (lo hi x : Int) : Int := max lo (min hi x)

/-- A value clamped to a range, for naturals. -/
def clampNat (lo hi x : Nat) : Nat := max lo (min hi x)

/-- The stretch range, −20,000 to +20,000 ppm (spec/00). -/
def clampStretch (x : Int) : Int := clampInt (-20000) 20000 x

/-- One increment of a 16-bit saturating counter (spec/00, Counters). -/
def bump (n : Nat) : Nat := min (n + 1) 65535

/-- `k` increments of a 16-bit saturating counter. -/
def bumpBy (k n : Nat) : Nat := min (n + k) 65535

/-! ## Byte order: most significant byte first (section 9.2) -/

/-- One byte holding a value. -/
def be8 (n : Nat) : List Byte := [BitVec.ofNat 8 n]

/-- Two bytes, most significant first. -/
def be16 (n : Nat) : List Byte := [BitVec.ofNat 8 (n / 256), BitVec.ofNat 8 n]

/-- Four bytes, most significant first. -/
def be32 (n : Nat) : List Byte :=
  [BitVec.ofNat 8 (n / 16777216), BitVec.ofNat 8 (n / 65536), BitVec.ofNat 8 (n / 256), BitVec.ofNat 8 n]

/-- Two bytes of a signed value in two's complement. -/
def be16i (x : Int) : List Byte := be16 (BitVec.ofInt 16 x).toNat

/-- The byte at an offset of a body; a body is read only once its length has been checked. -/
def byteAt (body : List Byte) (i : Nat) : Nat := (body.getD i 0#8).toNat

/-- The two-byte field at an offset. -/
def field16 (body : List Byte) (i : Nat) : Nat := byteAt body i * 256 + byteAt body (i + 1)

/-- The three-byte field at an offset. -/
def field24 (body : List Byte) (i : Nat) : Nat := field16 body i * 256 + byteAt body (i + 2)

/-- The four-byte field at an offset. -/
def field32 (body : List Byte) (i : Nat) : Nat := field16 body i * 65536 + field16 body (i + 2)

/-! ## The frame check sequence -/

/-- One bit of the CRC-16 register, generator 1021h (R181). -/
def crcBit (r : BitVec 16) : BitVec 16 := if r.msb then (r <<< 1) ^^^ 0x1021#16 else r <<< 1

/-- One byte into the CRC-16 register, most significant bit first (R181). -/
def crcByte (r : BitVec 16) (b : Byte) : BitVec 16 :=
  let r0 := r ^^^ (b.zeroExtend 16 <<< 8)
  crcBit (crcBit (crcBit (crcBit (crcBit (crcBit (crcBit (crcBit r0)))))))

/-- The CRC-16 of a run of bytes, the register starting at FFFFh (R181). -/
def crc16 (bytes : List Byte) : BitVec 16 := bytes.foldl crcByte 0xFFFF#16

end Sys2Proof.Machine
end

