-- ==== Sys2Proof/Machine/State.lean ====
section
/-! DEFINITION. The state of the FL-620 as plain data, block by block as the spec's chapters give it, the reasons a step can
stop, and the state after a cold reset. Fields marked MODEL are the model's own and no register of the part. -/

namespace Sys2Proof.Machine

/-! ## Link (spec/09) -/

/-- A frame in a queue or in transmission (section 9.2). LEN is the payload's length and CHK the CRC of the rest, so neither
is stored: every received frame has passed R180, and every originated one carries the CRC (R181). -/
structure Frame where
  dst : Byte
  src : Byte
  kind : Byte
  payload : List Byte
deriving DecidableEq, Repr

/-- The north port (R179, R188, R190, R192). -/
structure NorthPort where
  /-- UP or DOWN, as the receiver reports (R179). -/
  up : Bool
  /-- The frame whose transmission has begun (R188). -/
  tx : Option Frame
  /-- The forward queue, 16 places (R188). -/
  fwd : List Frame
  /-- The own normal queue, 8 places (R188). -/
  own : List Frame
  /-- The run count, 0 to 4 (R190). -/
  run : Nat
  crcErrors : Nat
  fwdDrops : Nat
deriving DecidableEq, Repr

/-- The south port (R179, R188, R189, R192). -/
structure SouthPort where
  up : Bool
  tx : Option Frame
  /-- The urgent queue of ACT frames (R188). -/
  urgent : List Frame
  fwd : List Frame
  crcErrors : Nat
  fwdDrops : Nat
deriving DecidableEq, Repr

/-! ## Position Tracker and line setup (spec/02, R198) -/

/-- The tracker's states (R21). -/
inductive TrackerMode where
  | noDatum
  | tracking
  | estimated
  | holding
  | lost
deriving DecidableEq, Repr

/-- The last accepted count C_prev and timestamp t_prev (R21). -/
structure Reference where
  count : Word32
  stamp : Word32
deriving DecidableEq, Repr

/-- The Position Tracker (R21). -/
structure Tracker where
  mode : TrackerMode
  /-- The published web position P. -/
  p : Word32
  /-- P_enc. -/
  pEnc : Word32
  /-- The fraction F, in 1/65,536 pu. -/
  frac : Nat
  /-- The reverse debt R, in counts. -/
  debt : Nat
  /-- The speed v, in 1/256 pu per ms. -/
  speed : Nat
  reference : Option Reference
  jumpRun : Nat
  /-- The sample timer: stopped, or the milliseconds left, 0 once it has run out and its expiry is still to be taken. -/
  sampleTimer : Option Nat
  /-- The estimate fraction, in 1/256 pu. -/
  estFrac : Nat
  /-- The estimated advance E. -/
  estAdvance : Nat
  /-- The estimate time, in ms. -/
  estTime : Nat
  jumps : Nat
  outOfRange : Nat
  reverseDiscarded : Nat
deriving DecidableEq, Repr

/-- The conflict policy (R128). -/
inductive Policy where
  | forbidWins
  | requireWins
deriving DecidableEq, Repr

/-- The mode of a stop line (R175). -/
inductive StopMode where
  | disabled
  | openDrain
  | pushPull
deriving DecidableEq, Repr

/-- The line setup record: the thirteen fields of WRITE LINE (R198; R22, R109, R128, R163, R175, R176). -/
structure LineSetup where
  k : Nat
  revLimit : Nat
  ts : Nat
  estLimit : Nat
  /-- The issue horizon H, in µs. -/
  horizon : Nat
  bridge : Nat
  policy : Policy
  db : Nat
  spliceDist : Nat
  stop0Mode : StopMode
  stop0Mask : BitVec 24
  stop1Mode : StopMode
  stop1Mask : BitVec 24
deriving DecidableEq, Repr

/-! ## Job Table (spec/01) -/

/-- The lane field of a job record (R2). -/
inductive LaneSelect where
  | a
  | b
  | any
deriving DecidableEq, Repr

/-- The mode of a lamination zone (R2, R5). -/
inductive ZoneMode where
  | required
  | forbidden
deriving DecidableEq, Repr

/-- A zone of a job record: nominal offsets and mode (R2). -/
structure Zone where
  x1 : Nat
  x2 : Nat
  mode : ZoneMode
deriving DecidableEq, Repr

/-- The definition of a job record, fields 1 to 10 (R2). -/
structure JobDef where
  tag : Byte
  lane : LaneSelect
  copies : Nat
  lNom : Nat
  tail : Bool
  cuts : List Nat
  zones : List Zone
  /-- The near and far trim offsets, in lu. -/
  trim : Option (Nat × Nat)
  pitches : List Nat
  notify : Bool
deriving DecidableEq, Repr

/-- The state of a slot that holds a record (R8); an EMPTY slot holds none. -/
inductive JobState where
  | loaded
  | exhausted
deriving DecidableEq, Repr

/-- A job record: definition and run-time part (R2, R8). -/
structure JobRecord where
  defn : JobDef
  state : JobState
  remaining : Nat
  registered : Nat
  inUse : Nat
deriving DecidableEq, Repr

/-! ## Lanes: Mark Tracker, Web Map, Trim Planner and queues (spec/03, 04, 05, 07) -/

/-- The lane record (R69). -/
structure LaneRecord where
  nearEdge : Nat
  farEdge : Nat
  markTol : Nat
  gain : Nat
deriving DecidableEq, Repr

/-- The lane states (section 4.2). -/
inductive LaneMode where
  | disabled
  | running
  | draining
deriving DecidableEq, Repr

/-- The state of a segment (R76). -/
inductive SegState where
  | opened
  | closed
deriving DecidableEq, Repr

/-- The next expected mark of an OPEN segment (R46). -/
inductive NextMark where
  | pitch (index : Nat)
  | tail
deriving DecidableEq, Repr

/-- Why a segment left its map (R76). -/
inductive Cause where
  | complete
  | webBreak
  | lost
  | stop
deriving DecidableEq, Repr

/-- The state of a trim watch (R155). -/
inductive WatchState where
  | waiting
  | short
  | ended
deriving DecidableEq, Repr

/-- A segment's trim watch (R155). `watched` names the knife action by the serial of the segment that created it; `moving` is
the move in progress of R153. -/
structure Watch where
  watched : Option Nat
  state : WatchState
  moving : Bool
deriving DecidableEq, Repr

/-- A segment record (R76). Its lane is the map it stands in. -/
structure Segment where
  /-- MODEL: the segment's serial, by which its actions and zone entries name it. -/
  id : Nat
  tag : Byte
  slot : Nat
  ordinal : Nat
  pCue : Word32
  /-- The anchor's web coordinate P_a. -/
  anchorP : Word32
  /-- The anchor's nominal offset x_a. -/
  anchorX : Nat
  /-- s_seg, in ppm. -/
  stretch : Int
  state : SegState
  next : Option NextMark
  /-- The twelve defect flags, in the bit order of the report record. -/
  flags : BitVec 12
  unfinished : Nat
  cutsDone : Nat
  cutsLate : Nat
  cutsMissed : Nat
  lateness : Nat
  trimShort : Nat
  faultCode : Option Byte
  cause : Option Cause
  watch : Watch
deriving DecidableEq, Repr

/-- The kind of an action (R99). -/
inductive ActKind where
  | engage
  | release
  | move
  | park
  | cut
deriving DecidableEq, Repr

/-- A PLANNED action (R99). Its station is the queue it stands in. -/
structure Action where
  kind : ActKind
  /-- The serial of the owning segment; none for a LAM action and for an orphan. -/
  owner : Option Nat
  /-- MODEL: the serial of the segment that created it, which names it also once it is an orphan. -/
  key : Nat
  /-- The nominal cut offset (CUT only). -/
  offset : Nat
  target : Word32
  near : Nat
  far : Nat
deriving DecidableEq, Repr

/-- An ISSUED action, the outstanding action of its station (R99). -/
structure Issued where
  act : Action
  id : BitVec 16
  orphan : Bool
  /-- The milliseconds left before expiry (R116). -/
  timeout : Nat
deriving DecidableEq, Repr

/-- The knife plan (R148). -/
inductive KnifePlan where
  | parked
  | pair (near far : Nat)
  | unknown
deriving DecidableEq, Repr

/-- Everything the part holds for one lane. -/
structure LaneState where
  record : LaneRecord
  mode : LaneMode
  /-- The lane map, oldest first (R79). -/
  segs : List Segment
  /-- s_lane (R65). -/
  stretch : Int
  cuesRefused : Nat
  strayMarks : Nat
  missedMarks : Nat
  noRoom : Nat
  synthetic : Nat
  /-- The queue of the lane's cutter (R100). -/
  cutQueue : List Action
  /-- The queue of the lane's trim station (R100). -/
  trimQueue : List Action
  knifePlan : KnifePlan
  /-- The lateral reference (R148). -/
  lateral : Option (Nat × Nat)
  /-- The pending knife action, by the serial of its segment (R148). -/
  pendingKnife : Option Nat
  /-- The move record: from-positions of each knife action not yet final (R148). -/
  moves : List (Nat × Option (Nat × Nat))
deriving DecidableEq, Repr

/-! ## Stations (spec/05) -/

/-- A station record (R95). Fields 7 and 8 belong to trim stations, 9 and 10 to LAM. -/
structure StationRecord where
  enabled : Bool
  addr : Byte
  dist : Nat
  latency : Nat
  tol : Nat
  timeout : Nat
  knifeSpeed : Nat
  settle : Nat
  /-- The temperature table: raw code and value of each point. -/
  table : List (Nat × Nat)
  tMin : Nat
  tMax : Nat
deriving DecidableEq, Repr

/-- The station states (R97). -/
inductive StationMode where
  | offline
  | ready
  | busy
  | faulted
deriving DecidableEq, Repr

/-- What the scheduler holds for one station (R95, R97, R122). -/
structure StationState where
  record : Option StationRecord
  mode : StationMode
  outstanding : Option Issued
  staleReplies : Nat
  timeouts : Nat
deriving DecidableEq, Repr

/-! ## Nip Planner (spec/06) -/

/-- A zone-list entry (R125). -/
structure ZoneEntry where
  lane : Lane
  /-- The serial of the owning segment. -/
  seg : Nat
  number : Nat
  mode : ZoneMode
  x1 : Nat
  x2 : Nat
  a : Word32
  b : Word32
deriving DecidableEq, Repr

/-- What names an entry of the zone list: its owning segment and its zone number (R125). -/
structure ZoneKey where
  lane : Lane
  seg : Nat
  number : Nat
deriving DecidableEq, Repr

/-- A stretch [a, b] of web (section 6.2). -/
structure Stretch where
  a : Word32
  b : Word32
deriving DecidableEq, Repr

/-- The commanded state of the nip (R132). -/
inductive NipState where
  | unknown
  | opened
  | closed
deriving DecidableEq, Repr

/-- The kind of a nip transition (R102). -/
inductive NipKind where
  | engage
  | release
deriving DecidableEq, Repr

/-- The outcome of the last issued transition (R132). -/
inductive Outcome3 where
  | pending
  | confirmed
  | failed
deriving DecidableEq, Repr

/-- The last issued transition (R132). -/
structure LastTransition where
  kind : NipKind
  target : Word32
  id : BitVec 16
  outcome : Outcome3
deriving DecidableEq, Repr

/-- The offered transition (R132). -/
structure Offer where
  kind : NipKind
  target : Word32
  /-- The wanted-from point w. -/
  wanted : Word32
  corrective : Bool
deriving DecidableEq, Repr

/-- The Nip Planner (R125, R130, R132, R141). The policy and BRIDGE are fields of the line setup record. -/
structure Nip where
  zones : List ZoneEntry
  plan : List Stretch
  /-- The REQUIRED entries whose ENGAGE has been issued, which R139 asks for (notes/assumptions/10.md). -/
  begun : List ZoneKey
  commanded : NipState
  /-- The decided point h. -/
  decided : Option Word32
  last : Option LastTransition
  releaseRequest : Bool
  offer : Option Offer
  temp : Nat
  tempValid : Bool
  /-- The validity timer: stopped, or the milliseconds left. -/
  validity : Option Nat
  sensor : Option NipSensor
deriving DecidableEq, Repr

/-! ## Web Event Unit (spec/08) -/

/-- A PRESENT media profile (R165); the stretch is kept as received, in two's complement. -/
structure Profile where
  media : MediaClass
  width : BitVec 16
  thickness : BitVec 16
  stretch : BitVec 16
  laminate : Bool
deriving DecidableEq, Repr

/-- The Web Event Unit (R162). -/
structure WebUnit where
  profile : Option Profile
  /-- The presence state is PRESENT. -/
  present : Bool
  absence : Nat
  broken : Bool
  spliceFlag : Bool
  splices : List Word32
  unrecorded : Nat
deriving DecidableEq, Repr

/-! ## Management and Reporting Unit (spec/10) -/

/-- A job report (R88). -/
structure Report where
  lane : Lane
  tag : Byte
  ordinal : Nat
  pCue : Word32
  stretch : Int
  flags : BitVec 12
  cutsDone : Nat
  cutsLate : Nat
  cutsMissed : Nat
  lateness : Nat
  trimShort : Nat
  faultCode : Option Byte
  cause : Cause
deriving DecidableEq, Repr

/-- The attention flags, mask, marker, report queue and the unit's two counters (R203, R205, R207, R209). Bit n − 1 of a flag
set is the flag of priority n (R200). -/
structure Mgmt where
  flags : BitVec 14
  mask : BitVec 14
  pendingAttn : Bool
  reports : List Report
  reportsLost : Nat
  requestsDropped : Nat
deriving DecidableEq, Repr

/-- The level of an output line (R175, R206). -/
inductive PinLevel where
  | highZ
  | low
  | high
deriving DecidableEq, Repr

/-- The output lines STOP0, STOP1 and ATTN_N (R175, R206). -/
structure Pins where
  stop0 : PinLevel
  stop1 : PinLevel
  attnN : PinLevel
deriving DecidableEq, Repr

/-! ## The orders the manual leaves open -/

/-- A part of a block that takes an advance of P as an event of its own (R38). -/
inductive Taker where
  /-- The Mark Tracker of a lane: mark windows (R59). -/
  | marks (lane : Lane)
  /-- The trim-short test of a lane (R156). -/
  | trimShort (lane : Lane)
  /-- The issue test of a station (R103). -/
  | station (station : Station)
  /-- The Nip Planner: passed zone entries (R126). -/
  | zones
  /-- The Web Event Unit: absence accumulation (R169). -/
  | absence
  /-- The Web Event Unit: passed splice entries (R174). -/
  | splices
deriving DecidableEq, Repr

/-- A timer that takes a 1 ms tick of the internal timebase (R30, R31, R116, R141). -/
inductive TickTaker where
  | tracker
  | station (station : Station)
  | validity
deriving DecidableEq, Repr

/-- MODEL: one free choice among the orders that the manual leaves open: which blocks take an advance first (R38), which
timers take a tick first, whether the Web Event Unit takes a POS frame before the tracker (R164), and whether the sample timer's
expiry is taken within the tick that runs it out. Blocks a list does not name follow in a fixed order (notes/assumptions/1.md and
46.md). -/
structure Turn where
  unitFirst : Bool
  expiryAtOnce : Bool
  takers : List Taker
  ticks : List TickTaker
deriving DecidableEq, Repr

/-! ## The state -/

/-- The whole state of the part. -/
structure State where
  /-- The node address (R182). -/
  nodeAddr : Byte
  north : NorthPort
  south : SouthPort
  tracker : Tracker
  setup : LineSetup
  /-- The 64 slots of the Job Table; none is an EMPTY slot (R1). -/
  jobs : List (Option JobRecord)
  laneA : LaneState
  laneB : LaneState
  lam : StationState
  trimA : StationState
  trimB : StationState
  cutA : StationState
  cutB : StationState
  /-- The last action id assigned, 0 before the first (R108, R123). -/
  lastId : BitVec 16
  nip : Nip
  web : WebUnit
  mgmt : Mgmt
  pins : Pins
  /-- MODEL: the serial the next registered segment takes. -/
  nextSeg : Nat
  /-- MODEL: the number of READ JOB responses made, the argument of Config.unusedJobByte. -/
  jobReads : Nat
  /-- MODEL: the free choices of order still to be taken; a choice beyond the list is the fixed order. -/
  turns : List Turn
  /-- MODEL: the commands waiting, first in, first out. -/
  pending : List Instr
deriving DecidableEq, Repr

/-- The reasons a step can stop with a fault. The spec gives every command an effect in every state, so no meaning raises one. -/
inductive Fault where
  /-- Raised by no command: it stands for a stop the manual would name, of which it names none. Safe, since it is never raised. -/
  | stopNamedByManual
deriving DecidableEq, Repr

/-- The reasons a step can be refused. -/
inductive Refusal where
  /-- Raised by an arm of exec whose command has no meaning yet. Safe. No arm raises it. -/
  | notModelled (mnemonic : String)
deriving DecidableEq, Repr

/-! ## Reset values -/

/-- The line setup record's defaults (R211, R22, R109, R128, R163, R175). -/
def LineSetup.default : LineSetup :=
  { k := 655360, revLimit := 2000, ts := 5, estLimit := 50000, horizon := 2000, bridge := 15000, policy := .forbidWins,
    db := 5000, spliceDist := 0, stop0Mode := .disabled, stop0Mask := 0#24, stop1Mode := .disabled, stop1Mask := 0#24 }

/-- The tracker after a cold reset (R21, R44). -/
def Tracker.reset : Tracker :=
  { mode := .noDatum, p := 0#32, pEnc := 0#32, frac := 0, debt := 0, speed := 0, reference := none, jumpRun := 0,
    sampleTimer := none, estFrac := 0, estAdvance := 0, estTime := 0, jumps := 0, outOfRange := 0, reverseDiscarded := 0 }

/-- The lane record's defaults (R69). -/
def LaneRecord.default : Lane → LaneRecord
  | .a => { nearEdge := 0, farEdge := 16000, markTol := 2000, gain := 4 }
  | .b => { nearEdge := 16000, farEdge := 32000, markTol := 2000, gain := 4 }

/-- A lane after a reset that leaves it this record (R68, R93, R94, R160). -/
def LaneState.reset (record : LaneRecord) : LaneState :=
  { record := record, mode := .disabled, segs := [], stretch := 0, cuesRefused := 0, strayMarks := 0, missedMarks := 0,
    noRoom := 0, synthetic := 0, cutQueue := [], trimQueue := [], knifePlan := .parked, lateral := none,
    pendingKnife := none, moves := [] }

/-- A station after a cold reset (R123). -/
def StationState.reset : StationState :=
  { record := none, mode := .offline, outstanding := none, staleReplies := 0, timeouts := 0 }

/-- The Nip Planner after a cold reset (R146). -/
def Nip.reset : Nip :=
  { zones := [], plan := [], begun := [], commanded := .unknown, decided := none, last := none, releaseRequest := false, offer := none,
    temp := 0, tempValid := false, validity := none, sensor := none }

/-- The Web Event Unit after a reset (R162, R178). -/
def WebUnit.reset : WebUnit :=
  { profile := none, present := true, absence := 0, broken := false, spliceFlag := false, splices := [], unrecorded := 0 }

/-- The Management and Reporting Unit after a cold reset (R211). -/
def Mgmt.reset : Mgmt :=
  { flags := 0#14, mask := 0x3FFF#14, pendingAttn := false, reports := [], reportsLost := 0, requestsDropped := 0 }

/-- A north port with this link state after a cold reset (R194). -/
def NorthPort.reset (up : Bool) : NorthPort :=
  { up := up, tx := none, fwd := [], own := [], run := 0, crcErrors := 0, fwdDrops := 0 }

/-- A south port with this link state after a cold reset (R194). -/
def SouthPort.reset (up : Bool) : SouthPort :=
  { up := up, tx := none, urgent := [], fwd := [], crcErrors := 0, fwdDrops := 0 }

/-- The machine after a cold reset (R19, R44, R68, R93, R123, R146, R160, R162, R194, R211). Each port's link state follows its
line (R194), so reset gives it no value: both ports UP is a DESIGN CHOICE (notes/assumptions/2.md). -/
def State.reset : State :=
  { nodeAddr := 0#8, north := NorthPort.reset true, south := SouthPort.reset true, tracker := Tracker.reset,
    setup := LineSetup.default, jobs := List.replicate 64 none, laneA := LaneState.reset (LaneRecord.default .a),
    laneB := LaneState.reset (LaneRecord.default .b), lam := StationState.reset, trimA := StationState.reset,
    trimB := StationState.reset, cutA := StationState.reset, cutB := StationState.reset, lastId := 0#16,
    nip := Nip.reset, web := WebUnit.reset, mgmt := Mgmt.reset,
    pins := { stop0 := .highZ, stop1 := .highZ, attnN := .highZ }, nextSeg := 0, jobReads := 0, turns := [], pending := [] }

end Sys2Proof.Machine
end

