-- ==== Sys2Proof/Machine/Flags.lean ====
section
/-! DEFINITION. The attention flags, the defect flags and the output lines: how each is set, and what the lines show. -/

namespace Sys2Proof.Machine

/-! ## Attention flags (R203) -/

/-- The priority number of each attention flag, 1 to 14 (R203). -/
def prioTrackLost : Nat := 1
def prioWebBreak : Nat := 2
def prioStationFault : Nat := 3
def prioNoRoom : Nat := 4
def prioCutMissed : Nat := 5
def prioLamConflict : Nat := 6
def prioLamTemp : Nat := 7
def prioTrimShort : Nat := 8
def prioMarkMissed : Nat := 9
def prioCueRefused : Nat := 10
def prioTrackEstimated : Nat := 11
def prioRollRefused : Nat := 12
def prioReportLost : Nat := 13
def prioLinkError : Nat := 14

/-- The bit of the flag of a priority: bit n − 1 (R200). -/
def attnBit (prio : Nat) : BitVec 14 := 1#14 <<< (prio - 1)

/-- The flag of this priority is set in a flag set. -/
def attnHas (flags : BitVec 14) (prio : Nat) : Bool := flags.getLsbD (prio - 1)

/-- An attention flag is set. A flag in the mask that rises sets the pending ATTN marker (R203, R205). -/
def raise (prio : Nat) (s : State) : State :=
  { s with
    mgmt :=
      { s.mgmt with
        flags := s.mgmt.flags ||| attnBit prio
        pendingAttn := s.mgmt.pendingAttn || (!attnHas s.mgmt.flags prio && attnHas s.mgmt.mask prio) } }

/-- The priority number of the highest-priority flag in a set, 0 for none, looking at `n` priorities from `prio` on. -/
def firstPrioFrom (flags : BitVec 14) : Nat → Nat → Nat
  | 0, _ => 0
  | n + 1, prio => if attnHas flags prio then prio else firstPrioFrom flags n (prio + 1)

/-- The priority number of the highest-priority flag that is both set and in the mask, or 0 (R205, section 9.2). -/
def highestPending (m : Mgmt) : Nat := firstPrioFrom (m.flags &&& m.mask) 14 1

/-! ## Defect flags (R77; bits of the report record, section 9.2) -/

def defMarkMissed : BitVec 12 := 0x001#12
def defSpliced : BitVec 12 := 0x002#12
def defLamShort : BitVec 12 := 0x004#12
def defLamSpoiled : BitVec 12 := 0x008#12
def defLamTemp : BitVec 12 := 0x010#12
def defCutLate : BitVec 12 := 0x020#12
def defCutMissed : BitVec 12 := 0x040#12
def defTrimShort : BitVec 12 := 0x080#12
def defTrimClamped : BitVec 12 := 0x100#12
def defStationFault : BitVec 12 := 0x200#12
def defEstimated : BitVec 12 := 0x400#12
def defSpoiled : BitVec 12 := 0x800#12

/-- A defect flag is set on a segment; set again it changes nothing (R77). -/
def Segment.flag (d : BitVec 12) (g : Segment) : Segment := { g with flags := g.flags ||| d }

/-! ## Live conditions and output lines (R42, R122, R145, R175 to R177, R206) -/

/-- A station is configured: its record is present and enabled (R71, R95). -/
def StationState.configured (st : StationState) : Bool :=
  match st.record with
  | some r => r.enabled
  | none => false

/-- The lower and upper end of the temperature window, (0, 0) while the LAM record is absent (R143). -/
def tempWindow (s : State) : Nat × Nat :=
  match s.lam.record with
  | some r => (r.tMin, r.tMax)
  | none => (0, 0)

/-- The temperature is out of window: T_min is above 0, and it is invalid, below T_min or above T_max (R143). -/
def tempOut (s : State) : Bool :=
  decide (0 < (tempWindow s).1) &&
    (!s.nip.tempValid || decide (s.nip.temp < (tempWindow s).1) || decide ((tempWindow s).2 < s.nip.temp))

/-- STATE_LOST (R42). -/
def liveLost (s : State) : Bool := decide (s.tracker.mode = .lost)

/-- STATE_ESTIMATED (R42). -/
def liveEstimated (s : State) : Bool := decide (s.tracker.mode = .estimated) || decide (s.tracker.mode = .holding)

/-- ANY_STATION_FAULTED (R122). -/
def liveFaulted (s : State) : Bool :=
  decide (s.lam.mode = .faulted) || decide (s.trimA.mode = .faulted) || decide (s.trimB.mode = .faulted) ||
    decide (s.cutA.mode = .faulted) || decide (s.cutB.mode = .faulted)

/-- LAM_TEMP_OUT (R145). -/
def liveTempOut (s : State) : Bool := s.lam.configured && tempOut s

/-- The eighteen stop-line sources, source n as bit n − 1 (R176); bits 18 to 23 of a mask select nothing. -/
def stopSources (s : State) : BitVec 24 :=
  s.mgmt.flags.zeroExtend 24 ||| (if liveLost s then 1#24 <<< 14 else 0#24) |||
    (if liveEstimated s then 1#24 <<< 15 else 0#24) ||| (if liveFaulted s then 1#24 <<< 16 else 0#24) |||
    (if liveTempOut s then 1#24 <<< 17 else 0#24)

/-- The level of a stop line with this mode and mask (R175, R176). -/
def stopLevel (mode : StopMode) (mask : BitVec 24) (s : State) : PinLevel :=
  match mode with
  | .disabled => .highZ
  | .openDrain => if mask &&& stopSources s = 0#24 then .highZ else .low
  | .pushPull => if mask &&& stopSources s = 0#24 then .high else .low

/-- The level of ATTN_N (R206). -/
def attnLevel (s : State) : PinLevel := if s.mgmt.flags &&& s.mgmt.mask = 0#14 then .highZ else .low

/-- The levels the three output lines have by R175, R176 and R206. -/
def pinLevels (s : State) : Pins :=
  { stop0 := stopLevel s.setup.stop0Mode s.setup.stop0Mask s, stop1 := stopLevel s.setup.stop1Mode s.setup.stop1Mask s,
    attnN := attnLevel s }

/-- The output lines take their levels (R177, R206). -/
def refreshPins (s : State) : State := { s with pins := pinLevels s }

end Sys2Proof.Machine
end

