-- ==== Sys2Proof/Machine/Ops.lean ====
section
/-! DEFINITION. The operations every block uses: the two lanes and the five stations by name, a segment by its serial, the
job a segment was registered from, and the free choices of order. -/

namespace Sys2Proof.Machine

/-! ## Lanes and stations -/

/-- What the part holds for a lane. -/
def State.lane (s : State) : Lane → LaneState
  | .a => s.laneA
  | .b => s.laneB

/-- A lane's state replaced. -/
def State.setLane (s : State) (l : Lane) (x : LaneState) : State :=
  match l with
  | .a => { s with laneA := x }
  | .b => { s with laneB := x }

/-- A lane's state changed. -/
def State.modLane (s : State) (l : Lane) (f : LaneState → LaneState) : State := s.setLane l (f (s.lane l))

/-- What the scheduler holds for a station. -/
def State.station (s : State) : Station → StationState
  | .lam => s.lam
  | .trimA => s.trimA
  | .trimB => s.trimB
  | .cutA => s.cutA
  | .cutB => s.cutB

/-- A station's state replaced. -/
def State.setStation (s : State) (st : Station) (x : StationState) : State :=
  match st with
  | .lam => { s with lam := x }
  | .trimA => { s with trimA := x }
  | .trimB => { s with trimB := x }
  | .cutA => { s with cutA := x }
  | .cutB => { s with cutB := x }

/-- A station's state changed. -/
def State.modStation (s : State) (st : Station) (f : StationState → StationState) : State :=
  s.setStation st (f (s.station st))

/-- The cross-cutter of a lane (R95). -/
def cutterOf : Lane → Station
  | .a => .cutA
  | .b => .cutB

/-- The trim station of a lane (R95, R149). -/
def trimmerOf : Lane → Station
  | .a => .trimA
  | .b => .trimB

/-- The record a station is read through: all zeros while it is absent, when its queue is empty too. -/
def recordOr (st : StationState) : StationRecord :=
  st.record.getD
    { enabled := false, addr := 0#8, dist := 0, latency := 0, tol := 0, timeout := 0, knifeSpeed := 0, settle := 0,
      table := [], tMin := 0, tMax := 0 }

/-! ## Segments -/

/-- The segment of a lane map with this serial. -/
def State.seg? (s : State) (l : Lane) (id : Nat) : Option Segment := (s.lane l).segs.find? (fun g => g.id == id)

/-- The segment of a lane map with this serial changed; nothing changes where the map holds none (R77). -/
def State.modSeg (s : State) (l : Lane) (id : Nat) (f : Segment → Segment) : State :=
  s.modLane l (fun x => { x with segs := x.segs.map (fun g => if g.id = id then f g else g) })

/-- A defect flag set on the segment a lane map holds under this serial (R77). -/
def flagSeg (l : Lane) (id : Nat) (d : BitVec 12) (s : State) : State := s.modSeg l id (Segment.flag d)

/-- The newest segment of a lane map (R53). -/
def newest (x : LaneState) : Option Segment := x.segs.getLast?

/-- The lane's open segment: its newest, where that is OPEN (R46). -/
def openSeg (x : LaneState) : Option Segment :=
  match newest x with
  | some g => if g.state = .opened then some g else none
  | none => none

/-! ## Job Table -/

/-- The record a slot holds; none for an EMPTY slot. -/
def State.slot (s : State) (i : Nat) : Option JobRecord := (s.jobs[i]?).getD none

/-- The definition a segment reads through its job slot (R1, R76). R17 keeps the record in place while the segment exists, so
the empty definition given for an EMPTY slot is never read in a run. -/
def State.jobOf (s : State) (g : Segment) : JobDef :=
  match s.slot g.slot with
  | some r => r.defn
  | none =>
      { tag := 0#8, lane := .any, copies := 0, lNom := 0, tail := false, cuts := [], zones := [], trim := none,
        pitches := [], notify := false }

/-- The record of a slot changed. -/
def State.modSlot (s : State) (i : Nat) (f : JobRecord → JobRecord) : State :=
  { s with jobs := s.jobs.modify i (Option.map f) }

/-- The number of the slot that holds a tag, counting from `i` (R1). -/
def holdingFrom (tag : Byte) : Nat → List (Option JobRecord) → Option Nat
  | _, [] => none
  | i, some r :: rest => if r.defn.tag = tag then some i else holdingFrom tag (i + 1) rest
  | i, none :: rest => holdingFrom tag (i + 1) rest

/-- The slot that holds a tag (R1). -/
def State.holding (s : State) (tag : Byte) : Option Nat := holdingFrom tag 0 s.jobs

/-- The lowest-numbered EMPTY slot, counting from `i` (R1). -/
def emptyFrom : Nat → List (Option JobRecord) → Option Nat
  | _, [] => none
  | i, none :: _ => some i
  | i, some _ :: rest => emptyFrom (i + 1) rest

/-! ## The free choices of order (notes/assumptions/1.md) -/

/-- A list of things to do, those that a preference names first and in its order, the rest in their own order. -/
def arrange {α : Type} [DecidableEq α] : List α → List α → List α
  | [], todo => todo
  | x :: prefer, todo => if x ∈ todo then x :: arrange prefer (todo.erase x) else arrange prefer todo

/-- The next free choice of order: the front of the list, or no preference. -/
def State.turn (s : State) : Turn := s.turns.headD { unitFirst := false, expiryAtOnce := false, takers := [], ticks := [] }

/-- The next free choice of order is used up. -/
def State.dropTurn (s : State) : State := { s with turns := s.turns.tail }

end Sys2Proof.Machine
end

