-- ==== Sys2Proof/Machine/Coords.lean ====
section
/-! DEFINITION. The conversion of nominal offsets to web coordinates and what is computed from it: expected marks, spans, trim
regions; and the positions under the stations (R48, R49, R85, R104, R126, R155). -/

namespace Sys2Proof.Machine

/-- T(x) under an anchor and a stretch (R48). -/
def webCoord (anchorP : Word32) (anchorX : Nat) (stretch : Int) (x : Nat) : Word32 :=
  anchorP + BitVec.ofInt 32 (((x : Int) - anchorX) + roundHalfAway (((x : Int) - anchorX) * stretch) 1000000)

/-- T(x) of a segment under its present anchor and stretch (R48). -/
def Segment.coord (g : Segment) (x : Nat) : Word32 := webCoord g.anchorP g.anchorX g.stretch x

/-- The nominal offset of an expected mark: the pitch list entry it names, or L_nom (R49). -/
def markOffset (job : JobDef) : NextMark → Nat
  | .pitch i => job.pitches.getD i job.lNom
  | .tail => job.lNom

/-- The expected tail of a segment, T(L_nom) (R49). -/
def expectedTail (job : JobDef) (g : Segment) : Word32 := g.coord job.lNom

/-- A segment's span contains a coordinate: it lies from P_cue to the expected tail, both included (R85). -/
def inSpan (job : JobDef) (g : Segment) (x : Word32) : Bool := reaches x g.pCue && reaches (expectedTail job g) x

/-- T_first, the start of a segment's trim region (R155). -/
def trimFirst (job : JobDef) (g : Segment) : Word32 := g.coord (job.cuts.headD 0)

/-- T_last, the end of a segment's trim region, at its last cut (R155). -/
def trimLast (job : JobDef) (g : Segment) : Word32 := g.coord (job.cuts.getLastD 0)

/-- The length of a segment's whole trim region, T_last − T_first (R156). -/
def regionLength (job : JobDef) (g : Segment) : Nat := (trimLast job g - trimFirst job g).toNat

/-- A distance along the web as a 32-bit quantity. -/
def pu (d : Nat) : Word32 := BitVec.ofNat 32 d

/-- λ, the web coordinate under the nip: P − D_LAM, or P while the LAM record is absent (R126). -/
def lamPos (s : State) : Word32 := s.tracker.p - pu (recordOr s.lam).dist

/-- λ_t, the web coordinate under a lane's knives: P − D_TRIM (R155). -/
def trimPos (l : Lane) (s : State) : Word32 := s.tracker.p - pu (recordOr (s.station (trimmerOf l))).dist

/-- The lead of a station at the present speed (R104). -/
def lead (speed latency : Nat) : Nat := (speed * latency + 128000) / 256000

/-- The fire point of a target at a station: Q − lead (R104). -/
def firePoint (rec : StationRecord) (speed : Nat) (target : Word32) : Word32 :=
  target + pu rec.dist - pu (lead speed rec.latency)

/-- r, the web distance still to go before the fire point (R104). -/
def toGo (st : Station) (target : Word32) (s : State) : Int :=
  sdiff (firePoint (recordOr (s.station st)) s.tracker.speed target) s.tracker.p

/-- The head is due: r × 256,000 ≤ v × H (R105). -/
def isDue (r : Int) (speed horizon : Nat) : Bool := decide (r * 256000 ≤ ((speed * horizon : Nat) : Int))

/-- The fire delay of a head: floor(r × 256,000 / v) clamped to 0 to H on time, 0 when late or when v = 0 (R105 to R107). -/
def fireDelay (r : Int) (speed horizon : Nat) : Nat :=
  if speed = 0 then 0 else clampNat 0 horizon (r.toNat * 256000 / speed)

/-- The tolerance of a station, as the lateness it is compared with (R106). -/
def tolOf (st : Station) (s : State) : Int := ((recordOr (s.station st)).tol : Int)

end Sys2Proof.Machine
end

