-- ==== Sys2Proof/Machine/Link.lean ====
section
/-! DEFINITION. The output side of the ports: queues, arbitration, drops, and the filling of the own normal queue at the end of
an event (spec/09, sections 9.5 and 9.6; spec/10, sections 10.3 and 10.4). -/

namespace Sys2Proof.Machine

/-- The frame kind codes (section 9.2). -/
def kindEnum : Byte := 0x01#8
def kindPos : Byte := 0x10#8
def kindMark : Byte := 0x11#8
def kindRoll : Byte := 0x12#8
def kindStatus : Byte := 0x20#8
def kindAct : Byte := 0x30#8
def kindActDone : Byte := 0x31#8
def kindActFault : Byte := 0x32#8
def kindReq : Byte := 0x40#8
def kindResp : Byte := 0x41#8
def kindAttn : Byte := 0x42#8
def kindReport : Byte := 0x43#8

/-- The bytes of a frame from DST through the last payload byte. -/
def Frame.checked (f : Frame) : List Byte :=
  [f.dst, f.src, f.kind, BitVec.ofNat 8 f.payload.length] ++ f.payload

/-- The bytes of a frame on the line: CHK follows, high byte first (R181, section 9.2). -/
def Frame.wire (f : Frame) : List Byte := f.checked ++ be16 (crc16 f.checked).toNat

/-! ## Counters (R192) -/

/-- `k` forward drops of the north port; LINK_ERROR is set where there is at least one (R179, R192). -/
def dropNorth (k : Nat) (s : State) : State :=
  if k = 0 then s
  else raise prioLinkError { s with north := { s.north with fwdDrops := bumpBy k s.north.fwdDrops } }

/-- `k` forward drops of the south port. -/
def dropSouth (k : Nat) (s : State) : State :=
  if k = 0 then s
  else raise prioLinkError { s with south := { s.south with fwdDrops := bumpBy k s.south.fwdDrops } }

/-- A CRC error of a port (R180, R192). -/
def crcError (p : Port) (s : State) : State :=
  match p with
  | .north => raise prioLinkError { s with north := { s.north with crcErrors := bump s.north.crcErrors } }
  | .south => raise prioLinkError { s with south := { s.south with crcErrors := bump s.south.crcErrors } }

/-! ## Arbitration (R189, R190) -/

/-- The south arbiter's choice at a free transmitter: the urgent queue ahead of the forward queue (R189). -/
def SouthPort.choose (p : SouthPort) : SouthPort :=
  match p.urgent with
  | f :: rest => { p with tx := some f, urgent := rest }
  | [] =>
      match p.fwd with
      | f :: rest => { p with tx := some f, fwd := rest }
      | [] => p

/-- The north arbiter's choice at a free transmitter, with its run count (R190). -/
def NorthPort.choose (p : NorthPort) : NorthPort :=
  match p.own, p.fwd with
  | f :: rest, [] => { p with tx := some f, own := rest, run := 0 }
  | f :: rest, g :: more =>
      if p.run = 4 then { p with tx := some f, own := rest, run := 0 }
      else { p with tx := some g, fwd := more, run := p.run + 1 }
  | [], g :: more => { p with tx := some g, fwd := more, run := 0 }
  | [], [] => p

/-- The arbiter acts where the port is UP and its transmitter is free (R189). -/
def SouthPort.start (p : SouthPort) : SouthPort := if p.up && p.tx.isNone then p.choose else p

/-- The arbiter acts where the port is UP and its transmitter is free (R190). -/
def NorthPort.start (p : NorthPort) : NorthPort := if p.up && p.tx.isNone then p.choose else p

/-! ## Offering a frame to a queue (R179, R188, R191) -/

/-- A frame offered to the south forward queue: dropped at a DOWN port or a full queue (R179, R188). -/
def forwardSouth (f : Frame) (s : State) : State :=
  if s.south.up && decide (s.south.fwd.length < 16) then
    { s with south := { s.south with fwd := s.south.fwd ++ [f] }.start }
  else dropSouth 1 s

/-- A frame offered to the north forward queue. -/
def forwardNorth (f : Frame) (s : State) : State :=
  if s.north.up && decide (s.north.fwd.length < 16) then
    { s with north := { s.north with fwd := s.north.fwd ++ [f] }.start }
  else dropNorth 1 s

/-- An ACT frame offered to the south urgent queue: dropped at a DOWN port, never refused for want of room (R179, R188). -/
def sendUrgent (f : Frame) (s : State) : State :=
  if s.south.up then { s with south := { s.south with urgent := s.south.urgent ++ [f] }.start } else dropSouth 1 s

/-- The free places of the own normal queue; a DOWN north port has none (R179, R191). -/
def ownRoom (s : State) : Nat := if s.north.up then 8 - s.north.own.length else 0

/-- A frame placed in the own normal queue, where the caller has found room (R187, R191). -/
def placeOwn (f : Frame) (s : State) : State :=
  { s with north := { s.north with own := s.north.own ++ [f] }.start }

/-- A frame the part originates north: DST 0, the node address as SRC (R187). -/
def ownFrame (kind : Byte) (payload : List Byte) (s : State) : Frame :=
  { dst := 0#8, src := s.nodeAddr, kind := kind, payload := payload }

/-! ## Attention frames and reports (R205, R207, R208) -/

/-- The payload of an ATTN frame, built when it is placed (R205, section 9.2). -/
def attnPayload (m : Mgmt) : List Byte := be16 m.flags.toNat ++ be8 (highestPending m)

/-- An ATTN frame waits in the own normal queue untransmitted (R205). -/
def attnWaits (s : State) : Bool := s.north.own.any (fun f => f.kind = kindAttn)

/-- The marker is cleared by an event after which no flag is both set and in the mask (R205). -/
def dropMarker (s : State) : State :=
  if s.mgmt.flags &&& s.mgmt.mask = 0#14 then { s with mgmt := { s.mgmt with pendingAttn := false } } else s

/-- Step 1 of R208: while the marker is set, an ATTN frame is placed where a place is free and none waits. -/
def placeAttn (s : State) : State :=
  if s.mgmt.pendingAttn && decide (0 < ownRoom s) && !attnWaits s then
    placeOwn (ownFrame kindAttn (attnPayload s.mgmt) s) { s with mgmt := { s.mgmt with pendingAttn := false } }
  else s

/-- The code of a lane (section 9.2). -/
def laneCode : Lane → Nat
  | .a => 0
  | .b => 1

/-- The code of a retirement cause (report record, section 9.2). -/
def causeCode : Cause → Nat
  | .complete => 1
  | .webBreak => 2
  | .lost => 3
  | .stop => 4

/-- The code of a segment's last station fault code: 0 when absent (section 9.2). -/
def faultCodeByte (c : Option Byte) : Byte := c.getD 0#8

/-- The report record, 23 bytes (section 9.2). -/
def reportPayload (r : Report) : List Byte :=
  be8 (laneCode r.lane) ++ [r.tag] ++ be16 r.ordinal ++ be32 r.pCue.toNat ++ be16i r.stretch ++ be16 r.flags.toNat ++
    be8 r.cutsDone ++ be8 r.cutsLate ++ be8 r.cutsMissed ++ be16 r.lateness ++ be32 r.trimShort ++
    [faultCodeByte r.faultCode] ++ be8 (causeCode r.cause)

/-- The oldest report moves into the own normal queue as a REPORT frame (R207, R208). -/
def moveReport (s : State) : State :=
  match s.mgmt.reports with
  | r :: rest =>
      placeOwn (ownFrame kindReport (reportPayload r) s) { s with mgmt := { s.mgmt with reports := rest } }
  | [] => s

/-- Step 2 of R208, for at most `n` reports: while a report waits and at least two places are free, the oldest moves in. -/
def moveReports : Nat → State → State
  | 0, s => s
  | n + 1, s => if s.mgmt.reports ≠ [] ∧ 2 ≤ ownRoom s then moveReports n (moveReport s) else s

/-- The unit fills free places of the own normal queue at the end of an event (R208). -/
def fillOwn (s : State) : State :=
  let s1 := placeAttn (dropMarker s)
  moveReports s1.mgmt.reports.length s1

/-- The end of an event: the own normal queue is filled and the output lines take their levels (R177, R206, R208). -/
def finish (s : State) : State := refreshPins (fillOwn s)

/-! ## Reports handed over (R88, R207) -/

/-- A report is appended to the report queue, or lost where it holds 16 (R207). -/
def handReport (r : Report) (s : State) : State :=
  if s.mgmt.reports.length < 16 then { s with mgmt := { s.mgmt with reports := s.mgmt.reports ++ [r] } }
  else raise prioReportLost { s with mgmt := { s.mgmt with reportsLost := bump s.mgmt.reportsLost } }

end Sys2Proof.Machine
end

