-- ==== Sys2Proof/Machine/Issue.lean ====
section
/-! DEFINITION. Issuing an action: what is common to every station (R108, R116). -/

namespace Sys2Proof.Machine

/-- The id after the last one assigned, with 1 following 65,535 (R108). -/
def nextId (last : BitVec 16) : BitVec 16 := if last = 65535#16 then 1#16 else last + 1#16

/-- The kind code of an action in an ACT frame (section 9.2). -/
def actKindCode : ActKind → Nat
  | .engage => 1
  | .release => 2
  | .move => 3
  | .park => 4
  | .cut => 5

/-- The payload of an ACT frame: id, kind, fire delay, and for MOVE the knife positions (R108, section 9.2). -/
def actPayload (id : BitVec 16) (act : Action) (delay : Nat) : List Byte :=
  be16 id.toNat ++ be8 (actKindCode act.kind) ++ be16 delay ++
    (if act.kind = .move then be16 act.near ++ be16 act.far else be16 0 ++ be16 0)

/-- The ACT frame of an action, from the node address to the station's (R108, R187). -/
def actFrame (st : Station) (id : BitVec 16) (act : Action) (delay : Nat) (s : State) : Frame :=
  { dst := (recordOr (s.station st)).addr, src := s.nodeAddr, kind := kindAct, payload := actPayload id act delay }

/-- The tracker works from an estimated position: ESTIMATED or HOLDING (R108, step 6). -/
def isEstimating (s : State) : Bool := liveEstimated s

/-- The owner of an action flagged ESTIMATED where the tracker is ESTIMATED or HOLDING (R108, step 6). -/
def flagEstimated (l : Lane) (act : Action) (s : State) : State :=
  match act.owner with
  | some id => if isEstimating s then flagSeg l id defEstimated s else s
  | none => s

/-- Steps 1 to 5 of R108: the action takes the next id and becomes the station's outstanding action, its ACT frame is queued
urgent, the station enters BUSY, and the timeout starts at ACT timeout + ceiling(fire delay / 1,000) + the move estimate
(R116). The caller has taken the action out of its queue. -/
def issueCore (st : Station) (act : Action) (delay estimate : Nat) (s : State) : State :=
  let id := nextId s.lastId
  sendUrgent (actFrame st id act delay s)
    ({ s with lastId := id }.modStation st (fun x =>
      { x with
        mode := .busy
        outstanding :=
          some { act := act, id := id, orphan := false,
                 timeout := (recordOr x).timeout + ceilDiv delay 1000 + estimate } }))

end Sys2Proof.Machine
end

