-- ==== Sys2Proof/Machine/Plan.lean ====
section
/-! DEFINITION. The nip plan as a computation on stretches of web (R127 to R130). Every comparison is the signed difference of
spec/00, as R127 says. -/

namespace Sys2Proof.Machine

/-- Two stretches overlap: they share a length of web of more than 0 pu (R127). -/
def Stretch.overlaps (s t : Stretch) : Bool := precedes (later s.a t.a) (earlier s.b t.b)

/-- Two stretches touch: they share a point, their ends included (R127). -/
def Stretch.touches (s t : Stretch) : Bool := !precedes s.b t.a && !precedes t.b s.a

/-- A stretch holds a coordinate, its ends included. R144 does not say whether an end counts as contained; the model counts both,
unlike the half-open reading of R134 and R143 (notes/assumptions/42.md, DESIGN CHOICE). -/
def Stretch.contains (s : Stretch) (x : Word32) : Bool := reaches x s.a && reaches s.b x

/-- A stretch put into a list ordered by start. -/
def insertStretch (s : Stretch) : List Stretch → List Stretch
  | [] => [s]
  | t :: rest => if precedes s.a t.a then s :: t :: rest else t :: insertStretch s rest

/-- Stretches ordered by start. -/
def sortStretches (xs : List Stretch) : List Stretch := xs.foldl (fun acc s => insertStretch s acc) []

/-- Ordered stretches with those that overlap or meet end to end made one, `cur` being the one at hand. -/
def mergeFrom (cur : Stretch) : List Stretch → List Stretch
  | [] => [cur]
  | t :: rest => if precedes cur.b t.a then cur :: mergeFrom t rest else mergeFrom ⟨cur.a, later cur.b t.b⟩ rest

/-- The union of a set of stretches (R127). -/
def unionOf (xs : List Stretch) : List Stretch :=
  match sortStretches xs with
  | [] => []
  | s :: rest => mergeFrom s rest

/-- What is left of a stretch outside another: the cut ends lie at the ends of the removed stretch (R127). -/
def cutOut (x s : Stretch) : List Stretch :=
  if s.overlaps x then
    (if precedes s.a x.a then [⟨s.a, x.a⟩] else []) ++ (if precedes x.b s.b then [⟨x.b, s.b⟩] else [])
  else [s]

/-- The difference of two unions of stretches (R127). -/
def differenceOf (r x : List Stretch) : List Stretch := x.foldl (fun acc t => acc.flatMap (cutOut t)) r

/-- The forbidden set: a union of stretches, or the whole web (R127, R129). -/
inductive Forbidden where
  | wholeWeb
  | set (xs : List Stretch)
deriving DecidableEq, Repr

/-- A stretch overlaps the forbidden set; the whole web overlaps every stretch (R127). -/
def Forbidden.overlaps (x : Forbidden) (s : Stretch) : Bool :=
  match x with
  | .wholeWeb => true
  | .set xs => xs.any s.overlaps

/-- A stretch touches the forbidden set; the whole web touches every opening (R127). -/
def Forbidden.touches (x : Forbidden) (s : Stretch) : Bool :=
  match x with
  | .wholeWeb => true
  | .set xs => xs.any s.touches

/-- The fourth step: an opening shorter than BRIDGE that touches no forbidden stretch is closed (R130). -/
def bridgeFrom (bridge : Nat) (x : Forbidden) (cur : Stretch) : List Stretch → List Stretch
  | [] => [cur]
  | t :: rest =>
      if (t.a - cur.b).toNat < bridge ∧ x.touches ⟨cur.b, t.a⟩ = false then bridgeFrom bridge x ⟨cur.a, t.b⟩ rest
      else cur :: bridgeFrom bridge x t rest

/-- The closed set after bridging (R130). -/
def bridged (bridge : Nat) (x : Forbidden) : List Stretch → List Stretch
  | [] => []
  | s :: rest => bridgeFrom bridge x s rest

/-- The web interval of an entry. -/
def ZoneEntry.stretch (e : ZoneEntry) : Stretch := ⟨e.a, e.b⟩

/-- The intervals of the entries of a mode. -/
def intervalsOf (m : ZoneMode) (zones : List ZoneEntry) : List Stretch :=
  (zones.filter (fun e => e.mode = m)).map ZoneEntry.stretch

/-- The media profile bans lamination: PRESENT with laminate-permitted clear (R128). -/
def banned (w : WebUnit) : Bool :=
  match w.profile with
  | some p => !p.laminate
  | none => false

/-- The required set (R129, step 1). -/
def requiredSet (zones : List ZoneEntry) : List Stretch := unionOf (intervalsOf .required zones)

/-- The forbidden set (R129, step 2). -/
def forbiddenSet (ban : Bool) (zones : List ZoneEntry) : Forbidden :=
  if ban then .wholeWeb else .set (unionOf (intervalsOf .forbidden zones))

/-- The policy in force: FORBID_WINS under the lamination ban (R129, step 2). -/
def policyInForce (ban : Bool) (policy : Policy) : Policy := if ban then .forbidWins else policy

/-- The plan has a conflict: some required stretch overlaps the forbidden set (R129, step 3). -/
def hasConflict (ban : Bool) (zones : List ZoneEntry) : Bool := (requiredSet zones).any (forbiddenSet ban zones).overlaps

/-- The closed set before bridging (R129, step 3). -/
def closedSet (ban : Bool) (policy : Policy) (zones : List ZoneEntry) : List Stretch :=
  match policyInForce ban policy, forbiddenSet ban zones with
  | .requireWins, _ => requiredSet zones
  | .forbidWins, .wholeWeb => []
  | .forbidWins, .set xs => differenceOf (requiredSet zones) xs

/-- The plan (R130, step 5). -/
def planOf (ban : Bool) (policy : Policy) (bridge : Nat) (zones : List ZoneEntry) : List Stretch :=
  bridged bridge (forbiddenSet ban zones) (closedSet ban policy zones)

/-- The entries whose owners lose by a conflict (R129, step 3). -/
def losers (ban : Bool) (policy : Policy) (zones : List ZoneEntry) : List ZoneEntry :=
  match policyInForce ban policy with
  | .forbidWins => zones.filter (fun e => decide (e.mode = .required) && (forbiddenSet ban zones).overlaps e.stretch)
  | .requireWins =>
      zones.filter (fun e => decide (e.mode = .forbidden) && (requiredSet zones).any (fun r => e.stretch.overlaps r))

/-- The defect flag of an owner that loses by a conflict (R129, step 3). -/
def loserFlag (ban : Bool) (policy : Policy) : BitVec 12 :=
  match policyInForce ban policy with
  | .forbidWins => defLamShort
  | .requireWins => defLamSpoiled

/-- The closed stretch of a plan that contains a coordinate: its start equals or precedes it and it precedes the end (R134). -/
def stretchAt (plan : List Stretch) (o : Word32) : Option Stretch :=
  plan.find? (fun s => reaches o s.a && precedes o s.b)

/-- The first closed stretch whose start follows a coordinate (R134). -/
def stretchAfter (plan : List Stretch) (o : Word32) : Option Stretch := plan.find? (fun s => precedes o s.a)

end Sys2Proof.Machine
end

