-- ==== Sys2Proof/Machine/Nip.lean ====
section
/-! DEFINITION. The Nip Planner: the recomputation of the plan, the offer of the next transition, its issue, and the laminator
temperature (spec/06). -/

namespace Sys2Proof.Machine

/-- A defect flag set on the owner of each of these entries (R129, R138, R139, R143, R144). -/
def flagOwners (d : BitVec 12) (entries : List ZoneEntry) (s : State) : State :=
  entries.foldl (fun acc e => flagSeg e.lane e.seg d acc) s

/-- The REQUIRED entries whose interval overlaps a stretch. -/
def requiredOver (t : Stretch) (zones : List ZoneEntry) : List ZoneEntry :=
  zones.filter (fun e => decide (e.mode = .required) && e.stretch.overlaps t)

/-! ## The offer (R133, R134) -/

/-- The planning origin o, the later of h and λ (R134). -/
def planningOrigin (n : Nip) (lam : Word32) : Word32 :=
  match n.decided with
  | some h => later h lam
  | none => lam

/-- The offer while the commanded state is OPEN (R134). A corrective ENGAGE has the target λ of R134's table, even where an
issue ahead of its target has left h beyond λ, though R132 offers no transition with a target before h
(notes/assumptions/40.md, DESIGN CHOICE). -/
def offerOpened (n : Nip) (lam : Word32) : Option Offer :=
  let o := planningOrigin n lam
  match stretchAt n.plan o with
  | some t =>
      some { kind := .engage, target := lam, wanted := (match n.decided with | some h => later h t.a | none => t.a),
             corrective := true }
  | none =>
      match stretchAfter n.plan o with
      | some t => some { kind := .engage, target := t.a, wanted := t.a, corrective := false }
      | none => none

/-- The offer while the commanded state is CLOSED (R134); a corrective RELEASE has the target λ as above
(notes/assumptions/40.md, DESIGN CHOICE). -/
def offerClosed (n : Nip) (lam : Word32) : Option Offer :=
  match stretchAt n.plan (planningOrigin n lam) with
  | some t => some { kind := .release, target := t.b, wanted := t.b, corrective := false }
  | none => some { kind := .release, target := lam, wanted := lam, corrective := true }

/-- The offer of the next transition, λ being the laminator position at the recomputation (R133, R134). -/
def offerOf (n : Nip) (lam : Word32) : Option Offer :=
  match n.commanded with
  | .unknown =>
      if n.releaseRequest then some { kind := .release, target := lam, wanted := lam, corrective := true } else none
  | .opened => offerOpened n lam
  | .closed => offerClosed n lam

/-! ## The entries whose ENGAGE has been issued (R139) -/

/-- What names an entry. -/
def ZoneEntry.key (e : ZoneEntry) : ZoneKey := { lane := e.lane, seg := e.seg, number := e.number }

/-- An entry is being laid: the commanded state is CLOSED, the entry overlaps the closed stretch at the planning origin, and its
end lies ahead of that origin. The ENGAGE issued for that stretch is the entry's own (notes/assumptions/10.md). -/
def beingLaid (n : Nip) (lam : Word32) (e : ZoneEntry) : Bool :=
  let o := planningOrigin n lam
  decide (n.commanded = .closed) && precedes o e.b &&
    match stretchAt n.plan o with
    | some t => e.stretch.overlaps t
    | none => false

/-- The entries of the zone list whose ENGAGE has been issued: those known already, and those being laid. -/
def begunOf (n : Nip) (lam : Word32) : List ZoneKey :=
  (n.zones.filter (fun e => decide (e.mode = .required) && (n.begun.contains e.key || beingLaid n lam e))).map ZoneEntry.key

/-- The plan is recomputed and the offer made afresh: R129 and R130, then R133 and R134 (R131). Which entries have had their
ENGAGE is noted with it (R139). -/
def recompute (s : State) : State :=
  let ban := banned s.web
  let s1 :=
    if hasConflict ban s.nip.zones then
      raise prioLamConflict
        (flagOwners (loserFlag ban s.setup.policy) (losers ban s.setup.policy s.nip.zones) s)
    else s
  let n := { s1.nip with plan := planOf ban s.setup.policy s.setup.bridge s.nip.zones }
  { s1 with nip := { n with begun := begunOf n (lamPos s1), offer := offerOf n (lamPos s1) } }

/-! ## The issue of a transition (R135, R138, R143) -/

/-- The commanded state a transition leaves the nip in (R135, step 1). -/
def commandedBy : NipKind → NipState
  | .engage => .closed
  | .release => .opened

/-- The late-engage test: where c − w exceeds TOL, every owner of a REQUIRED entry overlapping the missed stretch [w, c] is
flagged LAM_SHORT (R138). -/
def lateEngage (o : Offer) (lateness : Nat) (s : State) : State :=
  let c := o.target + pu lateness
  if ((recordOr s.lam).tol : Int) < sdiff c o.wanted then
    flagOwners defLamShort (requiredOver ⟨o.wanted, c⟩ s.nip.zones) s
  else s

/-- The closed stretch an ENGAGE begins: the one that starts at its target or, for a corrective ENGAGE, the one that contains
it (R143), its end not counted as contained (notes/assumptions/27.md, DEDUCED). R143 does not say which stretch is begun where the
target lies before the stretch at the planning origin, as with h ahead of λ: the model takes the one that contains the target, or
none, and then flags no segment (notes/assumptions/49.md, DESIGN CHOICE). -/
def stretchBegun (o : Offer) (plan : List Stretch) : Option Stretch :=
  if o.corrective then stretchAt plan o.target else plan.find? (fun t => t.a = o.target)

/-- The REQUIRED entries of the stretch an ENGAGE begins; none where its target lies in no stretch (notes/assumptions/49.md). -/
def entriesBegun (o : Offer) (s : State) : List ZoneEntry :=
  match stretchBegun o s.nip.plan with
  | some t => requiredOver t s.nip.zones
  | none => []

/-- The temperature test at an issued ENGAGE (R143). -/
def engageTemp (o : Offer) (s : State) : State :=
  if tempOut s then raise prioLamTemp (flagOwners defLamTemp (entriesBegun o s) s) else s

/-- Steps 1 to 4 of R135. -/
def nipRecord (o : Offer) (id : BitVec 16) (n : Nip) : Nip :=
  { n with
    commanded := commandedBy o.kind
    last := some { kind := o.kind, target := o.target, id := id, outcome := .pending }
    decided := some (match n.decided with | some h => later h o.target | none => o.target)
    releaseRequest := false
    offer := none }

/-- The REQUIRED entries of the stretch an ENGAGE begins have had their ENGAGE (R139). -/
def noteBegun (o : Offer) (s : State) : State :=
  { s with nip := { s.nip with begun := s.nip.begun ++ (entriesBegun o s).map ZoneEntry.key } }

/-- The Nip Planner takes the issue of its transition (R135). -/
def nipIssued (o : Offer) (lateness : Nat) (id : BitVec 16) (s : State) : State :=
  let s1 := { s with nip := nipRecord o id s.nip }
  recompute (if o.kind = .engage then noteBegun o (engageTemp o (lateEngage o lateness s1)) else s1)

/-- The action an offer stands for at LAM (R102). -/
def offerAction (o : Offer) : Action :=
  { kind := (match o.kind with | .engage => .engage | .release => .release), owner := none, key := 0, offset := 0,
    target := o.target, near := 0, far := 0 }

/-- LAM's offered transition is issued, on time or late (R107, R108, R135). -/
def issueLam (o : Offer) (s : State) : State :=
  let r := toGo .lam o.target s
  let s1 := issueCore .lam (offerAction o) (fireDelay r s.tracker.speed s.setup.horizon) 0 s
  nipIssued o (-r).toNat s1.lastId s1

/-- LAM's head can be issued: LAM is READY and the offer is due (R102, R105). -/
def lamReady (o : Offer) (s : State) : Bool :=
  decide (s.lam.mode = .ready) && isDue (toGo .lam o.target s) s.tracker.speed s.setup.horizon

/-- LAM's issue test (R102, R103, R105, R107). A waiting offer is never skipped and never cancelled. -/
def lamTest (s : State) : State :=
  match s.nip.offer with
  | some o => if lamReady o s then issueLam o s else s
  | none => s

/-- A recomputation and the planning change at LAM that it is (R101, R131). -/
def nipChange (s : State) : State := lamTest (recompute s)

/-- The entries of a segment leave the zone list (R126). -/
def dropZones (l : Lane) (id : Nat) (s : State) : State :=
  { s with nip := { s.nip with zones := s.nip.zones.filter (fun e => !(decide (e.lane = l) && decide (e.seg = id))) } }

/-- A change of the zone list brings a recomputation (R126, R131); where no entry came, went or moved there is none
(notes/assumptions/9.md). -/
def nipChangeIf (changed : Bool) (s : State) : State := if changed then nipChange s else s

/-- The final state of an issued LAM transition, which does nothing where it is not the last issued one (R136). -/
def nipFinal (id : BitVec 16) (done : Bool) (s : State) : State :=
  match s.nip.last with
  | some t =>
      if t.id = id then
        { s with nip := { s.nip with last := some { t with outcome := if done then .confirmed else .failed } } }
      else s
  | none => s

/-! ## Passed zone entries (R126, R139) -/

/-- An entry's end b precedes λ. -/
def entryPassed (lam : Word32) (e : ZoneEntry) : Bool := precedes e.b lam

/-- An ENGAGE is offered and not issued. -/
def engageOffered (n : Nip) : Bool :=
  match n.offer with
  | some o => decide (o.kind = .engage)
  | none => false

/-- A coordinate lies beyond the decided point, or nothing has been decided (R132, R134). -/
def undecided (n : Nip) (x : Word32) : Bool :=
  match n.decided with
  | some h => precedes h x
  | none => true

/-- The plan holds no stretch for an entry because FORBID_WINS or the lamination ban removed it (R139). -/
def removedByConflict (e : ZoneEntry) (s : State) : Bool :=
  let ban := banned s.web
  decide (policyInForce ban s.setup.policy = .forbidWins) && (forbiddenSet ban s.nip.zones).overlaps e.stretch &&
    !s.nip.plan.any e.stretch.overlaps

/-- An entry passing now is passed before its ENGAGE was issued: it is REQUIRED, the commanded state is OPEN or UNKNOWN, an
ENGAGE is offered and not issued, the plan has not lost the entry to a conflict, and its own ENGAGE is missing: none was issued
for it, or its end lies beyond the decided point, where the nip stands open (R139; notes/assumptions/10.md). -/
def passedUnlaminated (s : State) (e : ZoneEntry) : Bool :=
  decide (e.mode = .required) && decide (s.nip.commanded ≠ .closed) && engageOffered s.nip && !removedByConflict e s &&
    (undecided s.nip e.b || !s.nip.begun.contains e.key)

/-- The Nip Planner takes an advance of P: passed entries leave the list, flagged by R139 where it applies (R126). -/
def passZones (s : State) : State :=
  let gone := s.nip.zones.filter (entryPassed (lamPos s))
  let s1 := flagOwners defLamShort (gone.filter (passedUnlaminated s)) s
  nipChangeIf (!gone.isEmpty)
    { s1 with nip := { s1.nip with zones := s.nip.zones.filter (fun e => !entryPassed (lamPos s) e) } }

/-! ## Temperature (R141, R142, R144) -/

/-- The interpolated value between two points, its term rounded toward zero (R142). -/
def interpolate (c : Nat) (p q : Nat × Nat) : Nat :=
  ((p.2 : Int) + truncDiv (((c : Int) - p.1) * ((q.2 : Int) - p.2)) ((q.1 : Int) - p.1)).toNat

/-- The value of a code at or above the point `p`, through the points that follow it (R142). -/
def tempFrom (c : Nat) (p : Nat × Nat) : List (Nat × Nat) → Nat
  | [] => p.2
  | q :: rest => if c < q.1 then interpolate c p q else tempFrom c q rest

/-- A raw code converted by a temperature table (R142). -/
def convertTemp (table : List (Nat × Nat)) (c : Nat) : Nat :=
  match table with
  | [] => 0
  | p :: rest => if c ≤ p.1 then p.2 else tempFrom c p rest

/-- The test of R144, made at each STATUS taken and at the expiry of the validity timer. -/
def closedTemp (s : State) : State :=
  if s.nip.commanded = .closed ∧ tempOut s = true then
    raise prioLamTemp
      (flagOwners defLamTemp
        (s.nip.zones.filter (fun e => decide (e.mode = .required) && e.stretch.contains (lamPos s))) s)
  else s

/-- A STATUS frame is taken when its sender is the LAM station, present and enabled (R141). -/
def statusIsLam (src : Byte) (s : State) : Bool := s.lam.configured && decide ((recordOr s.lam).addr = src)

/-- A STATUS at the Nip Planner (R141). -/
def takeStatus (src raw : Byte) (sensor : NipSensor) (s : State) : State :=
  if statusIsLam src s then
    closedTemp
      { s with
        nip :=
          { s.nip with
            temp := convertTemp (recordOr s.lam).table raw.toNat, sensor := some sensor, tempValid := true,
            validity := some 2000 } }
  else s

/-- The validity timer runs out (R141). -/
def validityExpiry (s : State) : State :=
  match s.nip.validity with
  | some _ => closedTemp { s with nip := { s.nip with tempValid := false, validity := none } }
  | none => s

end Sys2Proof.Machine
end

