-- ==== Sys2Proof/Machine/Trim.lean ====
section
/-! DEFINITION. The Trim Planner: trim needs, move estimates, final states of knife actions, and the trim-short race (spec/07). -/

namespace Sys2Proof.Machine

/-- A job's trim offsets on a lane, each clamped to the lane's span, and whether a clamp changed one (R150). -/
def clampedTrim (r : LaneRecord) (n f : Nat) : (Nat × Nat) × Bool :=
  let near := clampNat r.nearEdge r.farEdge (r.nearEdge + n)
  let far := clampNat r.nearEdge r.farEdge (r.nearEdge + f)
  ((near, far), decide (near ≠ r.nearEdge + n) || decide (far ≠ r.nearEdge + f))

/-- The trim need of a job on a lane record (R150). -/
def trimNeed (r : LaneRecord) (job : JobDef) : KnifePlan :=
  match job.trim with
  | none => .parked
  | some (n, f) =>
      let c := (clampedTrim r n f).1
      if c.1 < c.2 then .pair c.1 c.2 else .parked

/-- TRIM_CLAMPED is due: clamping changed a value (R150). -/
def trimClamped (r : LaneRecord) (job : JobDef) : Bool :=
  match job.trim with
  | none => false
  | some (n, f) => (clampedTrim r n f).2

/-- The registration would miss the knife plan at a configured trim station; no need equals UNKNOWN (R151). -/
def trimMisses (l : Lane) (job : JobDef) (s : State) : Bool :=
  (s.station (trimmerOf l)).configured && decide (trimNeed (s.lane l).record job ≠ (s.lane l).knifePlan)

/-- The from-positions recorded for a knife action (R148). -/
def fromOf (moves : List (Nat × Option (Nat × Nat))) (key : Nat) : Option (Nat × Nat) :=
  match moves.find? (fun m => m.1 == key) with
  | some m => m.2
  | none => none

/-- The distance |x − y| between two lateral positions. -/
def lateralGap (x y : Nat) : Nat := max x y - min x y

/-- The travel m of a MOVE, 32,000 where the from-positions are absent (R153). -/
def knifeTravel (act : Action) (from? : Option (Nat × Nat)) : Nat :=
  match from? with
  | some (n, f) => max (lateralGap act.near n) (lateralGap act.far f)
  | none => 32000

/-- The move estimate of a knife action, in ms (R153). A PARK takes settle alone, a due-now one after a failed or cancelled action
too, though R154 and R159 give a due-now action the full lateral range (notes/assumptions/43.md, DESIGN CHOICE). -/
def moveEstimate (rec : StationRecord) (act : Action) (from? : Option (Nat × Nat)) : Nat :=
  if act.kind = .move then rec.settle + ceilDiv (knifeTravel act from? * 1000) rec.knifeSpeed else rec.settle

/-! ## Trim watches (R155, R156) -/

/-- The trim short length formed against λ_t: the greater of the present value and min(λ_t, T_last) − T_first (R156). -/
def formShort (job : JobDef) (lamT : Word32) (g : Segment) : Nat :=
  max g.trimShort (sdiff (earlier lamT (trimLast job g)) (trimFirst job g)).toNat

/-- The trim-short test of one segment: what becomes of it, and whether TRIM_SHORT is set now (R156, advance of P). -/
def shortTest (job : JobDef) (lamT : Word32) (g : Segment) : Segment × Bool :=
  let enters := decide (g.watch.state = .waiting) && reaches lamT (trimFirst job g)
  if enters || decide (g.watch.state = .short) then
    let g1 := if enters then g.flag defTrimShort else g
    ({ g1 with
        trimShort := formShort job lamT g
        watch := { g.watch with state := if reaches lamT (trimLast job g) then .ended else .short } }, enters)
  else (g, false)

/-- The trim-short test of a lane at an advance of P (R156). -/
def testShort (l : Lane) (s : State) : State :=
  let f := fun g => shortTest (s.jobOf g) (trimPos l s) g
  let s1 := s.modLane l (fun x => { x with segs := x.segs.map (fun g => (f g).1) })
  if (s.lane l).segs.any (fun g => (f g).2) then raise prioTrimShort s1 else s1

/-- A watch that watches a knife action and has not ended. -/
def watching (key : Nat) (g : Segment) : Bool :=
  decide (g.watch.watched = some key) && decide (g.watch.state ≠ .ended)

/-- A watch ended by DONE of its action (R156). Its move in progress is left standing (notes/assumptions/44.md, DESIGN CHOICE). -/
def watchDone (job : JobDef) (lamT : Word32) (g : Segment) : Segment :=
  { g with
    trimShort := if g.watch.state = .short then formShort job lamT g else g.trimShort
    watch := { g.watch with state := .ended } }

/-- A watch ended by FAILED or CANCELLED of its action: TRIM_SHORT with the full region length, which never falls below the
length already formed (R156; notes/assumptions/13.md). Its move in progress is left standing (notes/assumptions/44.md, DESIGN
CHOICE). -/
def watchFailed (job : JobDef) (g : Segment) : Segment :=
  { g.flag defTrimShort with
    trimShort := max g.trimShort (regionLength job g)
    watch := { g.watch with state := .ended } }

/-- What a final state does to one segment's watch (R156). -/
def watchFinal (job : JobDef) (lamT : Word32) (key : Nat) (done : Bool) (g : Segment) : Segment :=
  if watching key g then (if done then watchDone job lamT g else watchFailed job g) else g

/-- What a final state does to the knife plan, the lateral reference, the pending knife action and the move record (R154). -/
def planFinal (key : Nat) (done : Bool) (x : LaneState) : LaneState :=
  let x1 := { x with moves := x.moves.filter (fun m => m.1 ≠ key) }
  if x.pendingKnife = some key then
    if done then { x1 with pendingKnife := none }
    else { x1 with knifePlan := .unknown, lateral := none, pendingKnife := none }
  else x1

/-- A knife action of a lane reaches a final state (R154, R156, R159). -/
def trimFinal (l : Lane) (key : Nat) (done : Bool) (s : State) : State :=
  let s1 := s.modLane l (fun x =>
    { planFinal key done x with segs := x.segs.map (fun g => watchFinal (s.jobOf g) (trimPos l s) key done g) })
  if !done && (s.lane l).segs.any (watching key) then raise prioTrimShort s1 else s1

/-- The issue of a knife action is recorded: it becomes the move in progress of its segment's watch, where that watches it
(R153). The spec gives that no end, and the model none (notes/assumptions/44.md, DESIGN CHOICE). -/
def trimIssued (l : Lane) (key : Nat) (s : State) : State :=
  s.modSeg l key (fun g => if g.watch.watched = some key then { g with watch := { g.watch with moving := true } } else g)

end Sys2Proof.Machine
end

