-- ==== Sys2Proof/Machine/WebMap.lean ====
section
/-! DEFINITION. The Web Map: tallies, closing, retirement and spoiling (spec/04, sections 4.2, 4.3, 4.7, 4.8). -/

namespace Sys2Proof.Machine

/-- The report of a segment (R88). -/
def reportOf (l : Lane) (cause : Cause) (g : Segment) : Report :=
  { lane := l, tag := g.tag, ordinal := g.ordinal, pCue := g.pCue, stretch := g.stretch, flags := g.flags,
    cutsDone := g.cutsDone, cutsLate := g.cutsLate, cutsMissed := g.cutsMissed, lateness := g.lateness,
    trimShort := g.trimShort, faultCode := g.faultCode, cause := cause }

/-- A retirement produces a report: the job's notify field is yes, or a defect flag is set (R7, R87). -/
def reportDue (job : JobDef) (g : Segment) : Bool := job.notify || decide (g.flags ≠ 0#12)

/-- A DRAINING lane whose map is empty enters DISABLED (R74). -/
def drainTest (l : Lane) (s : State) : State :=
  if (s.lane l).mode = .draining ∧ (s.lane l).segs = [] then s.modLane l (fun x => { x with mode := .disabled }) else s

/-- The record's in-use count gives back one segment (R17). -/
def releaseJob (slot : Nat) (s : State) : State := s.modSlot slot (fun r => { r with inUse := r.inUse - 1 })

/-- A segment leaves its map: steps 1, 2 and 4 to 6 of R87, and step 5 of R90. Its cause is set, it leaves the list and the
zone list, its job record is released, its report is handed over where one is due, and a DRAINING lane left empty is
DISABLED. -/
def leaveMap (l : Lane) (cause : Cause) (g : Segment) (s : State) : State :=
  let s1 := s.modLane l (fun x => { x with segs := x.segs.filter (fun h => h.id ≠ g.id) })
  let s2 := releaseJob g.slot (dropZones l g.id s1)
  drainTest l
    (if reportDue (s.jobOf g) g then handReport (reportOf l cause { g with cause := some cause }) s2 else s2)

/-- A segment owns an entry still in the zone list. -/
def ownsZone (l : Lane) (id : Nat) (s : State) : Bool :=
  s.nip.zones.any (fun e => decide (e.lane = l) && decide (e.seg = id))

/-- A segment retires COMPLETE; the removal of its zone entries is a change of the zone list (R87). -/
def retire (l : Lane) (g : Segment) (s : State) : State := nipChangeIf (ownsZone l g.id s) (leaveMap l .complete g s)

/-- A segment can retire: CLOSED with an unfinished-work count of 0 (R87). -/
def retirable (g : Segment) : Bool := decide (g.state = .closed) && decide (g.unfinished = 0)

/-- The retirement test of a segment (R87). -/
def retireTest (l : Lane) (id : Nat) (s : State) : State :=
  match s.seg? l id with
  | some g => if retirable g then retire l g s else s
  | none => s

/-- A segment becomes CLOSED (R60), which is a retirement test at its map: with no unfinished work it retires in the closing event
(R87), also where R61 takes it to be still the newest segment for a cue that follows (notes/assumptions/45.md, DESIGN CHOICE). -/
def closeSeg (l : Lane) (id : Nat) (s : State) : State :=
  retireTest l id (s.modSeg l id (fun g => { g with state := .closed, next := none }))

/-- A final state of an action (R99). -/
inductive FinalState where
  | done
  | skipped
  | cancelled
  | failed
deriving DecidableEq, Repr

/-- The tallies a final state changes on the owning segment (R78). -/
def tally (cut : Bool) (fin : FinalState) (g : Segment) : Segment :=
  { g with
    unfinished := g.unfinished - 1
    cutsDone := if cut && decide (fin = .done) then g.cutsDone + 1 else g.cutsDone
    cutsMissed := if cut && decide (fin = .skipped) then g.cutsMissed + 1 else g.cutsMissed }

/-- A final state handed to the Web Map of a lane: tallies, then the retirement test (R78). An orphan has no owner, so
nothing is handed (R118, R119). -/
def mapFinal (l : Lane) (act : Action) (fin : FinalState) (s : State) : State :=
  match act.owner with
  | some id => retireTest l id (s.modSeg l id (tally (decide (act.kind = .cut)) fin))
  | none => s

/-- A defect flag set on the owner of an action (R77). -/
def flagOwner (l : Lane) (act : Action) (d : BitVec 12) (s : State) : State :=
  match act.owner with
  | some id => flagSeg l id d s
  | none => s

/-! ## Spoiling (R90, R91) -/

/-- The issued action of a station becomes an orphan where a segment owns it (R118). -/
def orphan (id : Nat) (x : StationState) : StationState :=
  match x.outstanding with
  | some i =>
      if i.act.owner = some id then
        { x with outstanding := some { i with act := { i.act with owner := none }, orphan := true } }
      else x
  | none => x

/-- The PLANNED actions of a segment leave the lane's queues (R90, step 2). -/
def cancelPlanned (l : Lane) (id : Nat) (s : State) : State :=
  s.modLane l (fun x =>
    { x with
      cutQueue := x.cutQueue.filter (fun a => a.owner ≠ some id)
      trimQueue := x.trimQueue.filter (fun a => a.owner ≠ some id) })

/-- A segment's knife action is PLANNED in the lane's trim queue. -/
def plannedKnife (l : Lane) (id : Nat) (s : State) : Bool := (s.lane l).trimQueue.any (fun a => a.owner = some id)

/-- A segment is spoiled: SPOILED, its PLANNED work cancelled and handed to the Trim Planner, its ISSUED work orphaned, its
zone entries removed, and the segment retired with its report (R90). -/
def spoil (l : Lane) (cause : Cause) (id : Nat) (s : State) : State :=
  let s1 := flagSeg l id defSpoiled s
  let s2 := cancelPlanned l id s1
  let s3 := if plannedKnife l id s then trimFinal l id false s2 else s2
  let s4 := (s3.modStation (cutterOf l) (orphan id)).modStation (trimmerOf l) (orphan id)
  match s4.seg? l id with
  | some g => leaveMap l cause g s4
  | none => s4

/-- Every segment of a lane map is spoiled, oldest first (R91). -/
def spoilLane (l : Lane) (cause : Cause) (s : State) : State :=
  ((s.lane l).segs.map (fun g => g.id)).foldl (fun acc id => spoil l cause id acc) s

/-- The lane enters DISABLED (R73, R74). -/
def disableLane (l : Lane) (s : State) : State := s.modLane l (fun x => { x with mode := .disabled })

/-- Every segment of both maps is spoiled, lane A's first, and both lanes enter DISABLED (R74, R91). -/
def spoilBoth (cause : Cause) (s : State) : State :=
  disableLane .b (disableLane .a (spoilLane .b cause (spoilLane .a cause s)))

end Sys2Proof.Machine
end

