-- ==== Sys2Proof/Machine/Scheduler.lean ====
section
/-! DEFINITION. The Station Scheduler: queues, the issue tests of cutters and trim stations, replies, timeouts and clearing
(spec/05). -/

namespace Sys2Proof.Machine

/-! ## Queues (R100, R101) -/

/-- An action stands before another: the earlier target, or at equal targets the earlier creation. Segments are created in the
order of their serials, and a segment's cuts in the order of their offsets (R82, R100). -/
def actBefore (a b : Action) : Bool :=
  precedes a.target b.target ||
    (decide (a.target = b.target) && (decide (a.key < b.key) || (decide (a.key = b.key) && decide (a.offset < b.offset))))

/-- An action placed in a queue by its target (R82, R100). -/
def enqueue (a : Action) : List Action → List Action
  | [] => [a]
  | b :: rest => if actBefore a b then a :: b :: rest else b :: enqueue a rest

/-- A queue sorted by target, keeping creation order among equal targets (R101). -/
def sortQueue (q : List Action) : List Action := q.foldl (fun acc a => enqueue a acc) []

/-! ## Cutters (R105, R106, R110, R111) -/

/-- The cut queue of a lane without its head. -/
def popCut (l : Lane) (s : State) : State := s.modLane l (fun x => { x with cutQueue := x.cutQueue.tail })

/-- The trim queue of a lane without its head. -/
def popTrim (l : Lane) (s : State) : State := s.modLane l (fun x => { x with trimQueue := x.trimQueue.tail })

/-- A late cut's lateness on its segment, reported at its issue (R78, R106). -/
def noteLate (late : Nat) (g : Segment) : Segment :=
  { g.flag defCutLate with cutsLate := g.cutsLate + 1, lateness := max g.lateness late }

/-- The head cut is issued: on time when r ≥ 0, late otherwise (R105, R106, R108). -/
def issueCut (l : Lane) (act : Action) (s : State) : State :=
  let r := toGo (cutterOf l) act.target s
  let s1 :=
    flagEstimated l act
      (issueCore (cutterOf l) act (fireDelay r s.tracker.speed s.setup.horizon) 0 (popCut l s))
  match act.owner with
  | some id => if r < 0 then s1.modSeg l id (noteLate (-r).toNat) else s1
  | none => s1

/-- The head cut is SKIPPED (R106). -/
def skipCut (l : Lane) (act : Action) (s : State) : State :=
  mapFinal l act .skipped (raise prioCutMissed (flagOwner l act defCutMissed (popCut l s)))

/-- The head cut is CANCELLED at a FAULTED or OFFLINE cutter (R111). -/
def cancelCut (l : Lane) (act : Action) (s : State) : State :=
  mapFinal l act .cancelled (raise prioStationFault (flagOwner l act defStationFault (popCut l s)))

/-- A cut is late beyond its station's tolerance (R106, R110). -/
def beyondTol (st : Station) (r : Int) (s : State) : Bool := decide (tolOf st s < -r)

/-- What the issue test makes of a head. -/
inductive HeadFate where
  | waits
  | issued
  | skipped
  | cancelled
deriving DecidableEq, Repr

/-- What the issue test makes of the head of a cut queue (R98, R105, R106, R110, R111). -/
def cutFate (l : Lane) (act : Action) (s : State) : HeadFate :=
  let st := cutterOf l
  let r := toGo st act.target s
  match (s.station st).mode with
  | .ready =>
      if isDue r s.tracker.speed s.setup.horizon then (if beyondTol st r s then .skipped else .issued) else .waits
  | .busy => if beyondTol st r s then .skipped else .waits
  | .faulted => if r ≤ 0 then .cancelled else .waits
  | .offline => if r ≤ 0 then .cancelled else .waits

/-- The issue test of a lane's cutter, over at most `n` heads (R103). -/
def cutTestN (l : Lane) : Nat → State → State
  | 0, s => s
  | n + 1, s =>
      match (s.lane l).cutQueue with
      | [] => s
      | act :: _ =>
          match cutFate l act s with
          | .waits => s
          | .issued => issueCut l act s
          | .skipped => cutTestN l n (skipCut l act s)
          | .cancelled => cutTestN l n (cancelCut l act s)

/-- The issue test of a lane's cutter (R103). -/
def cutTest (l : Lane) (s : State) : State := cutTestN l (s.lane l).cutQueue.length s

/-! ## Trim stations (R105, R107, R110, R111) -/

/-- The head knife action is issued, on time or late (R105, R107, R108, R153). -/
def issueKnife (l : Lane) (act : Action) (s : State) : State :=
  let st := trimmerOf l
  let r := toGo st act.target s
  let est := moveEstimate (recordOr (s.station st)) act (fromOf (s.lane l).moves act.key)
  trimIssued l act.key
    (flagEstimated l act (issueCore st act (fireDelay r s.tracker.speed s.setup.horizon) est (popTrim l s)))

/-- A final state of a knife action handed to the Trim Planner and, where it is owned, to the Web Map (R119). -/
def knifeFinal (l : Lane) (act : Action) (fin : FinalState) (s : State) : State :=
  mapFinal l act fin (trimFinal l act.key (decide (fin = .done)) s)

/-- The head knife action is CANCELLED at a FAULTED or OFFLINE trim station (R111). -/
def cancelKnife (l : Lane) (act : Action) (s : State) : State :=
  knifeFinal l act .cancelled (raise prioStationFault (flagOwner l act defStationFault (popTrim l s)))

/-- What the issue test makes of the head of a trim queue; a knife action is never skipped (R98, R105, R107, R110, R111). -/
def trimFate (l : Lane) (act : Action) (s : State) : HeadFate :=
  let st := trimmerOf l
  let r := toGo st act.target s
  match (s.station st).mode with
  | .ready => if isDue r s.tracker.speed s.setup.horizon then .issued else .waits
  | .busy => .waits
  | .faulted => if r ≤ 0 then .cancelled else .waits
  | .offline => if r ≤ 0 then .cancelled else .waits

/-- The issue test of a lane's trim station, over at most `n` heads (R103). -/
def trimTestN (l : Lane) : Nat → State → State
  | 0, s => s
  | n + 1, s =>
      match (s.lane l).trimQueue with
      | [] => s
      | act :: _ =>
          match trimFate l act s with
          | .waits => s
          | .issued => issueKnife l act s
          | .skipped => s
          | .cancelled => trimTestN l n (cancelKnife l act s)

/-- The issue test of a lane's trim station (R103). -/
def trimTest (l : Lane) (s : State) : State := trimTestN l (s.lane l).trimQueue.length s

/-- The issue test of a station (R103). -/
def issueTest (st : Station) (s : State) : State :=
  match st with
  | .lam => lamTest s
  | .trimA => trimTest .a s
  | .trimB => trimTest .b s
  | .cutA => cutTest .a s
  | .cutB => cutTest .b s

/-- The issue tests of several stations touched by one event, in an order the spec leaves open (R103). -/
def issueTests (sts : List Station) (s : State) : State :=
  let stations := s.turn.takers.filterMap (fun t => match t with | .station st => some st | _ => none)
  (arrange stations sts).foldl (fun acc st => issueTest st acc) s.dropTurn

/-! ## Replies and timeouts (R113 to R119) -/

/-- A station is present and enabled with this node address (R113). -/
def answersAs (src : Byte) (x : StationState) : Bool := x.configured && decide ((recordOr x).addr = src)

/-- The station a reply names by its source address (R113). -/
def senderOf (src : Byte) (s : State) : Option Station :=
  [Station.lam, .trimA, .trimB, .cutA, .cutB].find? (fun st => answersAs src (s.station st))

/-- The lane a station works for; LAM works for both. -/
def laneOf : Station → Option Lane
  | .lam => none
  | .trimA => some .a
  | .trimB => some .b
  | .cutA => some .a
  | .cutB => some .b

/-- The final state of an issued action handed to its owners (R119). -/
def handOn (st : Station) (i : Issued) (done : Bool) (s : State) : State :=
  let fin : FinalState := if done then .done else .failed
  match st with
  | .lam => nipFinal i.id done s
  | .trimA => knifeFinal .a i.act fin s
  | .trimB => knifeFinal .b i.act fin s
  | .cutA => mapFinal .a i.act fin s
  | .cutB => mapFinal .b i.act fin s

/-- The station has nothing outstanding and enters this state. -/
def endOutstanding (st : Station) (mode : StationMode) (s : State) : State :=
  s.modStation st (fun x => { x with mode := mode, outstanding := none })

/-- A matching ACT_DONE (R114). -/
def replyDone (st : Station) (i : Issued) (s : State) : State :=
  issueTest st (handOn st i true (endOutstanding st .ready s))

/-- The last station fault code of a segment: a code of 0 leaves it as it was (R115). -/
def noteFault (code : Option Byte) (g : Segment) : Segment :=
  { g.flag defStationFault with
    faultCode := match code with | some c => if c = 0#8 then g.faultCode else some c | none => g.faultCode }

/-- The owner of a failed action flagged STATION_FAULT, with the code of the reply where there is one (R115, R116). -/
def flagFailed (st : Station) (act : Action) (code : Option Byte) (s : State) : State :=
  match laneOf st, act.owner with
  | some l, some id => s.modSeg l id (noteFault code)
  | _, _ => s

/-- An outstanding action ends FAILED, by a matching ACT_FAULT with its code or by expiry without one (R115, R116). -/
def failOutstanding (st : Station) (i : Issued) (code : Option Byte) (s : State) : State :=
  issueTest st
    (handOn st i false (flagFailed st i.act code (raise prioStationFault (endOutstanding st .faulted s))))

/-- A stale reply (R117). -/
def staleReply (st : Station) (s : State) : State :=
  s.modStation st (fun x => { x with staleReplies := bump x.staleReplies })

/-- The outstanding action a reply matches: the station is BUSY with this id (R113). -/
def matchReply (id : BitVec 16) (x : StationState) : Option Issued :=
  match x.outstanding with
  | some i => if x.mode = .busy ∧ i.id = id then some i else none
  | none => none

/-- A reply at the scheduler: `code` is absent for ACT_DONE and the fault code for ACT_FAULT (R113). -/
def takeReply (src : Byte) (id : BitVec 16) (code : Option Byte) (s : State) : State :=
  match senderOf src s with
  | none => s
  | some st =>
      match matchReply id (s.station st) with
      | none => staleReply st s
      | some i =>
          match code with
          | none => replyDone st i s
          | some c => failOutstanding st i (some c) s

/-- An ACT frame carries this action id. -/
def carriesId (id : BitVec 16) (f : Frame) : Bool := decide (f.kind = kindAct) && decide (field16 f.payload 0 = id.toNat)

/-- The ACT frame of an action still waiting in the urgent queue is removed (R116). -/
def removeAct (id : BitVec 16) (s : State) : State :=
  { s with south := { s.south with urgent := s.south.urgent.filter (fun f => !carriesId id f) } }

/-- The timeout of a station's outstanding action runs out (R116). -/
def timeoutExpiry (st : Station) (s : State) : State :=
  match (s.station st).outstanding with
  | some i =>
      failOutstanding st i none
        (removeAct i.id (s.modStation st (fun x => { x with timeouts := bump x.timeouts })))
  | none => s

/-- A FAULTED station is cleared (R120). -/
def clearStation (st : Station) (s : State) : State :=
  if (s.station st).mode = .faulted then issueTest st (s.modStation st (fun x => { x with mode := .ready })) else s

end Sys2Proof.Machine
end

