-- ==== Sys2Proof/Machine/Marks.lean ====
section
/-! DEFINITION. The Mark Trackers and registration: cue acceptance, matching, windows, stretch, re-anchoring, and the creation
of a segment and its work (spec/03; spec/04, sections 4.5 and 4.6; spec/07, section 7.3). -/

namespace Sys2Proof.Machine

/-! ## Counters of a lane (R66) -/

/-- The cues-refused counter of a lane increments. -/
def bumpRefused (l : Lane) (s : State) : State := s.modLane l (fun x => { x with cuesRefused := bump x.cuesRefused })

/-- The stray-marks counter of a lane increments. -/
def bumpStray (l : Lane) (s : State) : State := s.modLane l (fun x => { x with strayMarks := bump x.strayMarks })

/-- The no-room counter of a lane increments. -/
def bumpNoRoom (l : Lane) (s : State) : State := s.modLane l (fun x => { x with noRoom := bump x.noRoom })

/-- `k` marks of a segment are missed: flag, counter, attention flag; nothing for none (R53, R59). -/
def missMarks (l : Lane) (id : Nat) (k : Nat) (s : State) : State :=
  if k = 0 then s
  else
    raise prioMarkMissed
      ((flagSeg l id defMarkMissed s).modLane l (fun x => { x with missedMarks := bumpBy k x.missedMarks }))

/-! ## Expectations (R58, R59) -/

/-- The expectation after a pitch mark: the next pitch entry, or TAIL (R58). -/
def afterPitch (job : JobDef) (i : Nat) : NextMark := if i + 1 < job.pitches.length then .pitch (i + 1) else .tail

/-- The first expectation of a new segment (R57). -/
def firstMark (job : JobDef) : NextMark := if job.pitches = [] then .tail else .pitch 0

/-- The window of an expectation has expired: P passes the expected position plus MARK_TOL (R59). -/
def windowPassed (job : JobDef) (tol : Nat) (p : Word32) (g : Segment) (m : NextMark) : Bool :=
  precedes (g.coord (markOffset job m) + pu tol) p

/-- The next expected mark of a segment is set. -/
def setNext (l : Lane) (id : Nat) (m : NextMark) (s : State) : State :=
  s.modSeg l id (fun g => { g with next := some m })

/-- A lane's Mark Tracker takes an advance of P, over at most `n` expectations (R59). -/
def expireN (l : Lane) : Nat → State → State
  | 0, s => s
  | n + 1, s =>
      match openSeg (s.lane l) with
      | none => s
      | some g =>
          match g.next with
          | none => s
          | some m =>
              if windowPassed (s.jobOf g) (s.lane l).record.markTol s.tracker.p g m then
                match m with
                | .pitch i => expireN l n (setNext l g.id (afterPitch (s.jobOf g) i) (missMarks l g.id 1 s))
                | .tail => closeSeg l g.id (if (s.jobOf g).tail then missMarks l g.id 1 s else s)
              else s

/-- A lane's Mark Tracker takes an advance of P: at most fifteen pitch marks and the tail can expire (R59). -/
def expireWindows (l : Lane) (s : State) : State := expireN l 17 s

/-! ## Matching, stretch and re-anchoring (R58, R62 to R64, R86) -/

/-- The shape of an expected mark. -/
def shapeOf : NextMark → MarkShape
  | .pitch _ => .pitch
  | .tail => .tail

/-- A mark matches the next expected mark of a segment (R49, R58). -/
def marksMatch (job : JobDef) (tol : Nat) (shape : MarkShape) (p : Word32) (g : Segment) (m : NextMark) : Bool :=
  decide (shape = shapeOf m) && (decide (shape ≠ .tail) || job.tail) &&
    decide ((sdiff p (g.coord (markOffset job m))).natAbs ≤ tol)

/-- The measured stretch s_meas (R62, step 1); Δx is at least MIN_BASE there. -/
def measuredStretch (dx : Nat) (dp : Int) : Int := clampStretch (roundHalfAway (1000000 * (dp - dx)) dx)

/-- s_seg after a measurement with gain G (R62, step 2). -/
def newStretch (old meas : Int) (gain : Nat) : Int := clampStretch (old + truncDiv ((meas - old) * gain) 16)

/-- MIN_BASE, the shortest nominal distance over which a stretch is measured (R46). -/
def minBase : Int := 10000

/-- s_seg after a match at offset x and position P_m: measured where Δx is at least MIN_BASE, else kept (R62, R63). -/
def matchedStretch (gain : Nat) (x : Nat) (p : Word32) (g : Segment) : Int :=
  let dx : Int := (x : Int) - g.anchorX
  if minBase ≤ dx then newStretch g.stretch (measuredStretch dx.toNat (sdiff p g.anchorP)) gain else g.stretch

/-- The lane stretch after that match: the new s_seg where it was measured, else kept (R62, R63, R65). -/
def matchedLaneStretch (gain : Nat) (x : Nat) (p : Word32) (g : Segment) (old : Int) : Int :=
  if minBase ≤ (x : Int) - g.anchorX then matchedStretch gain x p g else old

/-- The segment re-anchored at a matched mark (R62, R63). -/
def reanchored (gain : Nat) (x : Nat) (p : Word32) (g : Segment) : Segment :=
  { g with stretch := matchedStretch gain x p g, anchorP := p, anchorX := x }

/-- The PLANNED cuts of a segment under its present anchor and stretch, the queue re-sorted (R86, R101). -/
def retarget (g : Segment) (q : List Action) : List Action :=
  sortQueue (q.map (fun a => if a.owner = some g.id then { a with target := g.coord a.offset } else a))

/-- The zone entries of a segment under its present anchor and stretch (R86, R126). -/
def rezone (l : Lane) (g : Segment) (zones : List ZoneEntry) : List ZoneEntry :=
  zones.map (fun e => if e.lane = l ∧ e.seg = g.id then { e with a := g.coord e.x1, b := g.coord e.x2 } else e)

/-- The planned work of a re-anchored segment is recomputed: cut targets, zone intervals, the plan, and the issue tests of the
lane's cutter and of LAM; the knife action keeps its target (R64, R86, R101, R131). The plan is recomputed at every re-anchoring,
whether or not the segment owns a zone entry (R64; notes/assumptions/9.md), and before the issue tests, an order R86 leaves open
(notes/assumptions/48.md, DESIGN CHOICE). `g` is the segment as re-anchored. -/
def recomputeWork (l : Lane) (g : Segment) (s : State) : State :=
  let s1 := s.modLane l (fun x => { x with cutQueue := retarget g x.cutQueue })
  issueTests [cutterOf l, .lam] (recompute { s1 with nip := { s1.nip with zones := rezone l g s1.nip.zones } })

/-- A matched mark: stretch and anchor, the planned work, then the expectation or the closing (R58, R62 to R64). -/
def takeMatch (l : Lane) (p : Word32) (g : Segment) (m : NextMark) (s : State) : State :=
  let job := s.jobOf g
  let x := markOffset job m
  let gain := (s.lane l).record.gain
  let s1 :=
    (s.modSeg l g.id (reanchored gain x p)).modLane l (fun y =>
      { y with stretch := matchedLaneStretch gain x p g y.stretch })
  let s2 := recomputeWork l (reanchored gain x p g) s1
  match m with
  | .pitch i => setNext l g.id (afterPitch job i) s2
  | .tail => closeSeg l g.id s2

/-- A PITCH or TAIL mark on a lane in RUNNING or DRAINING (R58). -/
def takeInnerMark (l : Lane) (shape : MarkShape) (p : Word32) (s : State) : State :=
  match openSeg (s.lane l) with
  | none => bumpStray l s
  | some g =>
      match g.next with
      | none => bumpStray l s
      | some m =>
          if marksMatch (s.jobOf g) (s.lane l).record.markTol shape p g m then takeMatch l p g m s else bumpStray l s

/-! ## Registration (R80 to R85, R150 to R152, R155, R158) -/

/-- The answers of the cue lookup (R15). -/
inductive Lookup where
  | notFound
  | laneMismatch
  | exhausted
  | found (slot : Nat)
deriving DecidableEq, Repr

/-- A record's lane field admits a lane. -/
def laneAdmits : LaneSelect → Lane → Bool
  | .any, _ => true
  | .a, .a => true
  | .b, .b => true
  | .a, .b => false
  | .b, .a => false

/-- The Job Table's answer to a cue (R15). -/
def lookupCue (l : Lane) (tag : Byte) (s : State) : Lookup :=
  match s.holding tag with
  | none => .notFound
  | some i =>
      match s.slot i with
      | none => .notFound
      | some r =>
          if laneAdmits r.defn.lane l then (if r.state = .exhausted then .exhausted else .found i) else .laneMismatch

/-- The capacity test of step 6 (R56, R80). -/
def hasRoom (l : Lane) (job : JobDef) (s : State) : Bool :=
  decide ((s.lane l).segs.length < 16) && decide ((s.lane l).cutQueue.length + job.cuts.length ≤ 32) &&
    decide ((s.lane l).trimQueue.length + (if trimMisses l job s then 1 else 0) ≤ 32) &&
    decide (s.nip.zones.length + (if s.lam.configured then job.zones.length else 0) ≤ 64)

/-- A record after one copy is taken from it (R16). -/
def takeCopy (r : JobRecord) : JobRecord :=
  { r with
    remaining := if r.defn.copies = 0 then r.remaining else r.remaining - 1
    state := if r.defn.copies ≠ 0 ∧ r.remaining ≤ 1 then .exhausted else r.state
    registered := bump r.registered
    inUse := r.inUse + 1 }

/-- The web target of a new knife action: the last cut of the lane's previous segment, or P − D_TRIM where the map held none;
or the latest target among the PLANNED knife actions where one of those follows it (R152). -/
def knifeTarget (l : Lane) (s : State) : Word32 :=
  let own := match newest (s.lane l) with
    | some g => trimLast (s.jobOf g) g
    | none => trimPos l s
  (s.lane l).trimQueue.foldl (fun t a => later t a.target) own

/-- The knife action a registration plans (R151). -/
def knifeAction (need : KnifePlan) (id : Nat) (target : Word32) : Action :=
  match need with
  | .pair n f => { kind := .move, owner := some id, key := id, offset := 0, target := target, near := n, far := f }
  | .parked => { kind := .park, owner := some id, key := id, offset := 0, target := target, near := 0, far := 0 }
  | .unknown => { kind := .park, owner := some id, key := id, offset := 0, target := target, near := 0, far := 0 }

/-- The lateral reference after a knife action is planned: a MOVE's pair, kept for a PARK (R151). -/
def lateralAfter (need : KnifePlan) (old : Option (Nat × Nat)) : Option (Nat × Nat) :=
  match need with
  | .pair n f => some (n, f)
  | .parked => old
  | .unknown => old

/-- A miss: the knife action is placed in the trim queue and the Trim Planner updates its own state (R151). -/
def planKnife (need : KnifePlan) (id : Nat) (target : Word32) (x : LaneState) : LaneState :=
  { x with
    trimQueue := enqueue (knifeAction need id target) x.trimQueue
    moves := x.moves ++ [(id, x.lateral)]
    knifePlan := need
    lateral := lateralAfter need x.lateral
    pendingKnife := some id }

/-- The action a new segment's watch watches: its own on a miss, the pending one on a hit, none at an OFFLINE station (R155). -/
def watchedAction (misses configured : Bool) (id : Nat) (pendingKnife : Option Nat) : Option Nat :=
  if misses then some id else if configured then pendingKnife else none

/-- The watch opens WAITING where an action is watched and the trim region has a length; else ENDED (R155). -/
def openWatch (job : JobDef) (watched : Option Nat) : Watch :=
  { watched := watched
    state := if watched.isSome && decide (1 < job.cuts.length) then .waiting else .ended
    moving := false }

/-- A REQUIRED zone stands in a job's zone list. -/
def requiresLam (job : JobDef) : Bool := job.zones.any (fun z => z.mode = .required)

/-- A trim station is OFFLINE for a job with trim (R84, R158). -/
def trimLost (l : Lane) (job : JobDef) (s : State) : Bool := !(s.station (trimmerOf l)).configured && job.trim.isSome

/-- The segment record a registration creates (R57, R76, R81 to R85). -/
def newSegment (l : Lane) (tag : Byte) (slot : Nat) (p : Word32) (job : JobDef) (ordinal : Nat) (s : State) : Segment :=
  let misses := trimMisses l job s
  let g : Segment :=
    { id := s.nextSeg, tag := tag, slot := slot, ordinal := ordinal, pCue := p, anchorP := p, anchorX := 0,
      stretch := (s.lane l).stretch, state := .opened, next := some (firstMark job), flags := 0#12,
      unfinished := job.cuts.length + (if misses then 1 else 0), cutsDone := 0, cutsLate := 0, cutsMissed := 0,
      lateness := 0, trimShort := 0, faultCode := none, cause := none,
      watch :=
        openWatch job
          (watchedAction misses (s.station (trimmerOf l)).configured s.nextSeg (s.lane l).pendingKnife) }
  { g with
    flags :=
      (if !s.lam.configured && requiresLam job then defLamShort else 0#12) |||
        (if trimLost l job s then defTrimShort else 0#12) |||
        (if trimClamped (s.lane l).record job then defTrimClamped else 0#12) |||
        (if s.web.splices.any (inSpan job g) then defSpliced else 0#12)
    trimShort := if trimLost l job s then regionLength job g else 0 }

/-- The cut actions of a new segment, in list order (R82). -/
def cutActions (job : JobDef) (g : Segment) : List Action :=
  job.cuts.map (fun x =>
    { kind := .cut, owner := some g.id, key := g.id, offset := x, target := g.coord x, near := 0, far := 0 })

/-- The zone entries of a new segment, numbered from `n` in list order (R83, R125). -/
def zoneEntries (l : Lane) (g : Segment) : Nat → List Zone → List ZoneEntry
  | _, [] => []
  | n, z :: rest =>
      { lane := l, seg := g.id, number := n, mode := z.mode, x1 := z.x1, x2 := z.x2, a := g.coord z.x1, b := g.coord z.x2 }
        :: zoneEntries l g (n + 1) rest

/-- The lane with a new segment and its work: map, cut queue, and the knife action on a miss (R81, R82, R84, R151). -/
def addToLane (g : Segment) (job : JobDef) (misses : Bool) (target : Word32) (x : LaneState) : LaneState :=
  let x1 :=
    { x with
      segs := x.segs ++ [g], cutQueue := (cutActions job g).foldl (fun q a => enqueue a q) x.cutQueue }
  if misses then planKnife (trimNeed x.record job) g.id target x1 else x1

/-- The stations a registration touches: the cutter, the trim station on a miss, and LAM where zones were created (R81, R101). -/
def touched (l : Lane) (misses zoned : Bool) : List Station :=
  [cutterOf l] ++ (if misses then [trimmerOf l] else []) ++ (if zoned then [.lam] else [])

/-- The registration of a segment: step 7 of cue acceptance (R57, R81). The nip plan is recomputed before the issue tests, an order
R81 leaves open (notes/assumptions/48.md, DESIGN CHOICE). -/
def register (l : Lane) (tag : Byte) (slot : Nat) (p : Word32) (r : JobRecord) (s : State) : State :=
  let job := r.defn
  let misses := trimMisses l job s
  let g := newSegment l tag slot p job (takeCopy r).registered s
  let zoned := s.lam.configured && !job.zones.isEmpty
  let s1 := (s.modSlot slot takeCopy).modLane l (addToLane g job misses (knifeTarget l s))
  let s2 := if trimLost l job s then raise prioTrimShort s1 else s1
  let s3 := { s2 with nextSeg := s2.nextSeg + 1 }
  let s4 :=
    if zoned then recompute { s3 with nip := { s3.nip with zones := s3.nip.zones ++ zoneEntries l g 0 job.zones } } else s3
  issueTests (touched l misses zoned) s4

/-! ## Cue acceptance (R50 to R57) -/

/-- The marks of a segment still expected, from its next expected mark through the tail mark if the job has one (R53). -/
def remainingMarks (job : JobDef) (g : Segment) : Nat :=
  match g.next with
  | some (.pitch i) => (job.pitches.length - i) + (if job.tail then 1 else 0)
  | some .tail => if job.tail then 1 else 0
  | none => 0

/-- A passing cue closes an OPEN newest segment, its remaining marks missed (R53, R60). -/
def closeByCue (l : Lane) (g : Segment) (s : State) : State :=
  if g.state = .opened then closeSeg l g.id (missMarks l g.id (remainingMarks (s.jobOf g) g) s) else s

/-- Steps 5 to 7 (R55 to R57). -/
def acceptCue (l : Lane) (tag : Byte) (p : Word32) (s : State) : State :=
  match lookupCue l tag s with
  | .found i =>
      match s.slot i with
      | some r =>
          if hasRoom l r.defn s then register l tag i p r s else raise prioNoRoom (bumpNoRoom l s)
      | none => raise prioCueRefused (bumpRefused l s)
  | .notFound => raise prioCueRefused (bumpRefused l s)
  | .laneMismatch => raise prioCueRefused (bumpRefused l s)
  | .exhausted => raise prioCueRefused (bumpRefused l s)

/-- Steps 2 to 7 of cue acceptance on a RUNNING lane (R52 to R57). A cue taken after an expiry that closed and retired the newest
segment finds what R53 lets it find, the segment before it or an empty map, which it passes, though R61 has a cue and that expiry
end alike in either order (notes/assumptions/45.md, DESIGN CHOICE). -/
def takeCue (l : Lane) (tag : Byte) (p : Word32) (s : State) : State :=
  if tag = 0#8 ∨ tag = 255#8 then raise prioCueRefused (bumpRefused l s)
  else
    match newest (s.lane l) with
    | none => acceptCue l tag p s
    | some g =>
        if reaches p (expectedTail (s.jobOf g) g - pu (s.lane l).record.markTol) then
          let s1 := closeByCue l g s
          if precedes g.pCue p then acceptCue l tag p s1 else bumpStray l s1
        else bumpStray l s

/-- A mark at a lane's Mark Tracker, detected or synthetic (R50). -/
def takeMark (l : Lane) (shape : MarkShape) (tag : Byte) (p : Word32) (s : State) : State :=
  match (s.lane l).mode, shape with
  | .disabled, _ => s
  | .draining, .cue => bumpRefused l s
  | .running, .cue => takeCue l tag p s
  | .draining, _ => takeInnerMark l shape p s
  | .running, _ => takeInnerMark l shape p s

end Sys2Proof.Machine
end

