-- ==== Sys2Proof/Machine/WebEvents.lean ====
section
/-! DEFINITION. The Web Event Unit: presence, breaks, splices and the media profile (spec/08). -/

namespace Sys2Proof.Machine

/-- A web break (R170). The second recomputation, for the profile, has the outcome of the first, so one is made (R137). -/
def webBreak (s : State) : State :=
  let s1 := spoilBoth .webBreak { s with web := { s.web with broken := true, absence := 0 } }
  raise prioWebBreak (nipChange { s1 with web := { s1.web with profile := none, splices := [] } })

/-- The Web Event Unit takes an advance of P by `d` pu: accumulation, and a break where the sum reaches DB (R169). -/
def takeAbsence (d : Nat) (s : State) : State :=
  if s.web.present || s.web.broken then s
  else
    let s1 := { s with web := { s.web with absence := s.web.absence + d } }
    if s.setup.db ≤ s.web.absence + d then webBreak s1 else s1

/-- The Web Event Unit takes an advance of P: entries that P has passed leave the splice list (R174). -/
def passSplices (s : State) : State :=
  { s with web := { s.web with splices := s.web.splices.filter (fun x => !precedes x s.tracker.p) } }

/-- SPLICED is set on every segment of a lane map whose span contains a new entry (R85, R173). -/
def markSpliced (l : Lane) (x : Word32) (s : State) : State :=
  s.modLane l (fun y => { y with segs := y.segs.map (fun g => if inSpan (s.jobOf g) g x then g.flag defSpliced else g) })

/-- The splices-unrecorded counter increments. -/
def bumpUnrecorded (s : State) : State := { s with web := { s.web with unrecorded := bump s.web.unrecorded } }

/-- A new splice (R173). -/
def recordSplice (s : State) : State :=
  if s.setup.spliceDist = 0 then s
  else if s.tracker.mode = .noDatum ∨ s.tracker.mode = .lost then bumpUnrecorded s
  else if 4 ≤ s.web.splices.length then bumpUnrecorded s
  else
    let x := s.tracker.p + pu s.setup.spliceDist
    markSpliced .b x (markSpliced .a x { s with web := { s.web with splices := s.web.splices ++ [x] } })

/-- The flags of a POS sample at the Web Event Unit (R164). -/
def takeFlags (present splice : Bool) (s : State) : State :=
  let s1 :=
    if present then { s with web := { s.web with present := true, absence := 0, broken := false } }
    else { s with web := { s.web with present := false } }
  let s2 := if splice && !s.web.spliceFlag then recordSplice s1 else s1
  { s2 with web := { s2.web with spliceFlag := splice } }

/-- A roll is narrower than the far edge of a lane that is RUNNING (R167). -/
def rollNarrow (width : Nat) (x : LaneState) : Bool := decide (x.mode = .running) && decide (width < x.record.farEdge)

/-- A ROLL descriptor at the Web Event Unit (R165 to R167). -/
def takeRoll (media : MediaClass) (width thickness stretch : BitVec 16) (laminate : Bool) (s : State) : State :=
  if s.laneA.segs = [] ∧ s.laneB.segs = [] then
    let s1 :=
      { s with
        web :=
          { s.web with
            profile :=
              some { media := media, width := width, thickness := thickness, stretch := stretch, laminate := laminate } }
        laneA := { s.laneA with stretch := clampStretch stretch.toInt }
        laneB := { s.laneB with stretch := clampStretch stretch.toInt } }
    nipChange
      (if rollNarrow width.toNat s.laneA || rollNarrow width.toNat s.laneB then raise prioRollRefused s1 else s1)
  else raise prioRollRefused s

end Sys2Proof.Machine
end

