-- ==== Sys2Proof/Machine/Position.lean ====
section
/-! DEFINITION. The Position Tracker: samples, estimates, loss, mark conversion, and the advance of P with the blocks that take
it (spec/02). -/

namespace Sys2Proof.Machine

/-! ## The advance of P (R38) -/

/-- The blocks that take an advance, in R38's order, which stands where no choice of order is given. -/
def allTakers : List Taker :=
  [.marks .a, .marks .b, .trimShort .a, .trimShort .b, .station .lam, .station .trimA, .station .trimB, .station .cutA,
    .station .cutB, .zones, .absence, .splices]

/-- A block takes an advance of P by `d` pu (R38). -/
def runTaker (d : Nat) (t : Taker) (s : State) : State :=
  match t with
  | .marks l => expireWindows l s
  | .trimShort l => testShort l s
  | .station st => issueTest st s
  | .zones => passZones s
  | .absence => takeAbsence d s
  | .splices => passSplices s

/-- An advance of P, made already, is taken by every block, each once (R38). -/
def takeAdvance (d : Nat) (s : State) : State :=
  (arrange s.turn.takers allTakers).foldl (fun acc t => runTaker d t acc) s.dropTurn

/-- P becomes a position; where it changes, that is an advance (R29, R31, R33, R34, R38). -/
def movePos (p : Word32) (s : State) : State :=
  let s1 := { s with tracker := { s.tracker with p := p } }
  if p = s.tracker.p then s1 else takeAdvance (p - s.tracker.p).toNat s1

/-! ## Loss of position (R35) -/

/-- The tracker enters LOST: v = 0, timer stopped, P frozen; every segment of both maps is spoiled with cause LOST, both lanes
are DISABLED, the emptied zone list changes the plan, and TRACK_LOST is set (R35, R91, R137). -/
def enterLost (s : State) : State :=
  let s1 := { s with tracker := { s.tracker with mode := .lost, speed := 0, sampleTimer := none } }
  let s2 := spoilBoth .lost s1
  raise prioTrackLost (nipChangeIf (decide (s2.nip.zones ≠ s.nip.zones)) s2)

/-! ## Samples (R23 to R29, R33, R34) -/

/-- MAX_STEP, the largest count delta accepted (R21). -/
def maxStep : Nat := 65535

/-- The first sample in NO_DATUM becomes the reference (R28). -/
def setDatum (c t : Word32) (ts : Nat) (k : Tracker) : Tracker :=
  { k with
    mode := .tracking, pEnc := k.p, frac := 0, debt := 0, estFrac := 0, estAdvance := 0, jumpRun := 0,
    reference := some { count := c, stamp := t }, sampleTimer := some ts }

/-- The reverse debt after a delta (R25). -/
def debtAfter (d : Int) (debt : Nat) : Nat := if d < 0 then debt + d.natAbs else debt - min d.toNat debt

/-- The forward count left to accumulate after the debt is paid (R25). -/
def forwardCount (d : Int) (debt : Nat) : Nat := d.toNat - min d.toNat debt

/-- The sum F + d' × K (R26). -/
def accumulated (frac count k : Nat) : Nat := frac + count * k

/-- The instantaneous speed of a delta over Δt µs (R27). -/
def instantSpeed (d : Int) (k dt : Nat) : Nat := d.toNat * k * 1000 / (256 * dt)

/-- The speed after an accepted sample (R27). -/
def speedAfter (v : Nat) (d : Int) (k dt : Nat) : Nat :=
  if dt < 100 ∨ 50000 < dt then v else clampNat 0 256000 ((3 * v + instantSpeed d k dt) / 4)

/-- What an accepted sample does before its state's own rule: debt, accumulation, speed, reference, jump run (R23, R25 to R27). -/
def settleSample (c t : Word32) (r : Reference) (k : Nat) (x : Tracker) : Tracker :=
  let d := sdiff c r.count
  let total := accumulated x.frac (forwardCount d x.debt) k
  { x with
    debt := debtAfter d x.debt
    pEnc := x.pEnc + pu (total / 65536)
    frac := total % 65536
    speed := speedAfter x.speed d k (t - r.stamp).toNat
    reference := some { count := c, stamp := t }
    jumpRun := 0 }

/-- The state's own rule for an accepted sample in TRACKING (R29). -/
def ruleTracking (s : State) : State :=
  movePos s.tracker.pEnc { s with tracker := { s.tracker with sampleTimer := some s.setup.ts } }

/-- An accepted sample in ESTIMATED resynchronises (R33). One that puts P_enc more than EST_LIMIT ahead of P enters LOST also right
after the expiry of the sample timer, where R39 has it leave TRACKING or HOLDING (notes/assumptions/47.md, DESIGN CHOICE). -/
def ruleEstimated (s : State) : State :=
  let x := { s.tracker with estAdvance := 0, estFrac := 0, estTime := 0 }
  let gap := sdiff x.pEnc x.p
  if 0 ≤ gap ∧ gap ≤ s.setup.estLimit then
    movePos x.pEnc { s with tracker := { x with mode := .tracking, sampleTimer := some s.setup.ts } }
  else if gap < 0 ∧ -gap ≤ s.setup.estLimit then
    { s with tracker := { x with mode := .holding, sampleTimer := some s.setup.ts } }
  else enterLost { s with tracker := x }

/-- An accepted sample in HOLDING (R34). -/
def ruleHolding (s : State) : State :=
  let gap := sdiff s.tracker.pEnc s.tracker.p
  if 0 ≤ gap then
    movePos s.tracker.pEnc { s with tracker := { s.tracker with mode := .tracking, sampleTimer := some s.setup.ts } }
  else if -gap ≤ s.setup.estLimit then { s with tracker := { s.tracker with sampleTimer := some s.setup.ts } }
  else enterLost s

/-- The state's own rule for an accepted sample (R23). -/
def ownRule (s : State) : State :=
  match s.tracker.mode with
  | .tracking => ruleTracking s
  | .estimated => ruleEstimated s
  | .holding => ruleHolding s
  | .noDatum => s
  | .lost => s

/-- A sample rejected as a jump; the third in a row enters LOST (R24). -/
def rejectJump (s : State) : State :=
  let s1 := { s with tracker := { s.tracker with jumps := bump s.tracker.jumps, jumpRun := s.tracker.jumpRun + 1 } }
  if 3 ≤ s.tracker.jumpRun + 1 then enterLost s1 else s1

/-- A sample in TRACKING, ESTIMATED or HOLDING, against the reference (R23 to R25). -/
def takeDelta (c t : Word32) (r : Reference) (s : State) : State :=
  let d := sdiff c r.count
  if maxStep < d.natAbs then rejectJump s
  else if s.setup.revLimit < debtAfter d s.tracker.debt ∧ d < 0 then
    enterLost { s with tracker := { s.tracker with debt := 0 } }
  else ownRule { s with tracker := settleSample c t r s.setup.k s.tracker }

/-- A POS sample at the Position Tracker (R23). -/
def takeSample (c t : Word32) (s : State) : State :=
  match s.tracker.mode, s.tracker.reference with
  | .lost, _ => s
  | .noDatum, _ => { s with tracker := setDatum c t s.setup.ts s.tracker }
  | _, none => { s with tracker := setDatum c t s.setup.ts s.tracker }
  | _, some r => takeDelta c t r s

/-! ## Timers (R30, R31) -/

/-- The sample timer runs out (R30). -/
def sampleExpiry (s : State) : State :=
  match s.tracker.sampleTimer with
  | some _ =>
      raise prioTrackEstimated
        { s with
          tracker :=
            { s.tracker with mode := .estimated, estAdvance := 0, estFrac := 0, estTime := 0, sampleTimer := none } }
  | none => s

/-- The advance a of an estimate tick (R31). -/
def tickAdvance (x : Tracker) : Nat := (x.estFrac + x.speed) / 256

/-- The tracker with this estimate time and the fraction a tick leaves (R31). -/
def tickTracker (time : Nat) (x : Tracker) : Tracker :=
  { x with estFrac := (x.estFrac + x.speed) % 256, estTime := time }

/-- A 1 ms tick in ESTIMATED (R31). -/
def estimateTick (s : State) : State :=
  if s.tracker.mode = .estimated then
    let a := tickAdvance s.tracker
    let x := tickTracker (s.tracker.estTime + 1) s.tracker
    if s.setup.estLimit < s.tracker.estAdvance + a then enterLost { s with tracker := x }
    else if 1000 ≤ s.tracker.estTime + 1 then enterLost { s with tracker := x }
    else movePos (s.tracker.p + pu a) { s with tracker := { x with estAdvance := s.tracker.estAdvance + a } }
  else s

/-- The tick at which the estimate time reaches 1,000 ms (R31). -/
def estimateExpiry (s : State) : State :=
  if s.tracker.mode = .estimated then enterLost { s with tracker := tickTracker 1000 s.tracker } else s

/-! ## Mark conversion (R40, R41) -/

/-- The out-of-range mark counter increments. -/
def markOut (s : State) : State :=
  { s with tracker := { s.tracker with outOfRange := bump s.tracker.outOfRange } }

/-- The reverse-discarded mark counter increments. -/
def markReversed (s : State) : State :=
  { s with tracker := { s.tracker with reverseDiscarded := bump s.tracker.reverseDiscarded } }

/-- The web position of a mark latched at Δ counts before the reference (R40). -/
def markPos (pEnc : Word32) (delta : Int) (k : Nat) : Word32 :=
  let offset := pu ((delta.natAbs * k + 32768) / 65536)
  if 0 ≤ delta then pEnc - offset else pEnc + offset

/-- A dispatched MARK frame at the Position Tracker (R40, R41). -/
def convertMark (l : Lane) (shape : MarkShape) (tag : Byte) (c : Word32) (s : State) : State :=
  if s.tracker.mode = .noDatum ∨ s.tracker.mode = .lost then markOut s
  else if 0 < s.tracker.debt then markReversed s
  else
    match s.tracker.reference with
    | none => markOut s
    | some r =>
        let delta := sdiff r.count c
        if maxStep < delta.natAbs then markOut s
        else takeMark l shape tag (markPos s.tracker.pEnc delta s.setup.k) s

/-- CLEAR LOST in LOST (R37). -/
def clearLostTracker (x : Tracker) : Tracker :=
  { x with
    mode := .noDatum, debt := 0, frac := 0, estAdvance := 0, estFrac := 0, estTime := 0, jumpRun := 0, reference := none }

end Sys2Proof.Machine
end

