-- ==== Sys2Proof/Machine/InternalEvents.lean ====
section
/-! DEFINITION. The meanings of the block's own internal steps as commands: each acts where the condition its rule states holds,
and otherwise finds nothing to do (notes/assumptions/5.md). -/

namespace Sys2Proof.Machine

/-- The head of a lane's cut queue, with what the issue test makes of it. -/
def cutHead (l : Lane) (s : State) : Option (Action × HeadFate) :=
  (s.lane l).cutQueue.head?.map (fun act => (act, cutFate l act s))

/-- The head of a lane's trim queue, with what the issue test makes of it. -/
def trimHead (l : Lane) (s : State) : Option (Action × HeadFate) :=
  (s.lane l).trimQueue.head?.map (fun act => (act, trimFate l act s))

/-- The due head cut of a lane is issued (R105, R106, R108). -/
def issueCutHead (l : Lane) (s : State) : State :=
  match cutHead l s with
  | some (act, .issued) => issueCut l act s
  | _ => s

/-- The due head knife action of a lane is issued (R105, R107, R108). -/
def issueKnifeHead (l : Lane) (s : State) : State :=
  match trimHead l s with
  | some (act, .issued) => issueKnife l act s
  | _ => s

/-- The due head of a station is issued (R108). -/
def issueHead (st : Station) (s : State) : State :=
  match st with
  | .lam => lamTest s
  | .trimA => issueKnifeHead .a s
  | .trimB => issueKnifeHead .b s
  | .cutA => issueCutHead .a s
  | .cutB => issueCutHead .b s

/-- ACTION_ISSUE (R105 to R108). -/
def execActionIssue (st : Station) (s : State) : Host.Outcome State Fault Refusal := .next (finish (issueHead st s))

/-- A head cut late beyond its tolerance is SKIPPED and the test continues with the next head (R106, R110). -/
def skipHead (l : Lane) (s : State) : State :=
  match cutHead l s with
  | some (act, .skipped) => cutTest l (skipCut l act s)
  | _ => s

/-- CUT_SKIPPED (R106, R110). -/
def execCutSkipped (l : Lane) (s : State) : Host.Outcome State Fault Refusal := .next (finish (skipHead l s))

/-- A head cut at a FAULTED or OFFLINE cutter is CANCELLED and the test continues (R111). -/
def cancelCutHead (l : Lane) (s : State) : State :=
  match cutHead l s with
  | some (act, .cancelled) => cutTest l (cancelCut l act s)
  | _ => s

/-- A head knife action at a FAULTED or OFFLINE trim station is CANCELLED and the test continues (R111). -/
def cancelKnifeHead (l : Lane) (s : State) : State :=
  match trimHead l s with
  | some (act, .cancelled) => trimTest l (cancelKnife l act s)
  | _ => s

/-- The head of a FAULTED or OFFLINE station at its fire point is CANCELLED; LAM's offer waits (R102, R111). -/
def cancelHead (st : Station) (s : State) : State :=
  match st with
  | .lam => s
  | .trimA => cancelKnifeHead .a s
  | .trimB => cancelKnifeHead .b s
  | .cutA => cancelCutHead .a s
  | .cutB => cancelCutHead .b s

/-- HEAD_CANCELLED (R111). -/
def execHeadCancelled (st : Station) (s : State) : Host.Outcome State Fault Refusal := .next (finish (cancelHead st s))

/-- WINDOW_EXPIRY (R59). -/
def execWindowExpiry (l : Lane) (s : State) : Host.Outcome State Fault Refusal := .next (finish (expireWindows l s))

/-- The segment at a place of a lane map retires where it can (R87). -/
def retireAt (l : Lane) (place : Nat) (s : State) : State :=
  match (s.lane l).segs[place]? with
  | some g => if retirable g then retire l g s else s
  | none => s

/-- SEGMENT_RETIREMENT (R87). -/
def execSegmentRetirement (l : Lane) (place : Nat) (s : State) : Host.Outcome State Fault Refusal :=
  .next (finish (retireAt l place s))

/-- LANE_DRAINED (R74). -/
def execLaneDrained (l : Lane) (s : State) : Host.Outcome State Fault Refusal := .next (finish (drainTest l s))

/-- A break is due: the media is reported absent, the latch is clear and the accumulator has reached DB (R169, R170). -/
def breakDue (s : State) : Bool := !s.web.present && !s.web.broken && decide (s.setup.db ≤ s.web.absence)

/-- WEB_BREAK (R170). -/
def execWebBreak (s : State) : Host.Outcome State Fault Refusal := .next (finish (if breakDue s then webBreak s else s))

/-- ZONE_PASSING (R126, R139). -/
def execZonePassing (s : State) : Host.Outcome State Fault Refusal := .next (finish (passZones s))

/-- SPLICE_PASSED (R174). -/
def execSplicePassed (s : State) : Host.Outcome State Fault Refusal := .next (finish (passSplices s))

/-- TRIM_SHORT (R156). -/
def execTrimShort (l : Lane) (s : State) : Host.Outcome State Fault Refusal := .next (finish (testShort l s))

/-- ATTN_QUEUED (R205; R208, step 1). -/
def execAttnQueued (s : State) : Host.Outcome State Fault Refusal := .next (refreshPins (placeAttn (dropMarker s)))

/-- REPORT_QUEUED (R207; R208, step 2). -/
def execReportQueued (s : State) : Host.Outcome State Fault Refusal := .next (refreshPins (moveReports 1 s))

end Sys2Proof.Machine
end

