-- ==== Sys2Proof/Machine/Resets.lean ====
section
/-! DEFINITION. The cold reset and the warm reset, block by block as each block's own rule states (R210; R211). -/

namespace Sys2Proof.Machine

/-- The state after a cold reset: every block at its reset values. Each port's link state follows its line and is not changed
(R179, R194); the model's own queues and the argument of its free value are carried on (R19, R44, R68, R93, R123, R146, R160,
R162, R194, R211). -/
def coldState (s : State) : State :=
  { State.reset with
    north := NorthPort.reset s.north.up, south := SouthPort.reset s.south.up,
    jobReads := s.jobReads, turns := s.turns, pending := s.pending }

/-- A station after a warm reset: its record kept, READY if configured and else OFFLINE, its counters 0 (R97, R124). -/
def StationState.warm (x : StationState) : StationState :=
  { StationState.reset with record := x.record, mode := if x.configured then .ready else .offline }

/-- The Nip Planner after a warm reset: the stored temperature and the last reported sensor state are kept (R147). -/
def Nip.warm (n : Nip) : Nip := { Nip.reset with temp := n.temp, sensor := n.sensor }

/-- The Job Table after a warm reset (R20). -/
def warmJobs (keep : Bool) (jobs : List (Option JobRecord)) : List (Option JobRecord) :=
  if keep then jobs.map (Option.map (fun r => { r with inUse := 0 })) else jobs.map (fun _ => none)

/-- The own normal queue after a warm reset: the RESP just placed stays where it still waits (R195). -/
def warmOwn (answered : Bool) (own : List Frame) : List Frame := if answered then own.drop (own.length - 1) else []

/-- The north port after a warm reset: a frame in transmission is completed (R195). -/
def NorthPort.warm (answered : Bool) (p : NorthPort) : NorthPort :=
  { NorthPort.reset p.up with tx := p.tx, own := warmOwn answered p.own }

/-- The south port after a warm reset (R195). -/
def SouthPort.warm (p : SouthPort) : SouthPort := { SouthPort.reset p.up with tx := p.tx }

/-- The warm reset of every block (R20, R45, R68, R94, R124, R147, R160, R178, R195, R210). -/
def warmReset (keep answered : Bool) (s : State) : State :=
  { s with
    north := s.north.warm answered, south := s.south.warm, tracker := Tracker.reset, jobs := warmJobs keep s.jobs,
    laneA := LaneState.reset s.laneA.record, laneB := LaneState.reset s.laneB.record,
    lam := s.lam.warm, trimA := s.trimA.warm, trimB := s.trimB.warm, cutA := s.cutA.warm, cutB := s.cutB.warm,
    nip := s.nip.warm, web := WebUnit.reset, mgmt := { Mgmt.reset with mask := s.mgmt.mask } }

end Sys2Proof.Machine
end

