-- ==== Sys2Proof/Config.lean ====
section
/-! DEFINITION. The values the manual leaves open, as constants with no body: no proof can see what they are. -/

namespace Sys2Proof.Config

/-- What a READ JOB response carries at a byte of the job record body that holds no part of the definition: a cut, zone or
pitch entry beyond its list's count, or the trim pair of an absent trim. R10 says their contents have no effect and R202
repeats the body's bytes, so their value is not stated (notes/assumptions/3.md). The arguments are the number of READ JOB
responses made before and the byte's offset in the body. -/
opaque unusedJobByte : Nat → Nat → Byte

end Sys2Proof.Config
end

