-- ==== Sys2Proof/Machine/Operands.lean ====
section
/-! DEFINITION. The bodies of requests: how each record body is read, and the checks of its fields in the order the governing
rule gives (R10, R11, R70, R96, R198, R199; section 9.2). A check answers the number of the first field that fails. -/

namespace Sys2Proof.Machine

/-- The field at which a list of checks first fails, each check being a field number and whether it holds (R197). -/
def firstFailing : List (Nat × Bool) → Option Nat
  | [] => none
  | (n, ok) :: rest => if ok then firstFailing rest else some n

/-- A value lies in a range. -/
def inRange (lo hi x : Nat) : Bool := decide (lo ≤ x) && decide (x ≤ hi)

/-! ## Job record body (R2, R10, R11; section 9.2) -/

/-- `n` four-byte entries from an offset on. -/
def entries32 (body : List Byte) : Nat → Nat → List Nat
  | 0, _ => []
  | n + 1, i => field32 body i :: entries32 body n (i + 4)

/-- The cut offsets of a job record body. -/
def bodyCuts (body : List Byte) : List Nat := entries32 body (byteAt body 10) 11

/-- The pitch offsets of a job record body. -/
def bodyPitches (body : List Byte) : List Nat := entries32 body (byteAt body 85) 86

/-- A zone as a body carries it: offsets and mode code. -/
structure RawZone where
  x1 : Nat
  x2 : Nat
  mode : Nat
deriving DecidableEq, Repr

/-- `n` nine-byte zones from an offset on. -/
def rawZones (body : List Byte) : Nat → Nat → List RawZone
  | 0, _ => []
  | n + 1, i =>
      { x1 := field32 body i, x2 := field32 body (i + 4), mode := byteAt body (i + 8) } :: rawZones body n (i + 9)

/-- The zones of a job record body. -/
def bodyZones (body : List Byte) : List RawZone := rawZones body (byteAt body 43) 44

/-- The cut offsets hold: each at most the bound, and each after the first at least 1,000 above the one before (R11, field 6). -/
def cutsOk (bound : Nat) : Option Nat → List Nat → Bool
  | _, [] => true
  | prev, x :: rest =>
      decide (x ≤ bound) && (match prev with | some p => decide (p + 1000 ≤ x) | none => true) &&
        cutsOk bound (some x) rest

/-- Two zones share an offset (R5, R11). -/
def zonesShare (z w : RawZone) : Bool := decide (z.x1 ≤ w.x2) && decide (w.x1 ≤ z.x2)

/-- The zones hold, those in `before` standing earlier in the list (R11, field 7). -/
def zonesOk (lastCut : Nat) (before : List RawZone) : List RawZone → Bool
  | [] => true
  | z :: rest =>
      (decide (z.mode = 1) || decide (z.mode = 2)) && decide (z.x1 < z.x2) && decide (z.x2 ≤ lastCut) &&
        !(before.any (zonesShare z)) && zonesOk lastCut (before ++ [z]) rest

/-- The pitch offsets hold: each 1 to L_nom − 1 and strictly increasing (R11, field 9). -/
def pitchesOk (lNom : Nat) : Option Nat → List Nat → Bool
  | _, [] => true
  | prev, x :: rest =>
      decide (1 ≤ x) && decide (x + 1 ≤ lNom) && (match prev with | some p => decide (p < x) | none => true) &&
        pitchesOk lNom (some x) rest

/-- The checks of a WRITE JOB body, by field number (R11). -/
def jobChecks (body : List Byte) : List (Nat × Bool) :=
  [(0, inRange 1 3 (byteAt body 0)), (1, inRange 1 254 (byteAt body 1)), (2, inRange 0 2 (byteAt body 2)),
    (3, inRange 0 999 (field16 body 3)), (4, inRange 10000 5000000 (field32 body 5)), (5, inRange 0 1 (byteAt body 9)),
    (6, inRange 1 8 (byteAt body 10) && cutsOk (field32 body 5 + 100000) none (bodyCuts body)),
    (7, inRange 0 4 (byteAt body 43) && zonesOk ((bodyCuts body).getLastD 0) [] (bodyZones body)),
    (8, inRange 0 1 (byteAt body 80) &&
        (decide (byteAt body 80 = 0) ||
          (decide (field16 body 83 ≤ 32000) && decide (field16 body 81 < field16 body 83)))),
    (9, inRange 0 15 (byteAt body 85) && pitchesOk (field32 body 5) none (bodyPitches body)),
    (10, inRange 0 1 (byteAt body 146))]

/-- The lane field of a job record by its code (section 9.2). -/
def laneSelectOf (n : Nat) : LaneSelect := if n = 0 then .a else if n = 1 then .b else .any

/-- A zone of a valid body. -/
def zoneOf (z : RawZone) : Zone := { x1 := z.x1, x2 := z.x2, mode := if z.mode = 1 then .required else .forbidden }

/-- The definition a valid WRITE JOB body carries (R2, section 9.2). -/
def bodyJob (body : List Byte) : JobDef :=
  { tag := body.getD 1 0#8, lane := laneSelectOf (byteAt body 2), copies := field16 body 3, lNom := field32 body 5,
    tail := decide (byteAt body 9 = 1), cuts := bodyCuts body, zones := (bodyZones body).map zoneOf,
    trim := if byteAt body 80 = 1 then some (field16 body 81, field16 body 83) else none,
    pitches := bodyPitches body, notify := decide (byteAt body 146 = 1) }

/-! ## Station record body (R95, R96; section 9.2) -/

/-- A station by its code (section 9.2). -/
def stationOf (n : Nat) : Option Station :=
  match n with
  | 0 => some .lam
  | 1 => some .trimA
  | 2 => some .trimB
  | 3 => some .cutA
  | 4 => some .cutB
  | _ => none

/-- The points of a temperature table from an offset on. -/
def tablePoints (body : List Byte) : Nat → Nat → List (Nat × Nat)
  | 0, _ => []
  | n + 1, i => (byteAt body i, field16 body (i + 1)) :: tablePoints body n (i + 3)

/-- The nine points of a LAM record body. -/
def bodyTable (body : List Byte) : List (Nat × Nat) := tablePoints body 9 15

/-- The points hold: values up to 3,000, raw codes strictly increasing (R95, R96). -/
def tableOk : Option Nat → List (Nat × Nat) → Bool
  | _, [] => true
  | prev, p :: rest =>
      (match prev with | some c => decide (c < p.1) | none => true) && decide (p.2 ≤ 3000) && tableOk (some p.1) rest

/-- The other stations, in code order. -/
def othersOf (st : Station) : List Station := [Station.lam, .trimA, .trimB, .cutA, .cutB].filter (fun x => x ≠ st)

/-- The node address differs from that of every other station present and enabled (R96). -/
def addrFree (st : Station) (addr : Byte) (s : State) : Bool :=
  (othersOf st).all (fun x => !answersAs addr (s.station x))

/-- The temperature window holds (R95, R96). -/
def windowOk (tMin tMax : Nat) : Bool :=
  decide (tMin ≤ 3000) && decide (tMax ≤ 3000) && (decide (tMin = 0) || decide (tMin < tMax))

/-- A station is a trim station. -/
def isTrim (st : Station) : Bool := decide (st = .trimA) || decide (st = .trimB)

/-- The checks of a WRITE STATION body for a station, by field number (R96). -/
def stationChecks (st : Station) (body : List Byte) (s : State) : List (Nat × Bool) :=
  [(1, inRange 0 1 (byteAt body 1)),
    (2, inRange 1 62 (byteAt body 2) && (decide (byteAt body 1 = 0) || addrFree st (body.getD 2 0#8) s)),
    (3, inRange 0 10000000 (field32 body 3)), (4, inRange 0 200000 (field32 body 7)),
    (5, inRange 0 10000 (field16 body 11)), (6, inRange 1 5000 (field16 body 13))] ++
    (if isTrim st then [(7, inRange 100 20000 (field16 body 15)), (8, inRange 0 2000 (field16 body 17))] else []) ++
    (if st = .lam then
      [(9, tableOk none (bodyTable body)), (10, windowOk (field16 body 42) (field16 body 44))]
    else [])

/-- The station record a valid body carries; fields of other stations are not taken (R96). -/
def bodyStation (st : Station) (body : List Byte) : StationRecord :=
  { enabled := decide (byteAt body 1 = 1), addr := body.getD 2 0#8, dist := field32 body 3, latency := field32 body 7,
    tol := field16 body 11, timeout := field16 body 13,
    knifeSpeed := if isTrim st then field16 body 15 else 0, settle := if isTrim st then field16 body 17 else 0,
    table := if st = .lam then bodyTable body else [], tMin := if st = .lam then field16 body 42 else 0,
    tMax := if st = .lam then field16 body 44 else 0 }

/-! ## Lane record body and line setup record body (R70, R198; section 9.2) -/

/-- A lane by its code (R197). -/
def laneOfCode (n : Nat) : Option Lane :=
  match n with
  | 0 => some .a
  | 1 => some .b
  | _ => none

/-- The checks of a WRITE LANE body (R70). -/
def laneChecks (body : List Byte) : List (Nat × Bool) :=
  [(0, inRange 0 1 (byteAt body 0)), (1, inRange 0 31999 (field16 body 1)),
    (2, decide (field16 body 3 ≤ 32000) && decide (field16 body 1 < field16 body 3)),
    (3, inRange 100 50000 (field16 body 5)), (4, inRange 0 16 (byteAt body 7))]

/-- The lane record a valid body carries. -/
def bodyLane (body : List Byte) : LaneRecord :=
  { nearEdge := field16 body 1, farEdge := field16 body 3, markTol := field16 body 5, gain := byteAt body 7 }

/-- The checks of a WRITE LINE body (R198). -/
def lineChecks (body : List Byte) : List (Nat × Bool) :=
  [(1, inRange 1 16777215 (field32 body 0)), (3, inRange 1 255 (byteAt body 6)),
    (4, inRange 0 1000000 (field32 body 7)), (5, inRange 500 20000 (field16 body 11)),
    (6, inRange 0 100000 (field32 body 13)), (7, inRange 1 2 (byteAt body 17)), (8, inRange 100 100000 (field32 body 18)),
    (9, inRange 0 10000000 (field32 body 22)), (10, inRange 0 2 (byteAt body 26)), (12, inRange 0 2 (byteAt body 30))]

/-- A stop-line mode by its code (section 9.2). -/
def stopModeOf (n : Nat) : StopMode := if n = 0 then .disabled else if n = 1 then .openDrain else .pushPull

/-- The line setup record a valid body carries. -/
def bodyLine (body : List Byte) : LineSetup :=
  { k := field32 body 0, revLimit := field16 body 4, ts := byteAt body 6, estLimit := field32 body 7,
    horizon := field16 body 11, bridge := field32 body 13,
    policy := if byteAt body 17 = 1 then .forbidWins else .requireWins, db := field32 body 18,
    spliceDist := field32 body 22, stop0Mode := stopModeOf (byteAt body 26),
    stop0Mask := BitVec.ofNat 24 (field24 body 27), stop1Mode := stopModeOf (byteAt body 30),
    stop1Mask := BitVec.ofNat 24 (field24 body 31) }

/-! ## INJECT MARK body (R199) -/

/-- A mark shape by its code (section 9.2). -/
def shapeOfCode (n : Nat) : Option MarkShape :=
  match n with
  | 1 => some .cue
  | 2 => some .pitch
  | 3 => some .tail
  | _ => none

/-- The checks of an INJECT MARK body (R199). -/
def injectChecks (body : List Byte) : List (Nat × Bool) :=
  [(0, inRange 0 1 (byteAt body 0)), (1, inRange 1 3 (byteAt body 1)), (3, inRange 0 1 (byteAt body 3))]

end Sys2Proof.Machine
end

