-- ==== Sys2Proof/Machine/Responses.lean ====
section
/-! DEFINITION. The bodies of responses: READ STATUS, READ MAP and READ JOB (R200 to R202; R209). -/

namespace Sys2Proof.Machine

/-! ## READ STATUS part 0 (R200) -/

/-- The code of a tracker state. -/
def trackerCode : TrackerMode → Nat
  | .noDatum => 0
  | .tracking => 1
  | .estimated => 2
  | .holding => 3
  | .lost => 4

/-- The code of a lane state. -/
def laneModeCode : LaneMode → Nat
  | .disabled => 0
  | .running => 1
  | .draining => 2

/-- The code of a station state. -/
def stationModeCode : StationMode → Nat
  | .offline => 0
  | .ready => 1
  | .busy => 2
  | .faulted => 3

/-- The code of the commanded nip state. -/
def nipCode : NipState → Nat
  | .unknown => 0
  | .opened => 1
  | .closed => 2

/-- The code of the last transition's outcome, 0 when absent. -/
def outcomeCode : Option LastTransition → Nat
  | none => 0
  | some t =>
      match t.outcome with
      | .pending => 1
      | .confirmed => 2
      | .failed => 3

/-- The code of the last sensor state, 0 when absent. -/
def sensorCode : Option NipSensor → Nat
  | none => 0
  | some .opened => 1
  | some .closed => 2

/-- A knife plan: its code, and the pair where it is one. -/
def knifePlanBytes : KnifePlan → List Byte
  | .parked => be8 0 ++ be16 0 ++ be16 0
  | .pair n f => be8 1 ++ be16 n ++ be16 f
  | .unknown => be8 2 ++ be16 0 ++ be16 0

/-- The code of a media class (section 9.2). -/
def mediaCode : MediaClass → Nat
  | .paper => 1
  | .vinyl => 2
  | .mesh => 3
  | .fabric => 4
  | .film => 5

/-- The media profile, PRESENT or ABSENT, and its fields as the ROLL payload lays them out, all 0 while ABSENT. -/
def profileBytes : Option Profile → List Byte
  | none => be8 0 ++ List.replicate 8 0#8
  | some p =>
      be8 1 ++ be8 (mediaCode p.media) ++ be16 p.width.toNat ++ be16 p.thickness.toNat ++ be16 p.stretch.toNat ++
        be8 (if p.laminate then 1 else 0)

/-- The link state: bit 0 north UP, bit 1 south UP. -/
def linkStateCode (s : State) : Nat := (if s.north.up then 1 else 0) + (if s.south.up then 2 else 0)

/-- Bytes 0 to 18: identification, node address and tracker. -/
def statusTracker (s : State) : List Byte :=
  [0x2B#8, 0x62#8, 0x01#8, s.nodeAddr] ++ be8 (trackerCode s.tracker.mode) ++ be32 s.tracker.p.toNat ++
    be32 s.tracker.speed ++ be16 s.tracker.debt ++ be32 s.tracker.estAdvance

/-- Bytes 19 to 29: lanes and stations. -/
def statusLanes (s : State) : List Byte :=
  be16i s.laneA.stretch ++ be16i s.laneB.stretch ++ be8 (laneModeCode s.laneA.mode) ++ be8 (laneModeCode s.laneB.mode) ++
    be8 (stationModeCode s.lam.mode) ++ be8 (stationModeCode s.trimA.mode) ++ be8 (stationModeCode s.trimB.mode) ++
    be8 (stationModeCode s.cutA.mode) ++ be8 (stationModeCode s.cutB.mode)

/-- Bytes 30 to 35: the nip. -/
def statusNip (n : Nip) : List Byte :=
  be8 (nipCode n.commanded) ++ be8 (outcomeCode n.last) ++ be8 (sensorCode n.sensor) ++ be16 n.temp ++
    be8 (if n.tempValid then 1 else 0)

/-- READ STATUS part 0, sixty-one bytes (R200). -/
def statusPart0 (s : State) : List Byte :=
  statusTracker s ++ statusLanes s ++ statusNip s.nip ++ knifePlanBytes s.laneA.knifePlan ++
    knifePlanBytes s.laneB.knifePlan ++ profileBytes s.web.profile ++ be16 s.mgmt.flags.toNat ++ be16 s.mgmt.mask.toNat ++
    be8 (linkStateCode s) ++ be8 s.mgmt.reports.length

/-! ## READ STATUS part 1 (R200, R209) -/

/-- The five counters of a lane, in R209's order. -/
def laneCounters (x : LaneState) : List Nat := [x.cuesRefused, x.strayMarks, x.missedMarks, x.noRoom, x.synthetic]

/-- The two counters of a station, in R209's order. -/
def stationCounters (x : StationState) : List Nat := [x.staleReplies, x.timeouts]

/-- The thirty counters in R209's order. -/
def counters (s : State) : List Nat :=
  [s.north.crcErrors, s.north.fwdDrops, s.south.crcErrors, s.south.fwdDrops] ++
    [s.tracker.jumps, s.tracker.outOfRange, s.tracker.reverseDiscarded] ++ laneCounters s.laneA ++ laneCounters s.laneB ++
    stationCounters s.lam ++ stationCounters s.trimA ++ stationCounters s.trimB ++ stationCounters s.cutA ++
    stationCounters s.cutB ++ [s.web.unrecorded, s.mgmt.reportsLost, s.mgmt.requestsDropped]

/-- READ STATUS part 1, sixty bytes (R200). -/
def statusPart1 (s : State) : List Byte := (counters s).flatMap be16

/-! ## READ MAP (R201) -/

/-- The code of a next expected mark: 0 absent, 1 TAIL, 2 on for PITCH 0 on. -/
def nextMarkCode : Option NextMark → Nat
  | none => 0
  | some .tail => 1
  | some (.pitch i) => 2 + i

/-- The 31-byte entry of a segment. -/
def mapEntry (g : Segment) : List Byte :=
  [g.tag] ++ be16 g.ordinal ++ be32 g.pCue.toNat ++ be32 g.anchorP.toNat ++ be32 g.anchorX ++ be16i g.stretch ++
    be8 (nextMarkCode g.next) ++ be16 g.flags.toNat ++ be8 g.unfinished ++ be8 g.cutsDone ++ be8 g.cutsLate ++
    be8 g.cutsMissed ++ be16 g.lateness ++ be32 g.trimShort ++ [faultCodeByte g.faultCode]

/-- The segments a READ MAP returns: from the first index on, at most six. -/
def mapPage (first : Nat) (segs : List Segment) : List Segment := (segs.drop first).take 6

/-- The body of a READ MAP response. -/
def mapBody (l : Lane) (first : Nat) (segs : List Segment) : List Byte :=
  be8 (laneCode l) ++ be8 segs.length ++ be8 first ++ be8 (mapPage first segs).length ++ (mapPage first segs).flatMap mapEntry

/-! ## READ JOB (R202) -/

/-- The code of a slot's state. -/
def jobStateCode : JobState → Nat
  | .loaded => 1
  | .exhausted => 2

/-- The code of a lane field (section 9.2). -/
def laneSelectCode : LaneSelect → Nat
  | .a => 0
  | .b => 1
  | .any => 2

/-- The code of a zone mode (section 9.2). -/
def zoneModeCode : ZoneMode → Nat
  | .required => 1
  | .forbidden => 2

/-- The bytes of a list in a body area of `size` bytes that starts at offset `start`: the entries' bytes, then bytes of no
stated value (Config.unusedJobByte). -/
def padFrom (reads start size : Nat) (used : List Byte) : List Byte :=
  used ++ (List.range (size - used.length)).map (fun i => Config.unusedJobByte reads (start + used.length + i))

/-- The bytes of a zone in a body. -/
def zoneBytes (z : Zone) : List Byte := be32 z.x1 ++ be32 z.x2 ++ be8 (zoneModeCode z.mode)

/-- The trim field in a body. -/
def trimBytes (reads : Nat) : Option (Nat × Nat) → List Byte
  | some (n, f) => be8 1 ++ be16 n ++ be16 f
  | none => be8 0 ++ padFrom reads 81 4 []

/-- Bytes 1 to 146 of the job record body of a definition (section 9.2). -/
def jobBytes (reads : Nat) (d : JobDef) : List Byte :=
  [d.tag] ++ be8 (laneSelectCode d.lane) ++ be16 d.copies ++ be32 d.lNom ++ be8 (if d.tail then 1 else 0) ++
    be8 d.cuts.length ++ padFrom reads 11 32 (d.cuts.flatMap be32) ++
    be8 d.zones.length ++ padFrom reads 44 36 (d.zones.flatMap zoneBytes) ++ trimBytes reads d.trim ++
    be8 d.pitches.length ++ padFrom reads 86 60 (d.pitches.flatMap be32) ++ be8 (if d.notify then 1 else 0)

/-- The body of a READ JOB response (R202). -/
def jobReadBody (reads slot : Nat) (r : JobRecord) : List Byte :=
  be8 slot ++ be8 (jobStateCode r.state) ++ be16 r.remaining ++ be16 r.registered ++ be8 r.inUse ++ jobBytes reads r.defn

end Sys2Proof.Machine
end

