-- ==== Sys2Proof/Machine/Requests.lean ====
section
/-! DEFINITION. The requests of the line master: their answers by R197 and their governing rules, the room test and the RESP
(spec/10, sections 10.1 to 10.6). -/

namespace Sys2Proof.Machine

/-! ## Answers (R196, R197) -/

/-- The result of a request (section 9.2). -/
inductive ResultCode where
  | ok
  | badLen
  | badField
  | unknownRequest
  | wrongState
  | inUse
  | full
  | dupTag
  | notFound
deriving DecidableEq, Repr

/-- The code of a result (section 9.2). -/
def resultByte : ResultCode → Nat
  | .ok => 0
  | .badLen => 1
  | .badField => 2
  | .unknownRequest => 3
  | .wrongState => 4
  | .inUse => 5
  | .full => 6
  | .dupTag => 7
  | .notFound => 8

/-- What executing a request gives: the result, the field number, the response body, and the state it leaves. -/
structure Reply where
  result : ResultCode
  field : Nat
  body : List Byte
  state : State
deriving DecidableEq, Repr

/-- A request refused: no state changes and the response body is empty (R197). -/
def refuse (r : ResultCode) (s : State) : Reply := { result := r, field := 0, body := [], state := s }

/-- A request refused on a field (R197). -/
def badField (n : Nat) (s : State) : Reply := { result := .badField, field := n, body := [], state := s }

/-- A request accepted with an empty response body (R197). -/
def accept (s : State) : Reply := { result := .ok, field := 0, body := [], state := s }

/-- A request accepted with a response body. -/
def acceptWith (body : List Byte) (s : State) : Reply := { result := .ok, field := 0, body := body, state := s }

/-- Check 2 of R197: the body's length. -/
def sized (n : Nat) (body : List Byte) (s : State) (k : Reply) : Reply := if body.length = n then k else refuse .badLen s

/-- Check 3 of R197: the body's fields. -/
def validated (checks : List (Nat × Bool)) (s : State) (k : Reply) : Reply :=
  match firstFailing checks with
  | some n => badField n s
  | none => k

/-- A request that names a lane in field 0 (R197). -/
def onLane (body : List Byte) (s : State) (k : Lane → Reply) : Reply :=
  match laneOfCode (byteAt body 0) with
  | some l => k l
  | none => badField 0 s

/-- A request that names a station in field 0 (R96, R120). -/
def onStation (body : List Byte) (s : State) (k : Station → Reply) : Reply :=
  match stationOf (byteAt body 0) with
  | some st => k st
  | none => badField 0 s

/-! ## Job Table (R12 to R14) -/

/-- The record a WRITE JOB installs (R12). -/
def freshRecord (d : JobDef) : JobRecord :=
  { defn := d, state := .loaded, remaining := d.copies, registered := 0, inUse := 0 }

/-- A slot's content replaced. -/
def putSlot (i : Nat) (r : Option JobRecord) (s : State) : State := { s with jobs := s.jobs.set i r }

/-- The in-use count of a slot's record, 0 for an EMPTY slot. -/
def inUseAt (i : Nat) (s : State) : Nat :=
  match s.slot i with
  | some r => r.inUse
  | none => 0

/-- The write mode of a WRITE JOB: 1 NEW, 2 REPLACE, 3 ANY. -/
def writeMode (body : List Byte) : Nat := byteAt body 0

/-- The placement of a valid WRITE JOB (R12). -/
def placeJob (mode : Nat) (d : JobDef) (s : State) : Reply :=
  match s.holding d.tag with
  | some i =>
      if mode = 1 then refuse .dupTag s
      else if 0 < inUseAt i s then refuse .inUse s
      else accept (putSlot i (some (freshRecord d)) s)
  | none =>
      if mode = 2 then refuse .notFound s
      else
        match emptyFrom 0 s.jobs with
        | some i => accept (putSlot i (some (freshRecord d)) s)
        | none => refuse .full s

/-- WRITE JOB (R10 to R12). -/
def writeJobReply (body : List Byte) (s : State) : Reply :=
  sized 147 body s (validated (jobChecks body) s (placeJob (writeMode body) (bodyJob body) s))

/-- DELETE JOB (R13). -/
def deleteJobReply (body : List Byte) (s : State) : Reply :=
  sized 1 body s
    (match s.holding (body.getD 0 0#8) with
    | some i => if 0 < inUseAt i s then refuse .inUse s else accept (putSlot i none s)
    | none => refuse .notFound s)

/-- READ JOB (R14, R202). Every answer makes a fresh choice of the bytes that hold no part of the definition. -/
def readJobReply (body : List Byte) (s : State) : Reply :=
  sized 1 body s
    (match s.holding (body.getD 0 0#8) with
    | some i =>
        match s.slot i with
        | some r => acceptWith (jobReadBody s.jobReads i r) { s with jobReads := s.jobReads + 1 }
        | none => refuse .notFound s
    | none => refuse .notFound s)

/-! ## Stations (R96, R97, R120) -/

/-- The station's queue holds an action; for LAM, the zone list holds an entry (R96, step 2). -/
def queueBusy (st : Station) (s : State) : Bool :=
  match st with
  | .lam => !s.nip.zones.isEmpty
  | .trimA => !s.laneA.trimQueue.isEmpty
  | .trimB => !s.laneB.trimQueue.isEmpty
  | .cutA => !s.laneA.cutQueue.isEmpty
  | .cutB => !s.laneB.cutQueue.isEmpty

/-- The state a station has after an accepted WRITE STATION (R97). -/
def modeAfterWrite (enabled : Bool) (mode : StationMode) : StationMode :=
  if enabled then (if mode = .faulted then .faulted else .ready) else .offline

/-- The record and the state of a station after an accepted WRITE STATION (R96, R97). -/
def takeRecord (r : StationRecord) (x : StationState) : StationState :=
  { x with record := some r, mode := modeAfterWrite r.enabled x.mode }

/-- An accepted WRITE STATION: for LAM the plan is recomputed (R131), and entry to READY is an issue test (R97, R103). -/
def installStation (st : Station) (r : StationRecord) (s : State) : State :=
  let s1 := s.modStation st (takeRecord r)
  if st = .lam then nipChange s1
  else if (s.station st).mode ≠ .ready ∧ (s1.station st).mode = .ready then issueTest st s1
  else s1

/-- WRITE STATION (R96). -/
def writeStationReply (body : List Byte) (s : State) : Reply :=
  sized 46 body s
    (onStation body s (fun st =>
      validated (stationChecks st body s) s
        (if (s.station st).outstanding.isSome || queueBusy st s then refuse .inUse s
        else accept (installStation st (bodyStation st body) s))))

/-- CLEAR STATION (R120). -/
def clearStationReply (body : List Byte) (s : State) : Reply :=
  sized 1 body s (onStation body s (fun st => accept (clearStation st s)))

/-! ## Lanes and line setup (R70 to R74, R198) -/

/-- WRITE LANE (R70). -/
def writeLaneReply (body : List Byte) (s : State) : Reply :=
  sized 8 body s
    (validated (laneChecks body) s
      (onLane body s (fun l =>
        if (s.lane l).mode = .disabled then accept (s.modLane l (fun x => { x with record := bodyLane body }))
        else refuse .wrongState s)))

/-- The line setup record replaced; a reverse debt above the new limit becomes the limit (R22, R198). -/
def installLine (x : LineSetup) (s : State) : State :=
  { s with setup := x, tracker := { s.tracker with debt := min s.tracker.debt x.revLimit } }

/-- WRITE LINE (R198). -/
def writeLineReply (body : List Byte) (s : State) : Reply :=
  sized 34 body s
    (validated (lineChecks body) s
      (if s.laneA.mode = .disabled ∧ s.laneB.mode = .disabled then accept (installLine (bodyLine body) s)
      else refuse .wrongState s))

/-- Two stations, both configured, lie in web order (R71). -/
def inOrder (x y : StationState) : Bool :=
  !(x.configured && y.configured) || decide ((recordOr x).dist < (recordOr y).dist)

/-- The conditions of LANE START in DISABLED (R71). -/
def startAllowed (l : Lane) (s : State) : Bool :=
  let trim := s.station (trimmerOf l)
  let cut := s.station (cutterOf l)
  decide (s.nodeAddr ≠ 0#8) && cut.configured && inOrder s.lam trim && inOrder s.lam cut && inOrder trim cut &&
    decide (s.tracker.mode ≠ .lost)

/-- An accepted LANE START at the Nip Planner: the release request where the commanded state is UNKNOWN, and the
recomputation (R131, R137). -/
def nipStart (s : State) : State :=
  nipChange
    (if s.nip.commanded = .unknown then { s with nip := { s.nip with releaseRequest := true } } else s)

/-- LANE START (R71). -/
def laneStartReply (body : List Byte) (s : State) : Reply :=
  sized 1 body s
    (onLane body s (fun l =>
      match (s.lane l).mode with
      | .disabled =>
          if startAllowed l s then accept (nipStart (s.modLane l (fun x => { x with mode := .running })))
          else refuse .wrongState s
      | .running => accept s
      | .draining => refuse .wrongState s))

/-- LANE DRAIN (R72, R74). -/
def laneDrainReply (body : List Byte) (s : State) : Reply :=
  sized 1 body s
    (onLane body s (fun l =>
      match (s.lane l).mode with
      | .running => accept (drainTest l (s.modLane l (fun x => { x with mode := .draining })))
      | .draining => accept s
      | .disabled => refuse .wrongState s))

/-- A lane stopped: its segments spoiled, the lane DISABLED, and the planning changes this makes at its stations and at LAM
(R73, R91, R101, R137). -/
def stopLane (l : Lane) (s : State) : State :=
  let s1 := disableLane l (spoilLane l .stop s)
  nipChangeIf (decide (s1.nip.zones ≠ s.nip.zones)) (issueTest (trimmerOf l) (issueTest (cutterOf l) s1))

/-- LANE STOP (R73). -/
def laneStopReply (body : List Byte) (s : State) : Reply :=
  sized 1 body s (onLane body s (fun l => accept (stopLane l s)))

/-! ## Tracker and marks (R37, R51, R199) -/

/-- CLEAR LOST (R37). -/
def clearLostReply (body : List Byte) (s : State) : Reply :=
  sized 0 body s
    (if s.tracker.mode = .lost then accept { s with tracker := clearLostTracker s.tracker } else refuse .wrongState s)

/-- The web position of a synthetic mark: given, or P now (R51). -/
def injectPos (body : List Byte) (s : State) : Word32 :=
  if byteAt body 3 = 0 then BitVec.ofNat 32 (field32 body 4) else s.tracker.p

/-- The synthetic-marks counter of a lane increments. -/
def bumpSynthetic (l : Lane) (s : State) : State := s.modLane l (fun x => { x with synthetic := bump x.synthetic })

/-- INJECT MARK (R51, R199). -/
def injectMarkReply (body : List Byte) (s : State) : Reply :=
  sized 8 body s
    (validated (injectChecks body) s
      (match laneOfCode (byteAt body 0), shapeOfCode (byteAt body 1) with
      | some l, some shape => accept (takeMark l shape (body.getD 2 0#8) (injectPos body s) (bumpSynthetic l s))
      | some _, none => badField 1 s
      | none, _ => badField 0 s))

/-! ## Reading, flags and counters (R200, R201, R204, R209) -/

/-- READ STATUS (R200). -/
def readStatusReply (body : List Byte) (s : State) : Reply :=
  sized 1 body s
    (if byteAt body 0 = 0 then acceptWith (statusPart0 s) s
    else if byteAt body 0 = 1 then acceptWith (statusPart1 s) s
    else badField 1 s)

/-- READ MAP (R201). -/
def readMapReply (body : List Byte) (s : State) : Reply :=
  sized 2 body s
    (onLane body s (fun l =>
      if byteAt body 1 ≤ 15 then acceptWith (mapBody l (byteAt body 1) (s.lane l).segs) s else badField 1 s))

/-- The flag mask a body carries; bits 14 and 15 are ignored (R204). -/
def flagMask (body : List Byte) : BitVec 14 := BitVec.ofNat 14 (field16 body 0)

/-- CLEAR FLAGS (R204). -/
def clearFlagsReply (body : List Byte) (s : State) : Reply :=
  sized 2 body s (accept { s with mgmt := { s.mgmt with flags := s.mgmt.flags &&& ~~~(flagMask body) } })

/-- SET ATTN MASK (R204). -/
def setAttnMaskReply (body : List Byte) (s : State) : Reply :=
  sized 2 body s (accept { s with mgmt := { s.mgmt with mask := flagMask body } })

/-- A lane with its five counters at 0. -/
def LaneState.zeroed (x : LaneState) : LaneState :=
  { x with cuesRefused := 0, strayMarks := 0, missedMarks := 0, noRoom := 0, synthetic := 0 }

/-- A station with its two counters at 0. -/
def StationState.zeroed (x : StationState) : StationState := { x with staleReplies := 0, timeouts := 0 }

/-- All thirty counters at 0 (R209). -/
def zeroCounters (s : State) : State :=
  { s with
    north := { s.north with crcErrors := 0, fwdDrops := 0 }
    south := { s.south with crcErrors := 0, fwdDrops := 0 }
    tracker := { s.tracker with jumps := 0, outOfRange := 0, reverseDiscarded := 0 }
    laneA := s.laneA.zeroed, laneB := s.laneB.zeroed
    lam := s.lam.zeroed, trimA := s.trimA.zeroed, trimB := s.trimB.zeroed, cutA := s.cutA.zeroed, cutB := s.cutB.zeroed
    web := { s.web with unrecorded := 0 }
    mgmt := { s.mgmt with reportsLost := 0, requestsDropped := 0 } }

/-- CLEAR COUNTERS (R209). -/
def clearCountersReply (body : List Byte) (s : State) : Reply := sized 0 body s (accept (zeroCounters s))

/-! ## The room test and the RESP (R196) -/

/-- The RESP frame of a reply (R196). -/
def respFrame (code token : Byte) (r : Reply) (s : State) : Frame :=
  ownFrame kindResp ([code, token] ++ be8 (resultByte r.result) ++ be8 r.field ++ r.body) s

/-- A request is executed and its RESP placed in the same event (R196). -/
def answer (code token : Byte) (r : Reply) : State := placeOwn (respFrame code token r r.state) r.state

/-- A request that finds no free place (R196). -/
def dropRequest (s : State) : State :=
  { s with mgmt := { s.mgmt with requestsDropped := bump s.mgmt.requestsDropped } }

/-- A unicast request of this code, answered by `reply` where a place is free: one whole event (R196, R208). -/
def serve (code token : Byte) (reply : State → Reply) (s : State) : State :=
  finish (if ownRoom s = 0 then dropRequest s else answer code token (reply s))

/-! ## LINE RESET (R210) -/

/-- The check of a LINE RESET: its length and its KEEP_TABLES (R197, R210). -/
def lineResetReply (body : List Byte) (s : State) : Reply :=
  sized 1 body s (if byteAt body 0 ≤ 1 then accept s else badField 1 s)

/-- The KEEP_TABLES choice of a valid LINE RESET. -/
def keepTables (body : List Byte) : Bool := decide (byteAt body 0 = 1)

/-- A unicast LINE RESET with a free place: its RESP, then, where it is valid, the warm reset (R210). -/
def answerReset (token : Byte) (body : List Byte) (s : State) : State :=
  let r := lineResetReply body s
  if r.result = .ok then warmReset (keepTables body) true (answer 0x60#8 token r) else answer 0x60#8 token r

/-- A unicast LINE RESET (R196, R210). -/
def serveReset (token : Byte) (body : List Byte) (s : State) : State :=
  finish (if ownRoom s = 0 then dropRequest s else answerReset token body s)

/-- A broadcast LINE RESET: no room test, no RESP, and nothing where it is invalid (R196, R210). -/
def broadcastReset (body : List Byte) (s : State) : State :=
  if (lineResetReply body s).result = .ok then warmReset (keepTables body) false s else s

/-! ## Requests by their codes (R197) -/

/-- The answer to a request of this code other than LINE RESET; a code not in R197's table is UNKNOWN_REQUEST. -/
def replyTo (code : Byte) (body : List Byte) (s : State) : Reply :=
  match code.toNat with
  | 0x01 => writeJobReply body s
  | 0x02 => deleteJobReply body s
  | 0x03 => readJobReply body s
  | 0x10 => writeStationReply body s
  | 0x11 => writeLaneReply body s
  | 0x12 => writeLineReply body s
  | 0x20 => laneStartReply body s
  | 0x21 => laneDrainReply body s
  | 0x22 => laneStopReply body s
  | 0x30 => clearStationReply body s
  | 0x31 => clearLostReply body s
  | 0x32 => injectMarkReply body s
  | 0x40 => readStatusReply body s
  | 0x41 => readMapReply body s
  | 0x50 => clearFlagsReply body s
  | 0x51 => setAttnMaskReply body s
  | 0x52 => clearCountersReply body s
  | _ => refuse .unknownRequest s

/-- A unicast request as a frame carries it (R186, R196, R197). -/
def serveCode (code token : Byte) (body : List Byte) (s : State) : State :=
  if code = 0x60#8 then serveReset token body s else serve code token (replyTo code body) s

end Sys2Proof.Machine
end

