-- ==== Sys2Proof/Machine/Frames.lean ====
section
/-! DEFINITION. Received frames: the checks at reception, enumeration, routing, and the check and dispatch of watched and
consumed frames (spec/09, sections 9.1 to 9.4). -/

namespace Sys2Proof.Machine

/-! ## Reception (R180) -/

/-- A frame read from the bytes a port took, DST to CHK; none where R180 drops it. -/
def readFrame (bytes : List Byte) : Option Frame :=
  let n := byteAt bytes 3
  if bytes.length < 6 ∨ 200 < n ∨ bytes.length ≠ 6 + n then none
  else if (crc16 (bytes.take (4 + n))).toNat = field16 bytes (4 + n) then
    some { dst := bytes.getD 0 0#8, src := bytes.getD 1 0#8, kind := bytes.getD 2 0#8,
           payload := (bytes.drop 4).take n }
  else none

/-! ## Enumeration (R182) -/

/-- An ENUM frame at the north port (R182). -/
def enumerate (f : Frame) (s : State) : State :=
  if f.payload.length ≠ 1 then forwardSouth f s
  else
    let next := f.payload.headD 0#8
    if 1 ≤ next.toNat ∧ next.toNat ≤ 62 then
      forwardSouth { f with payload := [next + 1#8] } { s with nodeAddr := next }
    else forwardSouth f { s with nodeAddr := 0#8 }

/-! ## Dispatch (R186) -/

/-- The media class of a code (section 9.2). -/
def mediaOfCode (n : Nat) : Option MediaClass :=
  match n with
  | 1 => some .paper
  | 2 => some .vinyl
  | 3 => some .mesh
  | 4 => some .fabric
  | 5 => some .film
  | _ => none

/-- A coded yes or no (section 9.2). -/
def flagOfCode (n : Nat) : Option Bool :=
  match n with
  | 0 => some false
  | 1 => some true
  | _ => none

/-- The nip sensor state of a code (section 9.2). -/
def sensorOfCode (n : Nat) : Option NipSensor :=
  match n with
  | 0 => some .opened
  | 1 => some .closed
  | _ => none

/-- A four-byte field as a 32-bit quantity. -/
def word32 (payload : List Byte) (i : Nat) : Word32 := BitVec.ofNat 32 (field32 payload i)

/-- A two-byte field as a 16-bit quantity. -/
def word16 (payload : List Byte) (i : Nat) : BitVec 16 := BitVec.ofNat 16 (field16 payload i)

/-- A dispatched POS frame: one event at the tracker and one at the Web Event Unit, in an order the spec leaves open (R164). -/
def dispatchPos (p : List Byte) (s : State) : State :=
  let flags := byteAt p 8
  let sample := fun x => finish (takeSample (word32 p 0) (word32 p 4) x)
  let unit := fun x => finish (takeFlags (flags.testBit 0) (flags.testBit 1) x)
  if s.turn.unitFirst then sample (unit s.dropTurn) else unit (sample s.dropTurn)

/-- A dispatched MARK frame, where its coded fields are defined (R186). -/
def dispatchMark (p : List Byte) (s : State) : State :=
  match laneOfCode (byteAt p 0), shapeOfCode (byteAt p 1) with
  | some l, some shape => finish (convertMark l shape (p.getD 2 0#8) (word32 p 3) s)
  | some _, none => s
  | none, _ => s

/-- A dispatched ROLL frame, where its coded fields are defined and its width is in range (R165, R186). -/
def dispatchRoll (p : List Byte) (s : State) : State :=
  match mediaOfCode (byteAt p 0), flagOfCode (byteAt p 7) with
  | some media, some laminate =>
      if inRange 1 32000 (field16 p 1) then
        finish (takeRoll media (word16 p 1) (word16 p 3) (word16 p 5) laminate s)
      else s
  | some _, none => s
  | none, _ => s

/-- A watched frame: POS, MARK or ROLL (R185). -/
def isWatched (f : Frame) : Bool := decide (f.kind = kindPos) || decide (f.kind = kindMark) || decide (f.kind = kindRoll)

/-- A watched frame checked against its kind's LEN and handed on (R186). -/
def dispatchWatched (f : Frame) (s : State) : State :=
  if f.kind = kindPos then (if f.payload.length = 9 then dispatchPos f.payload s else s)
  else if f.kind = kindMark then (if f.payload.length = 7 then dispatchMark f.payload s else s)
  else if f.payload.length = 8 then dispatchRoll f.payload s
  else s

/-- A consumed STATUS frame (R186). -/
def dispatchStatus (f : Frame) (s : State) : State :=
  match sensorOfCode (byteAt f.payload 1) with
  | some x => if f.payload.length = 2 then finish (takeStatus f.src (f.payload.getD 0 0#8) x s) else s
  | none => s

/-- A frame consumed at the south port by its kind: STATUS, ACT_DONE or ACT_FAULT (R185). -/
def isConsumed (f : Frame) : Bool :=
  decide (f.kind = kindStatus) || decide (f.kind = kindActDone) || decide (f.kind = kindActFault)

/-- A consumed frame checked against its kind's LEN and handed on (R186). -/
def dispatchConsumed (f : Frame) (s : State) : State :=
  if f.kind = kindStatus then dispatchStatus f s
  else if f.kind = kindActDone then
    (if f.payload.length = 2 then finish (takeReply f.src (word16 f.payload 0) none s) else s)
  else if f.payload.length = 3 then finish (takeReply f.src (word16 f.payload 0) (some (f.payload.getD 2 0#8)) s)
  else s

/-! ## Routing (R184, R185) -/

/-- A REQ whose request code is LINE RESET. -/
def isLineReset (f : Frame) : Bool :=
  decide (f.kind = kindReq) && decide (f.payload.length ≠ 0) && decide (f.payload.headD 0#8 = 0x60#8)

/-- A frame consumed at the north port: a REQ of LEN 2 or more is the unit's, any other is discarded (R184, R186). -/
def consumeNorth (f : Frame) (s : State) : State :=
  if f.kind = kindReq ∧ 2 ≤ f.payload.length then
    serveCode (f.payload.getD 0 0#8) (f.payload.getD 1 0#8) (f.payload.drop 2) s
  else s

/-- A broadcast LINE RESET: acted on where its LEN and body are valid, then forwarded south (R184, R195, R210). -/
def broadcastNorth (f : Frame) (s : State) : State :=
  finish (forwardSouth f (if 2 ≤ f.payload.length then broadcastReset (f.payload.drop 2) s else s))

/-- A frame received at the north port (R182, R184). -/
def routeNorth (f : Frame) (s : State) : State :=
  if f.kind = kindEnum then finish (enumerate f s)
  else if f.dst = s.nodeAddr then consumeNorth f s
  else if f.dst = 63#8 ∧ isLineReset f = true then broadcastNorth f s
  else finish (forwardSouth f s)

/-- A consumed frame is addressed to the part (R185). -/
def addressedHere (f : Frame) (s : State) : Bool :=
  decide (f.dst = s.nodeAddr) && decide (1 ≤ s.nodeAddr.toNat) && decide (s.nodeAddr.toNat ≤ 62)

/-- A frame received at the south port (R185). A watched frame is forwarded before it is dispatched: R185 asks for no order, and a
flag, an ATTN frame and the frame that starts on an idle north port depend on it (notes/assumptions/41.md, DESIGN CHOICE). -/
def routeSouth (f : Frame) (s : State) : State :=
  if isWatched f then dispatchWatched f (finish (forwardNorth f s))
  else if isConsumed f && addressedHere f s then dispatchConsumed f s
  else finish (forwardNorth f s)

/-- A frame whose line has returned to idle at a port (R180). -/
def arrive (p : Port) (bytes : List Byte) (s : State) : State :=
  match readFrame bytes with
  | none => finish (crcError p s)
  | some f =>
      match p with
      | .north => routeNorth f s
      | .south => routeSouth f s

/-- The link state of a port (R179). -/
def portUp (p : Port) (s : State) : Bool :=
  match p with
  | .north => s.north.up
  | .south => s.south.up

/-! ## Link state changes and the end of a transmission (R179, R189, R190) -/

/-- 1 for a frame in transmission, 0 for none. -/
def txCount (tx : Option Frame) : Nat := if tx.isSome then 1 else 0

/-- The north port loses its line: its queues are emptied, the frame in transmission is abandoned, and each is a forward drop
(R179). -/
def downNorth (s : State) : State :=
  let p := s.north
  dropNorth (p.fwd.length + p.own.length + txCount p.tx)
    { s with north := { p with up := false, tx := none, fwd := [], own := [] } }

/-- The south port loses its line (R179). -/
def downSouth (s : State) : State :=
  let p := s.south
  dropSouth (p.urgent.length + p.fwd.length + txCount p.tx)
    { s with south := { p with up := false, tx := none, urgent := [], fwd := [] } }

/-- A port loses its line; a frame part-way through reception is a CRC error (R179, R180). -/
def goDown (p : Port) (receiving : Bool) (s : State) : State :=
  let s1 := match p with
    | .north => downNorth s
    | .south => downSouth s
  if receiving then crcError p s1 else s1

/-- A port finds its line again (R179). -/
def goUp (p : Port) (s : State) : State :=
  match p with
  | .north => { s with north := { s.north with up := true } }
  | .south => { s with south := { s.south with up := true } }

/-- The end of a transmission: the transmitter is free and the port's arbiter chooses (R189, R190). -/
def endTransmission (p : Port) (s : State) : State :=
  match p with
  | .north => if s.north.tx.isSome then { s with north := { s.north with tx := none }.start } else s
  | .south => if s.south.tx.isSome then { s with south := { s.south with tx := none }.start } else s

end Sys2Proof.Machine
end

