-- ==== Sys2Proof/Machine/LinkEvents.lean ====
section
/-! DEFINITION. The meanings of the link's commands and of the cold reset (R179, R180, R182, R189, R190, R211). -/

namespace Sys2Proof.Machine

/-- COLD_RESET (R211; R19, R44, R68, R93, R123, R146, R160, R162, R194). -/
def execColdReset (s : State) : Host.Outcome State Fault Refusal := .next (coldState s)

/-- PORT_DOWN (R179): a change from UP to DOWN; a port already DOWN does not change. -/
def execPortDown (p : Port) (receiving : Bool) (s : State) : Host.Outcome State Fault Refusal :=
  .next (if portUp p s then finish (goDown p receiving s) else s)

/-- PORT_UP (R179, R208): a change from DOWN to UP; a port already UP does not change. -/
def execPortUp (p : Port) (s : State) : Host.Outcome State Fault Refusal :=
  .next (if portUp p s then s else finish (goUp p s))

/-- FRAME_RECEIVED (R180): a port that is DOWN receives nothing (R179). -/
def execFrameReceived (p : Port) (bytes : List Byte) (s : State) : Host.Outcome State Fault Refusal :=
  .next (if portUp p s then arrive p bytes s else s)

/-- TRANSMISSION_END (R189, R190, R208). -/
def execTransmissionEnd (p : Port) (s : State) : Host.Outcome State Fault Refusal := .next (finish (endTransmission p s))

/-- ENUM (R182) at the north port, which receives nothing while DOWN (R179). -/
def execEnum (dst src : Byte) (payload : List Byte) (s : State) : Host.Outcome State Fault Refusal :=
  .next (if s.north.up then finish (enumerate { dst := dst, src := src, kind := kindEnum, payload := payload } s) else s)

end Sys2Proof.Machine
end

