-- ==== Sys2Proof/Machine/RequestEvents.lean ====
section
/-! DEFINITION. The meanings of the request commands: each is one whole event at the Management and Reporting Unit (R196). -/

namespace Sys2Proof.Machine

/-- WRITE_JOB (R10 to R12). -/
def execWriteJob (token : Byte) (body : List Byte) (s : State) : Host.Outcome State Fault Refusal :=
  .next (serve 0x01#8 token (writeJobReply body) s)

/-- DELETE_JOB (R13). -/
def execDeleteJob (token : Byte) (body : List Byte) (s : State) : Host.Outcome State Fault Refusal :=
  .next (serve 0x02#8 token (deleteJobReply body) s)

/-- READ_JOB (R14, R202). -/
def execReadJob (token : Byte) (body : List Byte) (s : State) : Host.Outcome State Fault Refusal :=
  .next (serve 0x03#8 token (readJobReply body) s)

/-- WRITE_STATION (R96, R97). -/
def execWriteStation (token : Byte) (body : List Byte) (s : State) : Host.Outcome State Fault Refusal :=
  .next (serve 0x10#8 token (writeStationReply body) s)

/-- WRITE_LANE (R70). -/
def execWriteLane (token : Byte) (body : List Byte) (s : State) : Host.Outcome State Fault Refusal :=
  .next (serve 0x11#8 token (writeLaneReply body) s)

/-- WRITE_LINE (R198). -/
def execWriteLine (token : Byte) (body : List Byte) (s : State) : Host.Outcome State Fault Refusal :=
  .next (serve 0x12#8 token (writeLineReply body) s)

/-- LANE_START (R71). -/
def execLaneStart (token : Byte) (body : List Byte) (s : State) : Host.Outcome State Fault Refusal :=
  .next (serve 0x20#8 token (laneStartReply body) s)

/-- LANE_DRAIN (R72). -/
def execLaneDrain (token : Byte) (body : List Byte) (s : State) : Host.Outcome State Fault Refusal :=
  .next (serve 0x21#8 token (laneDrainReply body) s)

/-- LANE_STOP (R73). -/
def execLaneStop (token : Byte) (body : List Byte) (s : State) : Host.Outcome State Fault Refusal :=
  .next (serve 0x22#8 token (laneStopReply body) s)

/-- CLEAR_STATION (R120). -/
def execClearStation (token : Byte) (body : List Byte) (s : State) : Host.Outcome State Fault Refusal :=
  .next (serve 0x30#8 token (clearStationReply body) s)

/-- CLEAR_LOST (R37). -/
def execClearLost (token : Byte) (body : List Byte) (s : State) : Host.Outcome State Fault Refusal :=
  .next (serve 0x31#8 token (clearLostReply body) s)

/-- INJECT_MARK (R51, R199). -/
def execInjectMark (token : Byte) (body : List Byte) (s : State) : Host.Outcome State Fault Refusal :=
  .next (serve 0x32#8 token (injectMarkReply body) s)

/-- READ_STATUS (R200). -/
def execReadStatus (token : Byte) (body : List Byte) (s : State) : Host.Outcome State Fault Refusal :=
  .next (serve 0x40#8 token (readStatusReply body) s)

/-- READ_MAP (R201). -/
def execReadMap (token : Byte) (body : List Byte) (s : State) : Host.Outcome State Fault Refusal :=
  .next (serve 0x41#8 token (readMapReply body) s)

/-- CLEAR_FLAGS (R204). -/
def execClearFlags (token : Byte) (body : List Byte) (s : State) : Host.Outcome State Fault Refusal :=
  .next (serve 0x50#8 token (clearFlagsReply body) s)

/-- SET_ATTN_MASK (R204). -/
def execSetAttnMask (token : Byte) (body : List Byte) (s : State) : Host.Outcome State Fault Refusal :=
  .next (serve 0x51#8 token (setAttnMaskReply body) s)

/-- CLEAR_COUNTERS (R209). -/
def execClearCounters (token : Byte) (body : List Byte) (s : State) : Host.Outcome State Fault Refusal :=
  .next (serve 0x52#8 token (clearCountersReply body) s)

/-- LINE_RESET (R210), unicast or broadcast. The forwarded copy of a broadcast is its frame's (R184, R195). -/
def execLineReset (broadcast : Bool) (token : Byte) (body : List Byte) (s : State) : Host.Outcome State Fault Refusal :=
  .next (if broadcast then finish (broadcastReset body s) else serveReset token body s)

/-- UNKNOWN_REQUEST (R197): any code as received; a code of R197's table names that request. -/
def execUnknownRequest (code token : Byte) (body : List Byte) (s : State) : Host.Outcome State Fault Refusal :=
  .next (serveCode code token body s)

end Sys2Proof.Machine
end

