-- ==== Sys2Proof/Machine/SensorEvents.lean ====
section
/-! DEFINITION. The meanings of the dispatched sensor, status and reply frames at the blocks that take them (R186). -/

namespace Sys2Proof.Machine

/-- POS_SAMPLE (R23). -/
def execPosSample (count stamp : Word32) (s : State) : Host.Outcome State Fault Refusal :=
  .next (finish (takeSample count stamp s))

/-- POS_SAMPLE_FLAGS (R164). -/
def execPosSampleFlags (present splice : Bool) (s : State) : Host.Outcome State Fault Refusal :=
  .next (finish (takeFlags present splice s))

/-- MARK_CONVERSION (R40). -/
def execMarkConversion (l : Lane) (shape : MarkShape) (tag : Byte) (count : Word32) (s : State) :
    Host.Outcome State Fault Refusal :=
  .next (finish (convertMark l shape tag count s))

/-- ROLL_DESCRIPTOR (R166): a descriptor whose width is out of range is not dispatched (R165, R186). -/
def execRollDescriptor (media : MediaClass) (width thickness stretch : BitVec 16) (laminate : Bool) (s : State) :
    Host.Outcome State Fault Refusal :=
  .next (if inRange 1 32000 width.toNat then finish (takeRoll media width thickness stretch laminate s) else s)

/-- STATUS (R141). -/
def execStatus (src raw : Byte) (sensor : NipSensor) (s : State) : Host.Outcome State Fault Refusal :=
  .next (finish (takeStatus src raw sensor s))

/-- ACT_DONE (R113, R114). -/
def execActDone (src : Byte) (id : BitVec 16) (s : State) : Host.Outcome State Fault Refusal :=
  .next (finish (takeReply src id none s))

/-- ACT_FAULT (R113, R115). -/
def execActFault (src : Byte) (id : BitVec 16) (code : Byte) (s : State) : Host.Outcome State Fault Refusal :=
  .next (finish (takeReply src id (some code) s))

end Sys2Proof.Machine
end

