-- ==== Sys2Proof/Machine/TimerEvents.lean ====
section
/-! DEFINITION. The meanings of the timer commands, and the 1 ms tick of the internal timebase that the block takes while no
command waits (R30, R31, R116, R141). -/

namespace Sys2Proof.Machine

/-! ## When an expiry is due (notes/assumptions/6.md)

A timeout or the validity timer with 1 ms left is in its last millisecond: the tick that ends it is the expiry (R116, R141). The
sample timer runs out in a tick, and its expiry may be taken within that tick or after it (R30, R39). -/

/-- A running timer is in its last millisecond. -/
def lastMs (n : Nat) : Bool := decide (n ≤ 1)

/-- The sample timer has run out: its length is over and its expiry, an event of its own, is still to be taken. A sample taken
first restarts the timer and leaves no expiry (R30, R39; notes/assumptions/46.md). -/
def sampleDue (s : State) : Bool := decide (s.tracker.sampleTimer = some 0)

/-- The next tick brings the estimate time to 1,000 ms (R31). -/
def estimateDue (s : State) : Bool := decide (999 ≤ s.tracker.estTime)

/-- The timeout of a station's outstanding action is in its last millisecond (R116). -/
def timeoutDue (st : Station) (s : State) : Bool :=
  match (s.station st).outstanding with
  | some i => lastMs i.timeout
  | none => false

/-- The validity timer is in its last millisecond (R141). -/
def validityDue (s : State) : Bool :=
  match s.nip.validity with
  | some n => lastMs n
  | none => false

/-- An expiry that is due is taken; one that is not has no effect. -/
def takeIf (due : Bool) (expiry : State → State) (s : State) : State := if due then expiry s else s

/-! ## The commands -/

/-- SAMPLE_TIMER_EXPIRY (R30, R39). -/
def execSampleTimerExpiry (s : State) : Host.Outcome State Fault Refusal :=
  .next (finish (takeIf (sampleDue s) sampleExpiry s))

/-- ESTIMATE_TICK (R31). -/
def execEstimateTick (s : State) : Host.Outcome State Fault Refusal := .next (finish (estimateTick s))

/-- ESTIMATE_TIME_EXPIRY (R31). -/
def execEstimateTimeExpiry (s : State) : Host.Outcome State Fault Refusal :=
  .next (finish (takeIf (estimateDue s) estimateExpiry s))

/-- ACT_TIMEOUT_EXPIRY (R116). -/
def execActTimeoutExpiry (st : Station) (s : State) : Host.Outcome State Fault Refusal :=
  .next (finish (takeIf (timeoutDue st s) (timeoutExpiry st) s))

/-- VALIDITY_TIMER_EXPIRY (R141). -/
def execValidityTimerExpiry (s : State) : Host.Outcome State Fault Refusal :=
  .next (finish (takeIf (validityDue s) validityExpiry s))

/-! ## The tick (notes/assumptions/4.md) -/

/-- The tracker's part of a tick: the running sample timer (R30), or the estimate in ESTIMATED (R31). Where the tick runs the timer
out, its expiry is taken at once, or left to be taken next (notes/assumptions/46.md). -/
def tickPosition (atOnce : Bool) (s : State) : State :=
  match s.tracker.sampleTimer with
  | some n =>
      if lastMs n ∧ atOnce = true then sampleExpiry s
      else { s with tracker := { s.tracker with sampleTimer := some (n - 1) } }
  | none => estimateTick s

/-- A station's part of a tick: the timeout of its outstanding action (R116). -/
def tickStation (st : Station) (s : State) : State :=
  match (s.station st).outstanding with
  | some i =>
      if lastMs i.timeout then timeoutExpiry st s
      else s.modStation st (fun x => { x with outstanding := some { i with timeout := i.timeout - 1 } })
  | none => s

/-- The Nip Planner's part of a tick: the validity timer (R141). -/
def tickValidity (s : State) : State :=
  match s.nip.validity with
  | some n => if lastMs n then validityExpiry s else { s with nip := { s.nip with validity := some (n - 1) } }
  | none => s

/-- A timer takes a tick, as an event of its own. -/
def runTick (atOnce : Bool) (t : TickTaker) (s : State) : State :=
  match t with
  | .tracker => finish (tickPosition atOnce s)
  | .station st => finish (tickStation st s)
  | .validity => finish (tickValidity s)

/-- The timers that take a tick. -/
def allTicks : List TickTaker :=
  [.tracker, .station .lam, .station .trimA, .station .trimB, .station .cutA, .station .cutB, .validity]

/-- One 1 ms tick: every timer takes it, in an order the spec leaves open. -/
def tick (s : State) : State :=
  (arrange s.turn.ticks allTicks).foldl (fun acc t => runTick s.turn.expiryAtOnce t acc) s.dropTurn

/-- What happens while no command waits: the expiry of a sample timer that has run out (R30), else a tick
(notes/assumptions/4.md and 46.md). -/
def idle (s : State) : State := if sampleDue s = true then finish (sampleExpiry s) else tick s

end Sys2Proof.Machine
end

