-- ==== Sys2Proof/Machine/Dispatch.lean ====
section
/-! DEFINITION. The one dispatch from commands to their meanings. -/

namespace Sys2Proof.Machine

/-- The effect of a command on everything but the queue of waiting commands. -/
def exec (i : Instr) (s : State) : Host.Outcome State Fault Refusal :=
  match i with
  | .coldReset => Sys2Proof.Machine.execColdReset s
  | .portDown port receiving => Sys2Proof.Machine.execPortDown port receiving s
  | .portUp port => Sys2Proof.Machine.execPortUp port s
  | .frameReceived port bytes => Sys2Proof.Machine.execFrameReceived port bytes s
  | .transmissionEnd port => Sys2Proof.Machine.execTransmissionEnd port s
  | .enum dst src payload => Sys2Proof.Machine.execEnum dst src payload s
  | .posSample count stamp => Sys2Proof.Machine.execPosSample count stamp s
  | .posSampleFlags present splice => Sys2Proof.Machine.execPosSampleFlags present splice s
  | .markConversion lane shape tag count => Sys2Proof.Machine.execMarkConversion lane shape tag count s
  | .rollDescriptor media width thickness stretch laminate => Sys2Proof.Machine.execRollDescriptor media width thickness stretch laminate s
  | .status src raw sensor => Sys2Proof.Machine.execStatus src raw sensor s
  | .actDone src id => Sys2Proof.Machine.execActDone src id s
  | .actFault src id code => Sys2Proof.Machine.execActFault src id code s
  | .sampleTimerExpiry => Sys2Proof.Machine.execSampleTimerExpiry s
  | .estimateTick => Sys2Proof.Machine.execEstimateTick s
  | .estimateTimeExpiry => Sys2Proof.Machine.execEstimateTimeExpiry s
  | .actTimeoutExpiry station => Sys2Proof.Machine.execActTimeoutExpiry station s
  | .validityTimerExpiry => Sys2Proof.Machine.execValidityTimerExpiry s
  | .actionIssue station => Sys2Proof.Machine.execActionIssue station s
  | .cutSkipped lane => Sys2Proof.Machine.execCutSkipped lane s
  | .headCancelled station => Sys2Proof.Machine.execHeadCancelled station s
  | .windowExpiry lane => Sys2Proof.Machine.execWindowExpiry lane s
  | .segmentRetirement lane place => Sys2Proof.Machine.execSegmentRetirement lane place s
  | .laneDrained lane => Sys2Proof.Machine.execLaneDrained lane s
  | .webBreak => Sys2Proof.Machine.execWebBreak s
  | .zonePassing => Sys2Proof.Machine.execZonePassing s
  | .splicePassed => Sys2Proof.Machine.execSplicePassed s
  | .trimShort lane => Sys2Proof.Machine.execTrimShort lane s
  | .attnQueued => Sys2Proof.Machine.execAttnQueued s
  | .reportQueued => Sys2Proof.Machine.execReportQueued s
  | .writeJob token body => Sys2Proof.Machine.execWriteJob token body s
  | .deleteJob token body => Sys2Proof.Machine.execDeleteJob token body s
  | .readJob token body => Sys2Proof.Machine.execReadJob token body s
  | .writeStation token body => Sys2Proof.Machine.execWriteStation token body s
  | .writeLane token body => Sys2Proof.Machine.execWriteLane token body s
  | .writeLine token body => Sys2Proof.Machine.execWriteLine token body s
  | .laneStart token body => Sys2Proof.Machine.execLaneStart token body s
  | .laneDrain token body => Sys2Proof.Machine.execLaneDrain token body s
  | .laneStop token body => Sys2Proof.Machine.execLaneStop token body s
  | .clearStation token body => Sys2Proof.Machine.execClearStation token body s
  | .clearLost token body => Sys2Proof.Machine.execClearLost token body s
  | .injectMark token body => Sys2Proof.Machine.execInjectMark token body s
  | .readStatus token body => Sys2Proof.Machine.execReadStatus token body s
  | .readMap token body => Sys2Proof.Machine.execReadMap token body s
  | .clearFlags token body => Sys2Proof.Machine.execClearFlags token body s
  | .setAttnMask token body => Sys2Proof.Machine.execSetAttnMask token body s
  | .clearCounters token body => Sys2Proof.Machine.execClearCounters token body s
  | .lineReset broadcast token body => Sys2Proof.Machine.execLineReset broadcast token body s
  | .unknownRequest code token body => Sys2Proof.Machine.execUnknownRequest code token body s

end Sys2Proof.Machine
end

