-- ==== Sys2Proof/Safety.lean ====
section
/-! DEFINITION. The terms the statements use: how an event ends, what a request is answered with, which command a request
frame runs, and the agreements among the parts of the state that every step keeps. -/

namespace Sys2Proof.Machine

/-! ## Values the rules give, written out -/

/-- One bit of a frame into the CRC register, generator x^16 + x^12 + x^5 + 1 (R181). -/
def crcFeed (r : BitVec 16) (bit : Bool) : BitVec 16 :=
  if r.getLsbD 15 = bit then r <<< 1 else (r <<< 1) ^^^ 0x1021#16

/-- The check of a run of bytes: each byte most significant bit first, from FFFFh, with no final inversion (R181). -/
def wireCheck (bytes : List Byte) : BitVec 16 :=
  (bytes.flatMap (fun b => (List.range 8).map (fun i => b.getLsbD (7 - i)))).foldl crcFeed 0xFFFF#16

/-- The payload of an ACT frame of a station other than LAM: id, kind code, fire delay, and for MOVE the two positions, else
zeros (R108, section 9.2). -/
def actBytes (id : BitVec 16) (act : Action) (delay : Nat) : List Byte :=
  be16 id.toNat ++
    [match act.kind with | .engage => 1#8 | .release => 2#8 | .move => 3#8 | .park => 4#8 | .cut => 5#8] ++
    be16 delay ++ (match act.kind with | .move => be16 act.near ++ be16 act.far | _ => [0#8, 0#8, 0#8, 0#8])

/-- The temperature of the laminator is out of its window (R143). -/
def OutOfWindow (s : State) : Prop :=
  ∃ r, s.lam.record = some r ∧ 0 < r.tMin ∧
    (s.nip.tempValid = false ∨ s.nip.temp < r.tMin ∨ r.tMax < s.nip.temp)

/-- The position of a latched mark count that lies `delta` counts before the reference (R40). -/
def markAt (pEnc : Word32) (delta : Int) (k : Nat) : Word32 :=
  let offset := BitVec.ofNat 32 ((delta.natAbs * k + 32768) / 65536)
  if 0 ≤ delta then pEnc - offset else pEnc + offset

/-- `target` is the coordinate of an offset under an anchor and a stretch, the product term rounded half away from zero (R48). -/
def CoordOf (anchorP : Word32) (anchorX : Nat) (stretch : Int) (x : Nat) (target : Word32) : Prop :=
  let dx := (x : Int) - anchorX
  ∃ q : Int, target = anchorP + BitVec.ofInt 32 (dx + q) ∧
    2 * (1000000 * q - dx * stretch).natAbs ≤ 1000000 ∧
    (2 * (1000000 * q - dx * stretch).natAbs = 1000000 → (dx * stretch).natAbs ≤ (1000000 * q).natAbs)

/-- `v` is the temperature a table of at least one point gives a raw code: the first value at or below the first point, the last
at or above the last, and between two neighbours the value interpolated with its term rounded toward zero (R142). -/
def ConvertsTo (table : List (Nat × Nat)) (c v : Nat) : Prop :=
  (∀ p, table.head? = some p → c ≤ p.1 → v = p.2) ∧
  (∀ p, table.getLast? = some p → p.1 ≤ c → v = p.2) ∧
  (∀ i p q, table[i]? = some p → table[i + 1]? = some q → p.1 ≤ c → c < q.1 →
    (v : Int) = p.2 + (((c : Int) - p.1) * ((q.2 : Int) - p.2)).tdiv ((q.1 : Int) - p.1))

/-- `need` is the trim need of a job on a lane record (R150). -/
def NeedsKnife (r : LaneRecord) (job : JobDef) (need : KnifePlan) : Prop :=
  (job.trim = none → need = .parked) ∧
  (∀ n f, job.trim = some (n, f) →
    let near := min (r.nearEdge + n) r.farEdge
    let far := min (r.nearEdge + f) r.farEdge
    need = if far ≤ near then .parked else .pair near far)

/-! ## The end of an event -/

/-- An ATTN frame as the part builds it when it is placed: the whole flag set, and the priority number of the highest-priority
flag that is both set and in the mask, which is one more than its bit, or 0 where there is none (R187, R205). -/
def attnFrame (u : State) : Frame :=
  { dst := 0#8, src := u.nodeAddr, kind := 0x42#8
    payload :=
      be16 u.mgmt.flags.toNat ++
        [match (List.range 14).find? (fun i => u.mgmt.flags.getLsbD i && u.mgmt.mask.getLsbD i) with
          | some i => BitVec.ofNat 8 (i + 1)
          | none => 0#8] }

/-- A report as a REPORT frame, its payload the report record of section 9.2 (R187, R207). -/
def reportFrame (u : State) (r : Report) : Frame :=
  { dst := 0#8, src := u.nodeAddr, kind := 0x43#8
    payload :=
      (match r.lane with | .a => 0#8 | .b => 1#8) :: r.tag ::
        (be16 r.ordinal ++ be32 r.pCue.toNat ++ be16 (BitVec.ofInt 16 r.stretch).toNat ++ be16 r.flags.toNat ++
          [BitVec.ofNat 8 r.cutsDone, BitVec.ofNat 8 r.cutsLate, BitVec.ofNat 8 r.cutsMissed] ++ be16 r.lateness ++
          be32 r.trimShort ++
          [r.faultCode.getD 0#8, match r.cause with | .complete => 1#8 | .webBreak => 2#8 | .lost => 3#8 | .stop => 4#8]) }

/-- The end of an event places an ATTN frame: the pending marker is set, a flag is set and in the mask, a place of the own normal
queue is free, and no ATTN frame waits in it (R205; R208, step 1). -/
def attnDue (u : State) : Bool :=
  u.mgmt.pendingAttn && decide (u.mgmt.flags &&& u.mgmt.mask ≠ 0#14) && decide (0 < ownRoom u) &&
    u.north.own.all (fun f => decide (f.kind ≠ 0x42#8))

/-- The north port after frames enter its own normal queue one by one, an idle transmitter taking the arbiter's choice (R190). -/
def placedOwn (p : NorthPort) (frames : List Frame) : NorthPort :=
  frames.foldl (fun q f => NorthPort.start { q with own := q.own ++ [f] }) p

/-- A frame is in transmission at the north port or waits in its own normal queue. -/
def Carries (t : State) (f : Frame) : Prop := t.north.tx = some f ∨ f ∈ t.north.own

/-- `t` is the state `u` as the end of an event leaves it (R177, R205, R206, R208): the ATTN frame that is due is placed, then
the oldest reports while two places are free; the output lines have their levels; everything else is as in `u`. No frame of the
own normal queue and no transmission is lost by it, and a report leaves the report queue only as a REPORT frame. -/
structure EndOfEvent (u t : State) : Prop where
  /-- Nothing but the north port, the pending ATTN marker, the report queue and the output lines changes. -/
  rest : t =
    { u with
      north := t.north, mgmt := { u.mgmt with pendingAttn := t.mgmt.pendingAttn, reports := t.mgmt.reports },
      pins := pinLevels t }
  /-- The marker stays set exactly where it was, a flag is still set and in the mask, and no ATTN frame was placed. -/
  marker : t.mgmt.pendingAttn =
    (u.mgmt.pendingAttn && decide (u.mgmt.flags &&& u.mgmt.mask ≠ 0#14) && !attnDue u)
  /-- The frames placed, in order: the ATTN frame where it is due, then as many of the oldest reports as leave a place free. -/
  placed : ∃ n, t.mgmt.reports = u.mgmt.reports.drop n ∧
    t.north = placedOwn u.north
      ((if attnDue u then [attnFrame u] else []) ++ (u.mgmt.reports.take n).map (reportFrame u)) ∧
    (n < u.mgmt.reports.length → ownRoom t < 2) ∧ (0 < n → 0 < ownRoom t)
  /-- No own frame is lost. -/
  carried : ∀ f, Carries u f → Carries t f
  /-- While a frame is in transmission the port only gains frames at the end of its own normal queue. -/
  busy : u.north.tx ≠ none → t.north = { u.north with own := t.north.own } ∧ u.north.own <+: t.north.own

/-- `t` is the state `u` as the end of a request's event leaves it, the request's RESP having been placed first (R196, R208). -/
def Answered (u : State) (resp : Frame) (t : State) : Prop := EndOfEvent (placeOwn resp u) t

/-- The RESP of R196: DST 0, the node address as SRC, then code, token, result, field number and response body. -/
def respTo (s : State) (code token : Byte) (result field : Nat) (body : List Byte) : Frame :=
  { dst := 0#8, src := s.nodeAddr, kind := 0x41#8,
    payload := code :: token :: BitVec.ofNat 8 result :: BitVec.ofNat 8 field :: body }

/-- A frame offered to the south forward queue: it enters it, and an idle transmitter takes the arbiter's choice; a full queue or
a DOWN port drops it, which is counted and sets LINK_ERROR (R179, R188, R189, R192). -/
def southForwarded (f : Frame) (u : State) : State :=
  if u.south.up = true ∧ u.south.fwd.length < 16 then
    { u with south := SouthPort.start { u.south with fwd := u.south.fwd ++ [f] } }
  else raise prioLinkError { u with south := { u.south with fwdDrops := min (u.south.fwdDrops + 1) 65535 } }

/-- A frame offered to the north forward queue, likewise (R179, R188, R190, R192). -/
def northForwarded (f : Frame) (u : State) : State :=
  if u.north.up = true ∧ u.north.fwd.length < 16 then
    { u with north := NorthPort.start { u.north with fwd := u.north.fwd ++ [f] } }
  else raise prioLinkError { u with north := { u.north with fwdDrops := min (u.north.fwdDrops + 1) 65535 } }

/-- The command a request frame of this code runs (R197). -/
def requestOf (code token : Byte) (body : List Byte) : Instr :=
  match code.toNat with
  | 0x01 => .writeJob token body
  | 0x02 => .deleteJob token body
  | 0x03 => .readJob token body
  | 0x10 => .writeStation token body
  | 0x11 => .writeLane token body
  | 0x12 => .writeLine token body
  | 0x20 => .laneStart token body
  | 0x21 => .laneDrain token body
  | 0x22 => .laneStop token body
  | 0x30 => .clearStation token body
  | 0x31 => .clearLost token body
  | 0x32 => .injectMark token body
  | 0x40 => .readStatus token body
  | 0x41 => .readMap token body
  | 0x50 => .clearFlags token body
  | 0x51 => .setAttnMask token body
  | 0x52 => .clearCounters token body
  | 0x60 => .lineReset false token body
  | _ => .unknownRequest code token body

/-- Every segment a lane map holds under a serial is OPEN: no final state of its work can retire it (R87). -/
def OpenUnder (k : Nat) (x : LaneState) : Prop := ∀ g ∈ x.segs, g.id = k → g.state = .opened

/-- Segment `g` is the only one a lane map holds under its serial. -/
def AloneUnder (g : Segment) (x : LaneState) : Prop := g ∈ x.segs ∧ ∀ h ∈ x.segs, h.id = g.id → h = g

/-- An action is not yet due at a station: r × 256,000 is above v × H (R105). -/
def NotYetDue (st : Station) (act : Action) (s : State) : Prop :=
  ((s.tracker.speed * s.setup.horizon : Nat) : Int) < toGo st act.target s * 256000

/-- The CLOSED segment `h` of a lane has retired from `s` to `t`: it leaves the map, its zone entries leave, its job record gives back
one use, its report is handed over where one is due, and a DRAINING lane left empty is DISABLED (R74, R87, R88, R207). -/
structure Retired (l : Lane) (h : Segment) (s t : State) : Prop where
  leaves :
    (t.lane l).segs.map (fun x => x.id) = ((s.lane l).segs.filter (fun x => x.id ≠ h.id)).map (fun x => x.id) ∧
      (t.lane l).mode =
        (if (s.lane l).mode = .draining ∧ ∀ x ∈ (s.lane l).segs, x.id = h.id then .disabled else (s.lane l).mode) ∧
      t.jobs = s.jobs.modify h.slot (Option.map (fun r => { r with inUse := r.inUse - 1 })) ∧
      t.nip.zones = s.nip.zones.filter (fun e => !(decide (e.lane = l) && decide (e.seg = h.id)))
  report : (s.jobOf h).notify = true ∨ h.flags ≠ 0#12 →
    (s.mgmt.reports.length < 16 → ownRoom s = 0 →
      t.mgmt.reports = s.mgmt.reports ++
        [{ lane := l, tag := h.tag, ordinal := h.ordinal, pCue := h.pCue, stretch := h.stretch, flags := h.flags,
           cutsDone := h.cutsDone, cutsLate := h.cutsLate, cutsMissed := h.cutsMissed, lateness := h.lateness,
           trimShort := h.trimShort, faultCode := h.faultCode, cause := .complete }]) ∧
    (16 ≤ s.mgmt.reports.length →
      t.mgmt.reportsLost = min (s.mgmt.reportsLost + 1) 65535 ∧ attnHas t.mgmt.flags prioReportLost = true)
  silent : (s.jobOf h).notify = false → h.flags = 0#12 →
    t.mgmt.reports <:+ s.mgmt.reports ∧ t.mgmt.reportsLost = s.mgmt.reportsLost

/-- One action of segment `g` of a lane has become final from `s` to `t`, and nothing more of the segment; `h` is the segment as
that final state leaves it, its unfinished work one less. OPEN, or with work unfinished, it stays in the map; CLOSED with none, it
retires (R78, R87 to R89). What of it rests on the Trim Planner's taking the final state of a knife action before the Web Map is
read from the spec by inference (notes/assumptions/15.md, DEDUCED). -/
structure WorkFinal (l : Lane) (g h : Segment) (s t : State) : Prop where
  stays : g.state = .opened ∨ 1 < g.unfinished →
    h ∈ (t.lane l).segs ∧ (t.lane l).mode = (s.lane l).mode ∧ t.jobs = s.jobs ∧ t.nip.zones = s.nip.zones ∧
      t.mgmt.reportsLost = s.mgmt.reportsLost
  retires : g.state = .closed → g.unfinished ≤ 1 → Retired l h s t

/-- The trim region of a segment, from its first to its last cut, in pu (R156). -/
def fullRegion (g : Segment) (s : State) : Nat :=
  (g.coord ((s.jobOf g).cuts.getLastD 0) - g.coord ((s.jobOf g).cuts.headD 0)).toNat

/-- The trim short length of a segment formed once more with the knives at `lamT` (R156). -/
def shortAt (lamT : Word32) (g : Segment) (s : State) : Nat :=
  max g.trimShort
    (sdiff (earlier lamT (g.coord ((s.jobOf g).cuts.getLastD 0))) (g.coord ((s.jobOf g).cuts.headD 0))).toNat

/-- A segment as the DONE of the knife action of key `k` leaves its watch: ended where it watches that action, a SHORT one's length
formed once more (R156). -/
def watchEnded (k : Nat) (lamT : Word32) (g : Segment) (s : State) : Segment :=
  if g.watch.watched = some k then
    { g with
      trimShort := if g.watch.state = .short then shortAt lamT g s else g.trimShort
      watch := { g.watch with state := .ended } }
  else g

/-- A segment as the failure or the cancelling of the knife action of key `k` leaves its watch: ended where it watches that action,
with TRIM_SHORT and the full region length where it had not ended (R156). -/
def watchLost (k : Nat) (g : Segment) (s : State) : Segment :=
  if g.watch.watched = some k ∧ g.watch.state ≠ .ended then
    { g with
      flags := g.flags ||| defTrimShort, trimShort := max g.trimShort (fullRegion g s)
      watch := { g.watch with state := .ended } }
  else g

/-! ## Registration -/

/-- A registration needs a knife action: the trim station is configured, and the job's need differs from the knife plan (R151). -/
def knifeNeeded (l : Lane) (job : JobDef) (s : State) : Bool :=
  (s.station (trimmerOf l)).configured && decide (trimNeed (s.lane l).record job ≠ (s.lane l).knifePlan)

/-- Every line of R80's table holds for a job on a lane. -/
def roomFor (l : Lane) (job : JobDef) (s : State) : Prop :=
  (s.lane l).segs.length < 16 ∧ (s.lane l).cutQueue.length + job.cuts.length ≤ 32 ∧
    (s.lane l).trimQueue.length + (if knifeNeeded l job s then 1 else 0) ≤ 32 ∧
    s.nip.zones.length + (if s.lam.configured then job.zones.length else 0) ≤ 64

/-! ## The plan, pu by pu -/

/-- The stretch from `a` to `b` covers the pu of web from `x` to `x` + 1 beyond the position `o`. -/
def Covers (o a b : Word32) (x : Nat) : Prop := (a - o).toNat ≤ x ∧ x < (b - o).toNat

/-- A zone list whose intervals all lie ahead of the position `o`, within the reach of a signed difference. -/
def ZonesAhead (o : Word32) (zones : List ZoneEntry) : Prop :=
  ∀ e ∈ zones, (e.a - o).toNat < (e.b - o).toNat ∧ (e.b - o).toNat < 2147483648

/-- An entry of a mode covers a pu of web (R129, steps 1 and 2). -/
def InZone (o : Word32) (m : ZoneMode) (zones : List ZoneEntry) (x : Nat) : Prop :=
  ∃ e ∈ zones, e.mode = m ∧ Covers o e.a e.b x

/-- A closed stretch of a plan covers a pu of web. -/
def InPlan (o : Word32) (plan : List Stretch) (x : Nat) : Prop := ∃ y ∈ plan, Covers o y.a y.b x

/-- The policy wants the nip closed over a pu of web: it is REQUIRED, lamination is permitted, and under FORBID_WINS it is not
FORBIDDEN (R129, step 3). -/
def Wanted (o : Word32) (ban : Bool) (policy : Policy) (zones : List ZoneEntry) (x : Nat) : Prop :=
  InZone o .required zones x ∧ ban = false ∧ (policy = .forbidWins → ¬InZone o .forbidden zones x)

/-- A pu of web lies in an opening shorter than BRIDGE that touches no FORBIDDEN interval: `u` is the last pu wanted closed before the
opening and `v` the first after it, so the opening runs from `u` + 1 to `v` (R130). -/
def BridgedAt (o : Word32) (ban : Bool) (policy : Policy) (bridge : Nat) (zones : List ZoneEntry) (x : Nat) : Prop :=
  ∃ u v, u < x ∧ x < v ∧ v < u + 1 + bridge ∧ Wanted o ban policy zones u ∧ Wanted o ban policy zones v ∧
    (∀ y, u < y → y < v → ¬Wanted o ban policy zones y) ∧
    ∀ e ∈ zones, e.mode = .forbidden → (e.b - o).toNat < u + 1 ∨ v < (e.a - o).toNat

/-! ## The conflict of a plan -/

/-- What a recomputation leaves of a conflict in the zone list as it stands: LAM_CONFLICT is set, and every segment that owns an
entry which loses is flagged, LAM_SHORT under FORBID_WINS or the lamination ban and LAM_SPOILED under REQUIRE_WINS (R129). -/
def LosersFlagged (t : State) : Prop :=
  hasConflict (banned t.web) t.nip.zones = true →
    attnHas t.mgmt.flags prioLamConflict = true ∧
    let d := if banned t.web = true ∨ t.setup.policy = .forbidWins then defLamShort else defLamSpoiled
    ∀ e ∈ losers (banned t.web) t.setup.policy t.nip.zones, ∀ g ∈ (t.lane e.lane).segs, g.id = e.seg → g.flags &&& d = d

/-! ## Spoiling, loss of position and the advance of P -/

/-- A segment of a lane map has this serial. -/
def inMap (x : LaneState) (k : Nat) : Bool := x.segs.any (fun g => decide (g.id = k))

/-- What spoiling every segment of a lane, and disabling the lane, leaves (R73, R74, R90, R118). -/
structure LaneSpoiled (l : Lane) (s t : State) : Prop where
  segs : (t.lane l).segs = []
  mode : (t.lane l).mode = .disabled
  record : (t.lane l).record = (s.lane l).record
  stretch : (t.lane l).stretch = (s.lane l).stretch
  /-- Every PLANNED action of a spoiled segment is cancelled. -/
  queues : (∀ a ∈ (s.lane l).cutQueue ++ (s.lane l).trimQueue, ∃ k, a.owner = some k ∧ inMap (s.lane l) k = true) →
    (t.lane l).cutQueue = [] ∧ (t.lane l).trimQueue = []
  /-- Every ISSUED action of a spoiled segment is an orphan, and its station BUSY with it. -/
  orphans : ∀ st, st = cutterOf l ∨ st = trimmerOf l → (s.station st).mode = .busy →
    ∀ i k, (s.station st).outstanding = some i → i.act.owner = some k → inMap (s.lane l) k = true →
      (t.station st).mode = .busy ∧
        (t.station st).outstanding = some { i with act := { i.act with owner := none }, orphan := true }

/-- The report of a spoiled segment: its tallies as they stand, SPOILED set (R88, R90). -/
def spoiledReport (l : Lane) (cause : Cause) (g : Segment) : Report :=
  { lane := l, tag := g.tag, ordinal := g.ordinal, pCue := g.pCue, stretch := g.stretch, flags := g.flags ||| defSpoiled,
    cutsDone := g.cutsDone, cutsLate := g.cutsLate, cutsMissed := g.cutsMissed, lateness := g.lateness,
    trimShort := g.trimShort, faultCode := g.faultCode, cause := cause }

/-- The tracker has entered LOST from `s`: P frozen, v 0, the sample timer stopped, TRACK_LOST set, every segment of both maps
spoiled, and a nip commanded CLOSED released (R35, R90, R91, R126, R137). -/
structure PositionLost (s t : State) : Prop where
  mode : t.tracker.mode = .lost
  p : t.tracker.p = s.tracker.p
  speed : t.tracker.speed = 0
  timer : t.tracker.sampleTimer = none
  lanes : ∀ l, LaneSpoiled l s t
  flag : attnHas t.mgmt.flags prioTrackLost = true
  setup : t.setup = s.setup
  web : t.web = s.web
  zones : t.nip.zones = s.nip.zones.filter (fun e => !inMap (s.lane e.lane) e.seg)
  /-- The reports of the spoiled segments, lane A's first and oldest first, where no knife action is PLANNED. -/
  reports : (s.laneA.segs ++ s.laneB.segs).length + s.mgmt.reports.length ≤ 16 → ownRoom s < 2 →
    (∀ l, (s.lane l).trimQueue = [] ∧ ((s.lane l).segs.map (fun g => g.id)).Nodup) →
    t.mgmt.reports = s.mgmt.reports ++
      (s.laneA.segs.map (spoiledReport .a .lost) ++ s.laneB.segs.map (spoiledReport .b .lost))
  /-- The emptied zone list releases a CLOSED nip at λ, at once where LAM is READY. -/
  release : s.nip.zones ≠ [] → (∀ e ∈ s.nip.zones, inMap (s.lane e.lane) e.seg = true) → s.nip.commanded = .closed →
    s.lam.mode = .ready →
    t.nip.commanded = .opened ∧ t.lam.mode = .busy ∧ t.nip.plan = [] ∧ t.nip.offer = none ∧
      ∃ id, t.nip.last =
        some { kind := .release, target := s.tracker.p - pu (recordOr s.lam).dist, id := id, outcome := .pending }

/-- Every block has taken an advance of P that led from `s` to `t` (R38). -/
structure AdvanceTaken (s t : State) : Prop where
  /-- No window of an open segment has been passed and not expired (R59). -/
  windows : ∀ l g m, openSeg (t.lane l) = some g → g.next = some m → (t.jobOf g).pitches.length ≤ 15 →
    windowPassed (t.jobOf g) (t.lane l).record.markTol t.tracker.p g m = false
  /-- No watch waits whose region start has reached the knives (R156). -/
  watches : ∀ l, ∀ g ∈ (t.lane l).segs, g.watch.state = .waiting →
    reaches (t.tracker.p - pu (recordOr (t.station (trimmerOf l))).dist) (g.coord ((t.jobOf g).cuts.headD 0)) = false
  /-- Where the advance brought no break, which empties the queues: no READY station has a due head, no FAULTED or OFFLINE one a
  head at its fire point, and no cutter that was BUSY a head late beyond its tolerance (R103, R105, R110, R111). -/
  cuts : t.web.broken = s.web.broken → ∀ l a, (t.lane l).cutQueue.head? = some a →
    ((t.station (cutterOf l)).mode = .ready →
      isDue (toGo (cutterOf l) a.target t) t.tracker.speed t.setup.horizon = false) ∧
    ((t.station (cutterOf l)).mode = .faulted ∨ (t.station (cutterOf l)).mode = .offline →
      0 < toGo (cutterOf l) a.target t) ∧
    ((s.station (cutterOf l)).mode = .busy →
      -toGo (cutterOf l) a.target t ≤ ((recordOr (t.station (cutterOf l))).tol : Int))
  knives : t.web.broken = s.web.broken → ∀ l a, (t.lane l).trimQueue.head? = some a →
    ((t.station (trimmerOf l)).mode = .ready →
      isDue (toGo (trimmerOf l) a.target t) t.tracker.speed t.setup.horizon = false) ∧
    ((t.station (trimmerOf l)).mode = .faulted ∨ (t.station (trimmerOf l)).mode = .offline →
      0 < toGo (trimmerOf l) a.target t)
  offer : ∀ o, t.nip.offer = some o → t.lam.mode = .ready →
    isDue (toGo .lam o.target t) t.tracker.speed t.setup.horizon = false
  /-- No entry of the zone list has been passed (R126). -/
  zones : ∀ e ∈ t.nip.zones, precedes e.b (t.tracker.p - pu (recordOr t.lam).dist) = false
  /-- The absence accumulates, and a sum that reaches DB is a web break; the passed splice entries leave (R169, R170, R174). -/
  absence : s.web.present = false → s.web.broken = false →
    if s.setup.db ≤ s.web.absence + (t.tracker.p - s.tracker.p).toNat then
      t.web = { s.web with absence := 0, broken := true, profile := none, splices := [] } ∧
        (∀ l, (t.lane l).segs = [] ∧ (t.lane l).mode = .disabled) ∧ attnHas t.mgmt.flags prioWebBreak = true
    else
      t.web =
        { s.web with
          absence := s.web.absence + (t.tracker.p - s.tracker.p).toNat
          splices := s.web.splices.filter (fun x => !precedes x t.tracker.p) }
  present : s.web.present = true ∨ s.web.broken = true →
    t.web = { s.web with splices := s.web.splices.filter (fun x => !precedes x t.tracker.p) }

/-! ## The output lines (R175 to R177, R206) -/

/-- Source `n` of R176's table is true: an attention flag as latched, or a live condition as R42, R122, R143 and R145 state it. -/
def SourceTrue (s : State) (n : Nat) : Prop :=
  (1 ≤ n ∧ n ≤ 14 ∧ s.mgmt.flags.getLsbD (n - 1) = true) ∨
  (n = 15 ∧ s.tracker.mode = .lost) ∨
  (n = 16 ∧ (s.tracker.mode = .estimated ∨ s.tracker.mode = .holding)) ∨
  (n = 17 ∧ ∃ st, (s.station st).mode = .faulted) ∨
  (n = 18 ∧ ∃ r, s.lam.record = some r ∧ r.enabled = true ∧ 0 < r.tMin ∧
    (s.nip.tempValid = false ∨ s.nip.temp < r.tMin ∨ r.tMax < s.nip.temp))

/-- A stop line with this source mask is active: a selected source is true, source n being bit n − 1 (R176, section 9.2). -/
def LineActive (mask : BitVec 24) (s : State) : Prop := ∃ n, mask.getLsbD (n - 1) = true ∧ SourceTrue s n

/-- A stop line of this mode and mask shows the level R175 gives it. -/
structure StopShows (mode : StopMode) (mask : BitVec 24) (s : State) (level : PinLevel) : Prop where
  disabled : mode = .disabled → level = .highZ
  active : mode ≠ .disabled → LineActive mask s → level = .low
  released : mode = .openDrain → ¬LineActive mask s → level = .highZ
  driven : mode = .pushPull → ¬LineActive mask s → level = .high

/-- The three output lines show the levels of R175, R176 and R206. -/
structure LinesShown (s : State) : Prop where
  stop0 : StopShows s.setup.stop0Mode s.setup.stop0Mask s s.pins.stop0
  stop1 : StopShows s.setup.stop1Mode s.setup.stop1Mask s s.pins.stop1
  attnN : s.pins.attnN = if s.mgmt.flags &&& s.mgmt.mask = 0#14 then .highZ else .low

/-! ## The layouts of section 9.2 and chapter 10 -/

/-- The numbers of a definition fit the fields of the job record body (section 9.2). -/
structure JobFits (j : JobDef) : Prop where
  lists : j.cuts.length ≤ 8 ∧ j.zones.length ≤ 4 ∧ j.pitches.length ≤ 15
  copies : j.copies < 65536
  lNom : j.lNom < 4294967296
  cuts : ∀ c ∈ j.cuts, c < 4294967296
  zones : ∀ z ∈ j.zones, z.x1 < 4294967296 ∧ z.x2 < 4294967296
  trim : ∀ n f, j.trim = some (n, f) → n < 65536 ∧ f < 65536
  pitches : ∀ c ∈ j.pitches, c < 4294967296

/-- A job record body, its write mode apart, carries this definition at the offsets of section 9.2. -/
structure JobLaidOut (body : List Byte) (j : JobDef) : Prop where
  length : body.length = 147
  tag : body[1]? = some j.tag
  lane : byteAt body 2 = match j.lane with | .a => 0 | .b => 1 | .any => 2
  copies : field16 body 3 = j.copies
  lNom : field32 body 5 = j.lNom
  tail : byteAt body 9 = if j.tail then 1 else 0
  cuts : byteAt body 10 = j.cuts.length ∧ ∀ k c, j.cuts[k]? = some c → field32 body (11 + 4 * k) = c
  zones : byteAt body 43 = j.zones.length ∧
    ∀ k z, j.zones[k]? = some z →
      field32 body (44 + 9 * k) = z.x1 ∧ field32 body (48 + 9 * k) = z.x2 ∧
        byteAt body (52 + 9 * k) = match z.mode with | .required => 1 | .forbidden => 2
  trim : match j.trim with
    | none => byteAt body 80 = 0
    | some (n, f) => byteAt body 80 = 1 ∧ field16 body 81 = n ∧ field16 body 83 = f
  pitches : byteAt body 85 = j.pitches.length ∧ ∀ k c, j.pitches[k]? = some c → field32 body (86 + 4 * k) = c
  notify : byteAt body 146 = if j.notify then 1 else 0

/-- The checks R11 makes of a field of a WRITE JOB body, by its number. -/
def JobFieldHolds (body : List Byte) : Nat → Prop
  | 0 => 1 ≤ byteAt body 0 ∧ byteAt body 0 ≤ 3
  | 1 => 1 ≤ byteAt body 1 ∧ byteAt body 1 ≤ 254
  | 2 => byteAt body 2 ≤ 2
  | 3 => field16 body 3 ≤ 999
  | 4 => 10000 ≤ field32 body 5 ∧ field32 body 5 ≤ 5000000
  | 5 => byteAt body 9 ≤ 1
  | 6 => 1 ≤ byteAt body 10 ∧ byteAt body 10 ≤ 8 ∧
      ∀ k < byteAt body 10, field32 body (11 + 4 * k) ≤ field32 body 5 + 100000 ∧
        (0 < k → field32 body (11 + 4 * (k - 1)) + 1000 ≤ field32 body (11 + 4 * k))
  | 7 => byteAt body 43 ≤ 4 ∧
      ∀ k < byteAt body 43, (byteAt body (52 + 9 * k) = 1 ∨ byteAt body (52 + 9 * k) = 2) ∧
        field32 body (44 + 9 * k) < field32 body (48 + 9 * k) ∧
        field32 body (48 + 9 * k) ≤ field32 body (11 + 4 * (byteAt body 10 - 1)) ∧
        ∀ m < k, field32 body (48 + 9 * m) < field32 body (44 + 9 * k) ∨
          field32 body (48 + 9 * k) < field32 body (44 + 9 * m)
  | 8 => byteAt body 80 ≤ 1 ∧ (byteAt body 80 = 1 → field16 body 83 ≤ 32000 ∧ field16 body 81 < field16 body 83)
  | 9 => byteAt body 85 ≤ 15 ∧
      ∀ k < byteAt body 85, 1 ≤ field32 body (86 + 4 * k) ∧ field32 body (86 + 4 * k) < field32 body 5 ∧
        (0 < k → field32 body (86 + 4 * (k - 1)) < field32 body (86 + 4 * k))
  | 10 => byteAt body 146 ≤ 1
  | _ => True

/-- A station record carries the fields of a WRITE STATION body at the offsets of section 9.2. -/
structure StationTaken (st : Station) (body : List Byte) (r : StationRecord) : Prop where
  enabled : r.enabled = true ↔ byteAt body 1 = 1
  addr : body[2]? = some r.addr
  dist : r.dist = field32 body 3
  latency : r.latency = field32 body 7
  tol : r.tol = field16 body 11
  timeout : r.timeout = field16 body 13
  trim : st = .trimA ∨ st = .trimB → r.knifeSpeed = field16 body 15 ∧ r.settle = field16 body 17
  table : st = .lam → r.table = (List.range 9).map (fun k => (byteAt body (15 + 3 * k), field16 body (16 + 3 * k)))
  window : st = .lam → r.tMin = field16 body 42 ∧ r.tMax = field16 body 44

/-- The checks R96 makes of a field of a WRITE STATION body that names a station, by its number (R95). -/
def StationFieldHolds (st : Station) (body : List Byte) (s : State) : Nat → Prop
  | 1 => byteAt body 1 ≤ 1
  | 2 => 1 ≤ byteAt body 2 ∧ byteAt body 2 ≤ 62 ∧
      (byteAt body 1 = 1 → ∀ other, other ≠ st → ∀ r, (s.station other).record = some r → r.enabled = true →
        r.addr.toNat ≠ byteAt body 2)
  | 3 => field32 body 3 ≤ 10000000
  | 4 => field32 body 7 ≤ 200000
  | 5 => field16 body 11 ≤ 10000
  | 6 => 1 ≤ field16 body 13 ∧ field16 body 13 ≤ 5000
  | 7 => st = .trimA ∨ st = .trimB → 100 ≤ field16 body 15 ∧ field16 body 15 ≤ 20000
  | 8 => st = .trimA ∨ st = .trimB → field16 body 17 ≤ 2000
  | 9 => st = .lam →
      ∀ k < 9, field16 body (16 + 3 * k) ≤ 3000 ∧ (0 < k → byteAt body (15 + 3 * (k - 1)) < byteAt body (15 + 3 * k))
  | 10 => st = .lam →
      field16 body 42 ≤ 3000 ∧ field16 body 44 ≤ 3000 ∧ (field16 body 42 = 0 ∨ field16 body 42 < field16 body 44)
  | _ => True

/-- The checks R198 makes of a field of a WRITE LINE body, by its number. -/
def LineFieldHolds (body : List Byte) : Nat → Prop
  | 1 => 1 ≤ field32 body 0 ∧ field32 body 0 ≤ 16777215
  | 3 => 1 ≤ byteAt body 6
  | 4 => field32 body 7 ≤ 1000000
  | 5 => 500 ≤ field16 body 11 ∧ field16 body 11 ≤ 20000
  | 6 => field32 body 13 ≤ 100000
  | 7 => byteAt body 17 = 1 ∨ byteAt body 17 = 2
  | 8 => 100 ≤ field32 body 18 ∧ field32 body 18 ≤ 100000
  | 9 => field32 body 22 ≤ 10000000
  | 10 => byteAt body 26 ≤ 2
  | 12 => byteAt body 30 ≤ 2
  | _ => True

/-- Field `n` fails its checks and every field before it holds: a request is refused on that field (R197). -/
def FailsFirst (holds : Nat → Prop) (n : Nat) : Prop := ¬holds n ∧ ∀ m < n, holds m

/-- The five bytes of a knife plan in READ STATUS part 0 stand at offset `i` (R200). -/
def PlanLaidOut (b : List Byte) (i : Nat) : KnifePlan → Prop
  | .parked => byteAt b i = 0 ∧ field16 b (i + 1) = 0 ∧ field16 b (i + 3) = 0
  | .pair near far => byteAt b i = 1 ∧ field16 b (i + 1) = near % 65536 ∧ field16 b (i + 3) = far % 65536
  | .unknown => byteAt b i = 2 ∧ field16 b (i + 1) = 0 ∧ field16 b (i + 3) = 0

/-- The code of a lane state in READ STATUS part 0 (R200). -/
def laneStateAs : LaneMode → Nat
  | .disabled => 0
  | .running => 1
  | .draining => 2

/-- The code of a station state in READ STATUS part 0 (R200). -/
def stationStateAs : StationMode → Nat
  | .offline => 0
  | .ready => 1
  | .busy => 2
  | .faulted => 3

/-- The sixty-one bytes of READ STATUS part 0, each field at its offset (R200). A number that its field cannot carry is taken to the
field's width; no run reaches one. -/
structure StatusLaidOut (s : State) (b : List Byte) : Prop where
  length : b.length = 61
  part : byteAt b 0 = 0x2B ∧ byteAt b 1 = 0x62 ∧ byteAt b 2 = 0x01
  node : b[3]? = some s.nodeAddr
  tracker : byteAt b 4 =
    match s.tracker.mode with | .noDatum => 0 | .tracking => 1 | .estimated => 2 | .holding => 3 | .lost => 4
  position : field32 b 5 = s.tracker.p.toNat
  speed : field32 b 9 = s.tracker.speed % 4294967296
  debt : field16 b 13 = s.tracker.debt % 65536
  advance : field32 b 15 = s.tracker.estAdvance % 4294967296
  stretchA : field16 b 19 = (BitVec.ofInt 16 s.laneA.stretch).toNat
  stretchB : field16 b 21 = (BitVec.ofInt 16 s.laneB.stretch).toNat
  lanes : byteAt b 23 = laneStateAs s.laneA.mode ∧ byteAt b 24 = laneStateAs s.laneB.mode
  stations : byteAt b 25 = stationStateAs s.lam.mode ∧ byteAt b 26 = stationStateAs s.trimA.mode ∧
    byteAt b 27 = stationStateAs s.trimB.mode ∧ byteAt b 28 = stationStateAs s.cutA.mode ∧
    byteAt b 29 = stationStateAs s.cutB.mode
  nip : byteAt b 30 = match s.nip.commanded with | .unknown => 0 | .opened => 1 | .closed => 2
  outcome : byteAt b 31 =
    match s.nip.last.map (fun x => x.outcome) with
    | none => 0 | some .pending => 1 | some .confirmed => 2 | some .failed => 3
  sensor : byteAt b 32 = match s.nip.sensor with | none => 0 | some .opened => 1 | some .closed => 2
  temperature : field16 b 33 = s.nip.temp % 65536
  valid : byteAt b 35 = if s.nip.tempValid then 1 else 0
  planA : PlanLaidOut b 36 s.laneA.knifePlan
  planB : PlanLaidOut b 41 s.laneB.knifePlan
  profile : match s.web.profile with
    | none => ∀ i, 46 ≤ i → i ≤ 54 → byteAt b i = 0
    | some p => byteAt b 46 = 1 ∧
        (byteAt b 47 = match p.media with | .paper => 1 | .vinyl => 2 | .mesh => 3 | .fabric => 4 | .film => 5) ∧
        field16 b 48 = p.width.toNat ∧ field16 b 50 = p.thickness.toNat ∧ field16 b 52 = p.stretch.toNat ∧
        byteAt b 54 = if p.laminate then 1 else 0
  flags : field16 b 55 = s.mgmt.flags.toNat
  mask : field16 b 57 = s.mgmt.mask.toNat
  link : (byteAt b 59).testBit 0 = s.north.up ∧ (byteAt b 59).testBit 1 = s.south.up ∧ byteAt b 59 < 4
  reports : byteAt b 60 = s.mgmt.reports.length % 256

/-- The thirty-one bytes of a READ MAP entry, each field at its offset (R201), its numbers taken to their fields' widths as above. -/
structure EntryLaidOut (g : Segment) (b : List Byte) : Prop where
  length : b.length = 31
  tag : b[0]? = some g.tag
  ordinal : field16 b 1 = g.ordinal % 65536
  cue : field32 b 3 = g.pCue.toNat
  anchorP : field32 b 7 = g.anchorP.toNat
  anchorX : field32 b 11 = g.anchorX % 4294967296
  stretch : field16 b 15 = (BitVec.ofInt 16 g.stretch).toNat
  next : byteAt b 17 = match g.next with | none => 0 | some .tail => 1 | some (.pitch i) => (2 + i) % 256
  flags : field16 b 18 = g.flags.toNat
  unfinished : byteAt b 20 = g.unfinished % 256
  cutsDone : byteAt b 21 = g.cutsDone % 256
  cutsLate : byteAt b 22 = g.cutsLate % 256
  cutsMissed : byteAt b 23 = g.cutsMissed % 256
  lateness : field16 b 24 = g.lateness % 65536
  trimShort : field32 b 26 = g.trimShort % 4294967296
  fault : b[30]? = some (g.faultCode.getD 0#8)

/-! ## Agreements every step keeps -/

/-- A lane within the capacities of the map and the queues and the ranges of stretch (R56, R62, R65, R79, R100). -/
def LaneBounded (x : LaneState) : Prop :=
  x.segs.length ≤ 16 ∧ x.cutQueue.length ≤ 32 ∧ x.trimQueue.length ≤ 32 ∧ -20000 ≤ x.stretch ∧ x.stretch ≤ 20000 ∧
    ∀ g ∈ x.segs, -20000 ≤ g.stretch ∧ g.stretch ≤ 20000

/-- The stores and the quantities named here are within the capacities and the ranges the spec gives them (R1, R26, R27, R56, R125,
R173, R188, R190, R207, R209). The urgent queue is not bounded (notes/assumptions/19.md). -/
structure Capacities (s : State) : Prop where
  laneA : LaneBounded s.laneA
  laneB : LaneBounded s.laneB
  zones : s.nip.zones.length ≤ 64
  splices : s.web.splices.length ≤ 4
  reports : s.mgmt.reports.length ≤ 16
  own : s.north.own.length ≤ 8
  northForward : s.north.fwd.length ≤ 16
  southForward : s.south.fwd.length ≤ 16
  run : s.north.run ≤ 4
  jobs : s.jobs.length = 64
  speed : s.tracker.speed ≤ 256000
  fraction : s.tracker.frac < 65536
  counters : ∀ n ∈ counters s, n ≤ 65535

/-- The tracker's fields agree with its state (R25, R28 to R31, R34, R35, R37). -/
structure TrackerAgrees (k : Tracker) (revLimit : Nat) : Prop where
  still : k.mode = .noDatum ∨ k.mode = .lost → k.speed = 0 ∧ k.sampleTimer = none
  tracking : k.mode = .tracking → k.p = k.pEnc ∧ k.sampleTimer ≠ none ∧ k.reference ≠ none
  estimated : k.mode = .estimated → k.sampleTimer = none ∧ k.estTime < 1000 ∧ k.reference ≠ none
  holding : k.mode = .holding → k.sampleTimer ≠ none ∧ k.reference ≠ none
  debt : k.debt ≤ revLimit

/-- A station is BUSY exactly while it has an outstanding action, and OFFLINE exactly while it is not configured (R97). -/
def StationAgrees (x : StationState) : Prop :=
  (x.mode = .busy ↔ x.outstanding ≠ none) ∧ (x.mode = .offline ↔ x.configured = false)

/-- The Nip Planner's fields agree (R132, R134, R141). -/
structure NipAgrees (n : Nip) : Prop where
  decided : n.decided = none ↔ n.commanded = .unknown
  engage : ∀ o, n.offer = some o → o.kind = .engage → n.commanded = .opened
  release : ∀ o, n.offer = some o → o.kind = .release → n.commanded ≠ .opened
  temp : n.tempValid = true ↔ n.validity ≠ none

/-- A DOWN port transmits nothing, and a port that transmits nothing has nothing queued (R179, R189, R190). -/
structure PortsAgree (s : State) : Prop where
  northDown : s.north.up = false → s.north.tx = none
  northIdle : s.north.tx = none → s.north.own = [] ∧ s.north.fwd = []
  southDown : s.south.up = false → s.south.tx = none
  southIdle : s.south.tx = none → s.south.urgent = [] ∧ s.south.fwd = []

/-- The parts of the state agree: tracker, stations, Nip Planner, ports and output lines. -/
structure Agrees (s : State) : Prop where
  ports : PortsAgree s
  tracker : TrackerAgrees s.tracker s.setup.revLimit
  stations : ∀ st, StationAgrees (s.station st)
  nip : NipAgrees s.nip
  pins : LinesShown s

/-- The segments of a lane map registered from a slot. -/
def usersOf (slot : Nat) (x : LaneState) : Nat := (x.segs.filter (fun g => g.slot = slot)).length

/-- The segments of a lane have serials of their own, all below the next one. -/
def SerialsDistinct (next : Nat) (x : LaneState) : Prop :=
  (x.segs.map (fun g => g.id)).Nodup ∧ ∀ g ∈ x.segs, g.id < next

/-- Every record's in-use count is the number of segments in the two maps registered from its slot (R17). -/
structure JobsAgree (s : State) : Prop where
  laneA : SerialsDistinct s.nextSeg s.laneA
  laneB : SerialsDistinct s.nextSeg s.laneB
  counts : ∀ i, inUseAt i s = usersOf i s.laneA + usersOf i s.laneB

/-- The nip plan is the one R129 and R130 give for the zone list as it stands, every entry of which belongs to a segment of a
lane map (R125, R131); a DISABLED lane has an empty map (R73, R74), and only the newest segment of a map is OPEN (R46, R60). -/
structure PlanAgrees (s : State) : Prop where
  plan : s.nip.plan = planOf (banned s.web) s.setup.policy s.setup.bridge s.nip.zones
  owners : ∀ e ∈ s.nip.zones, inMap (s.lane e.lane) e.seg = true
  disabled : ∀ l, (s.lane l).mode = .disabled → (s.lane l).segs = []
  closed : ∀ l, ∀ g ∈ (s.lane l).segs.dropLast, g.state = .closed

end Sys2Proof.Machine
end

