-- ==== Sys2Proof/WellFormed.lean ====
section
/-! DEFINITION. Which commands the spec's own layouts admit: the ranges of operands that their types do not already bound. -/

namespace Sys2Proof

/-- The request codes of R197's table. -/
def requestCodes : List Byte :=
  [0x01#8, 0x02#8, 0x03#8, 0x10#8, 0x11#8, 0x12#8, 0x20#8, 0x21#8, 0x22#8, 0x30#8, 0x31#8, 0x32#8, 0x40#8, 0x41#8,
    0x50#8, 0x51#8, 0x52#8, 0x60#8]

/-- A request body that fits a REQ frame: LEN is at most 200 and counts the code and the token (R180, section 9.2). -/
def bodyFits (body : List Byte) : Bool := decide (body.length ≤ 198)

/-- A command whose operands the spec's layouts admit. -/
def Instr.wellFormed : Instr → Bool
  | .coldReset => true
  | .portDown _ _ => true
  | .portUp _ => true
  | .frameReceived _ _ => true
  | .transmissionEnd _ => true
  | .enum _ _ payload => decide (payload.length ≤ 200)
  | .posSample _ _ => true
  | .posSampleFlags _ _ => true
  | .markConversion _ _ _ _ => true
  | .rollDescriptor _ width _ _ _ => decide (1 ≤ width.toNat ∧ width.toNat ≤ 32000)
  | .status _ _ _ => true
  | .actDone _ _ => true
  | .actFault _ _ _ => true
  | .sampleTimerExpiry => true
  | .estimateTick => true
  | .estimateTimeExpiry => true
  | .actTimeoutExpiry _ => true
  | .validityTimerExpiry => true
  | .actionIssue _ => true
  | .cutSkipped _ => true
  | .headCancelled station => decide (station ≠ .lam)
  | .windowExpiry _ => true
  | .segmentRetirement _ place => decide (place < 16)
  | .laneDrained _ => true
  | .webBreak => true
  | .zonePassing => true
  | .splicePassed => true
  | .trimShort _ => true
  | .attnQueued => true
  | .reportQueued => true
  | .writeJob _ body => bodyFits body
  | .deleteJob _ body => bodyFits body
  | .readJob _ body => bodyFits body
  | .writeStation _ body => bodyFits body
  | .writeLane _ body => bodyFits body
  | .writeLine _ body => bodyFits body
  | .laneStart _ body => bodyFits body
  | .laneDrain _ body => bodyFits body
  | .laneStop _ body => bodyFits body
  | .clearStation _ body => bodyFits body
  | .clearLost _ body => bodyFits body
  | .injectMark _ body => bodyFits body
  | .readStatus _ body => bodyFits body
  | .readMap _ body => bodyFits body
  | .clearFlags _ body => bodyFits body
  | .setAttnMask _ body => bodyFits body
  | .clearCounters _ body => bodyFits body
  | .lineReset _ _ body => bodyFits body
  | .unknownRequest code _ body => decide (code ∉ requestCodes) && bodyFits body

end Sys2Proof
end

