-- ==== Sys2Proof/Certificates/Slice0/Obligations.lean ====
section
/-! DEFINITION. The statements about the model that the provers settle, in the order of OBLIGATIONS.json. -/

open Sys2Proof Sys2Proof.Machine

/-! ## The step, the tick and reset -/

/-- Step of a state with a command at the front of its queue is exec of that command with the queue's rest. The queue is the
model's (notes/assumptions/4.md). -/
def Obligations.StepTakesFrontCommand : Prop :=
  ∀ (c : Instr) (rest : List Instr) (s : State),
    step { s with pending := c :: rest } = exec c { s with pending := rest }

/-- Every command answers a next state and leaves the queue of waiting commands alone. That no command stops is read from the spec
by inference (notes/assumptions/35.md, DEDUCED), and the queue is the model's own (notes/assumptions/4.md, DESIGN CHOICE). -/
def Obligations.EveryCommandCompletes : Prop :=
  ∀ (c : Instr) (s : State), ∃ t, exec c s = .next t ∧ t.pending = s.pending

/-- With no command waiting, a step is the expiry of a sample timer that has run out, which enters ESTIMATED and changes nothing
else, or one tick of the internal timebase. A tick counts the running sample timer, the running validity timer and the timeout of
each BUSY station's outstanding action down by 1 and ends the last two at 0, with an invalid temperature and a FAULTED station; the
sample timer it ends at 0 with ESTIMATED, at once or in the expiry that follows; with the sample timer stopped it is an estimate
tick in ESTIMATED, within the limits, and else leaves the tracker alone (R30, R31, R116, R141). That the tick is the step on an
empty queue, and that the expiry of the sample timer may be an event of its own after the tick, are the model's choices
(notes/assumptions/4.md and 46.md, DESIGN CHOICE); that a timer started with n ms ends at the n-th tick after its start, and that
the tick at which the sample timer ends is not yet an estimate tick, are read from the spec by inference
(notes/assumptions/28.md, DEDUCED). -/
def Obligations.IdleStepCountsDown : Prop :=
  ∀ s : State, s.pending = [] → ∃ t, step s = .next t ∧ t.pending = [] ∧ t.nip.temp = s.nip.temp ∧
    (s.tracker.sampleTimer = some 0 →
      EndOfEvent
        (raise prioTrackEstimated
          { s with
            tracker :=
              { s.tracker with mode := .estimated, estAdvance := 0, estFrac := 0, estTime := 0, sampleTimer := none } })
        t) ∧
    (s.tracker.sampleTimer ≠ some 0 →
      (∀ n, s.nip.validity = some n →
        (2 ≤ n → t.nip.validity = some (n - 1) ∧ t.nip.tempValid = s.nip.tempValid) ∧
        (n ≤ 1 → t.nip.validity = none ∧ t.nip.tempValid = false)) ∧
      (∀ n, s.tracker.sampleTimer = some n →
        (2 ≤ n ∨ s.turn.expiryAtOnce = false → t.tracker = { s.tracker with sampleTimer := some (n - 1) }) ∧
        (n ≤ 1 → s.turn.expiryAtOnce = true →
          t.tracker =
            { s.tracker with mode := .estimated, estAdvance := 0, estFrac := 0, estTime := 0, sampleTimer := none } ∧
          attnHas t.mgmt.flags prioTrackEstimated = true)) ∧
      (s.tracker.sampleTimer = none →
        (s.tracker.mode ≠ .estimated → t.tracker = s.tracker) ∧
        (s.tracker.mode = .estimated →
          s.tracker.estAdvance + (s.tracker.estFrac + s.tracker.speed) / 256 ≤ s.setup.estLimit → s.tracker.estTime < 999 →
          t.tracker =
            { s.tracker with
              p := s.tracker.p + BitVec.ofNat 32 ((s.tracker.estFrac + s.tracker.speed) / 256)
              estFrac := (s.tracker.estFrac + s.tracker.speed) % 256
              estAdvance := s.tracker.estAdvance + (s.tracker.estFrac + s.tracker.speed) / 256
              estTime := s.tracker.estTime + 1 })) ∧
      (∀ st i, (s.station st).mode = .busy → (s.station st).outstanding = some i →
        (2 ≤ i.timeout →
          (t.station st).mode = .busy ∧
            ∃ j, (t.station st).outstanding = some j ∧ j.id = i.id ∧ j.timeout = i.timeout - 1) ∧
        (i.timeout ≤ 1 →
          (t.station st).mode = .faulted ∧ (t.station st).outstanding = none ∧
            (t.station st).timeouts = min ((s.station st).timeouts + 1) 65535 ∧
            attnHas t.mgmt.flags prioStationFault = true)))

/-- COLD_RESET leaves every block at the values the spec states (R19, R44, R68, R93, R123, R146, R160, R162, R194, R211); each
port's link state follows its line. The last clause, that the queue of waiting commands is carried on, is the model's choice: the
queue is its own (notes/assumptions/4.md and 8.md, DESIGN CHOICE). -/
def Obligations.ColdResetValues : Prop :=
  ∀ s : State, ∃ t, exec .coldReset s = .next t ∧
    t.nodeAddr = 0#8 ∧ t.jobs = List.replicate 64 none ∧
    t.tracker.mode = .noDatum ∧ t.tracker.p = 0#32 ∧ t.tracker.pEnc = 0#32 ∧ t.tracker.frac = 0 ∧ t.tracker.debt = 0 ∧
    t.tracker.speed = 0 ∧ t.tracker.reference = none ∧ t.tracker.jumpRun = 0 ∧ t.tracker.sampleTimer = none ∧
    t.tracker.estFrac = 0 ∧ t.tracker.estAdvance = 0 ∧ t.tracker.estTime = 0 ∧
    (∀ l, (t.lane l).mode = .disabled ∧ (t.lane l).segs = [] ∧ (t.lane l).stretch = 0 ∧ (t.lane l).cutQueue = [] ∧
      (t.lane l).trimQueue = [] ∧ (t.lane l).knifePlan = .parked ∧ (t.lane l).lateral = none ∧
      (t.lane l).pendingKnife = none ∧ (t.lane l).moves = []) ∧
    t.laneA.record = { nearEdge := 0, farEdge := 16000, markTol := 2000, gain := 4 } ∧
    t.laneB.record = { nearEdge := 16000, farEdge := 32000, markTol := 2000, gain := 4 } ∧
    (∀ st, (t.station st).record = none ∧ (t.station st).mode = .offline ∧ (t.station st).outstanding = none) ∧
    nextId t.lastId = 1#16 ∧
    t.nip.zones = [] ∧ t.nip.plan = [] ∧ t.nip.begun = [] ∧ t.nip.commanded = .unknown ∧ t.nip.decided = none ∧
    t.nip.last = none ∧
    t.nip.releaseRequest = false ∧ t.nip.offer = none ∧ t.nip.tempValid = false ∧ t.nip.validity = none ∧
    t.nip.temp = 0 ∧ t.nip.sensor = none ∧
    t.web.profile = none ∧ t.web.present = true ∧ t.web.absence = 0 ∧ t.web.broken = false ∧ t.web.spliceFlag = false ∧
    t.web.splices = [] ∧
    t.setup.k = 655360 ∧ t.setup.revLimit = 2000 ∧ t.setup.ts = 5 ∧ t.setup.estLimit = 50000 ∧ t.setup.horizon = 2000 ∧
    t.setup.bridge = 15000 ∧ t.setup.policy = .forbidWins ∧ t.setup.db = 5000 ∧ t.setup.spliceDist = 0 ∧
    t.setup.stop0Mode = .disabled ∧ t.setup.stop1Mode = .disabled ∧ t.setup.stop0Mask = 0#24 ∧ t.setup.stop1Mask = 0#24 ∧
    t.mgmt.flags = 0#14 ∧ t.mgmt.mask = 0x3FFF#14 ∧ t.mgmt.pendingAttn = false ∧ t.mgmt.reports = [] ∧
    counters t = List.replicate 30 0 ∧ t.pins = { stop0 := .highZ, stop1 := .highZ, attnN := .highZ } ∧
    t.north.up = s.north.up ∧ t.south.up = s.south.up ∧ t.north.tx = none ∧ t.north.fwd = [] ∧ t.north.own = [] ∧
    t.north.run = 0 ∧ t.south.tx = none ∧ t.south.urgent = [] ∧ t.south.fwd = [] ∧ t.pending = s.pending

/-! ## The link -/

/-- PORT_DOWN at a port that is UP: its queues and its transmission are lost, each frame a forward drop, a frame part-way
through reception is a CRC error, and LINK_ERROR is set where a frame was dropped. PORT_UP at a DOWN port: the port resumes; a
pending ATTN, with its idle empty north port, begins transmission in the same event (R179, R205, R208). That the north run count
keeps its value when the port goes DOWN is read from the spec by inference (notes/assumptions/23.md, DEDUCED), and that an operand
tells whether a frame was part-way through reception is the model's choice (notes/assumptions/11.md, DESIGN CHOICE). -/
def Obligations.PortLinkChanges : Prop :=
  (∀ (s : State) (receiving : Bool),
     (s.north.up = true →
       ∃ t, exec (.portDown .north receiving) s = .next t ∧
         let lost := s.north.fwd.length + s.north.own.length + (if s.north.tx = none then 0 else 1)
         let u :=
           { s with
             north :=
               { s.north with
                 up := false, tx := none, fwd := [], own := [],
                 fwdDrops := if lost = 0 then s.north.fwdDrops else min (s.north.fwdDrops + lost) 65535,
                 crcErrors := if receiving then min (s.north.crcErrors + 1) 65535 else s.north.crcErrors } }
         EndOfEvent (if lost = 0 ∧ receiving = false then u else raise prioLinkError u) t) ∧
     (s.south.up = true →
       ∃ t, exec (.portDown .south receiving) s = .next t ∧
         let lost := s.south.urgent.length + s.south.fwd.length + (if s.south.tx = none then 0 else 1)
         let u :=
           { s with
             south :=
               { s.south with
                 up := false, tx := none, urgent := [], fwd := [],
                 fwdDrops := if lost = 0 then s.south.fwdDrops else min (s.south.fwdDrops + lost) 65535,
                 crcErrors := if receiving then min (s.south.crcErrors + 1) 65535 else s.south.crcErrors } }
         EndOfEvent (if lost = 0 ∧ receiving = false then u else raise prioLinkError u) t)) ∧
  (∀ s : State,
     (s.south.up = false →
       ∃ t, exec (.portUp .south) s = .next t ∧ EndOfEvent { s with south := { s.south with up := true } } t) ∧
     (s.north.up = false →
       ∃ t, exec (.portUp .north) s = .next t ∧ EndOfEvent { s with north := { s.north with up := true } } t ∧
         (s.mgmt.pendingAttn = true → s.mgmt.flags &&& s.mgmt.mask ≠ 0#14 → s.north.own = [] → s.north.fwd = [] →
           s.north.tx = none → t.north.tx = some (attnFrame s) ∧ t.mgmt.pendingAttn = false)))

/-- TRANSMISSION_END: at the south port the head of the urgent queue is chosen ahead of the head of the forward queue, and nothing
else changes (R189); at the north port the choice is between the own normal queue and the forward queue by the run count
(R190). -/
def Obligations.PortArbitration : Prop :=
  (∀ (s : State) (f : Frame), s.south.tx = some f → s.south.up = true →
     ∃ t, exec (.transmissionEnd .south) s = .next t ∧
       EndOfEvent
         { s with
           south :=
             match s.south.urgent, s.south.fwd with
             | a :: r, _ => { s.south with tx := some a, urgent := r }
             | [], b :: q => { s.south with tx := some b, fwd := q }
             | [], [] => { s.south with tx := none } }
         t) ∧
  (∀ (s : State) (f : Frame), s.north.tx = some f → s.north.up = true →
     ∃ t, exec (.transmissionEnd .north) s = .next t ∧
       EndOfEvent
         { s with
           north :=
             match s.north.own, s.north.fwd with
             | a :: r, [] => { s.north with tx := some a, own := r, run := 0 }
             | a :: r, b :: q =>
                 if s.north.run = 4 then { s.north with tx := some a, own := r, run := 0 }
                 else { s.north with tx := some b, fwd := q, run := s.north.run + 1 }
             | [], b :: q => { s.north with tx := some b, fwd := q, run := 0 }
             | [], [] => { s.north with tx := none } }
         t)

/-- A frame that is too short, too long, of inconsistent length or with a bad CHK is neither forwarded nor acted on: it counts
one CRC error of its port and sets LINK_ERROR (R180). -/
def Obligations.BadFrameIsCounted : Prop :=
  ∀ (s : State) (bytes : List Byte),
    (bytes.length < 6 ∨ 200 < byteAt bytes 3 ∨ bytes.length ≠ 6 + byteAt bytes 3 ∨
      (wireCheck (bytes.take (4 + byteAt bytes 3))).toNat ≠ field16 bytes (4 + byteAt bytes 3)) →
    (s.north.up = true →
      ∃ t, exec (.frameReceived .north bytes) s = .next t ∧
        EndOfEvent
          (raise prioLinkError { s with north := { s.north with crcErrors := min (s.north.crcErrors + 1) 65535 } }) t) ∧
    (s.south.up = true →
      ∃ t, exec (.frameReceived .south bytes) s = .next t ∧
        EndOfEvent
          (raise prioLinkError { s with south := { s.south with crcErrors := min (s.south.crcErrors + 1) 65535 } }) t)

/-- A frame's bytes are DST, SRC, KIND, LEN, the payload and CHK, high byte first, which is 29B1h for the bytes 31h to 39h. Reading
and writing agree: the bytes of every frame of LEN at most 200 read back as that frame, and every byte sequence that is received is
the bytes of the frame read (R180, R181, section 9.2). -/
def Obligations.FrameBytesRoundTrip : Prop :=
  (∀ f : Frame,
    let body := [f.dst, f.src, f.kind, BitVec.ofNat 8 f.payload.length] ++ f.payload
    f.wire = body ++ [(wireCheck body).extractLsb' 8 8, (wireCheck body).extractLsb' 0 8]) ∧
  wireCheck [0x31#8, 0x32#8, 0x33#8, 0x34#8, 0x35#8, 0x36#8, 0x37#8, 0x38#8, 0x39#8] = 0x29B1#16 ∧
  (∀ f : Frame, f.payload.length ≤ 200 → readFrame f.wire = some f) ∧
  (∀ (bytes : List Byte) (f : Frame), readFrame bytes = some f → f.wire = bytes ∧ f.payload.length ≤ 200)

/-- A frame from the north (R182, R184, R186, R188, R195 to R197, R210). ENUM runs enumeration. A REQ for the part runs the request
of its code with its token and body; a REQ for the part too short to have both, and a frame for the part of any other kind, is
discarded. A broadcast LINE RESET of a valid body resets the part and is then forwarded into the emptied south forward queue; one
that is not valid, and every other frame, is forwarded only. That a request command is the REQ at the unit is the model's form of
R196 (notes/assumptions/33.md). -/
def Obligations.NorthFrameRouted : Prop :=
  ∀ s : State, s.north.up = true →
    (∀ (dst src : Byte) (payload : List Byte), payload.length ≤ 200 →
      exec (.frameReceived .north (Frame.wire { dst := dst, src := src, kind := 0x01#8, payload := payload })) s =
        exec (.enum dst src payload) s) ∧
    (∀ (src code token : Byte) (body : List Byte), body.length ≤ 198 →
      exec (.frameReceived .north
        (Frame.wire { dst := s.nodeAddr, src := src, kind := 0x40#8, payload := code :: token :: body })) s =
        exec (requestOf code token body) s) ∧
    (∀ f : Frame, f.payload.length ≤ 200 → f.kind ≠ 0x01#8 → f.dst = s.nodeAddr →
      f.kind ≠ 0x40#8 ∨ f.payload.length < 2 → exec (.frameReceived .north f.wire) s = .next s) ∧
    (∀ f : Frame, f.payload.length ≤ 200 → f.kind ≠ 0x01#8 → f.dst ≠ s.nodeAddr →
      ¬(f.dst = 63#8 ∧ f.kind = 0x40#8 ∧ ∃ token keep, f.payload = [0x60#8, token, keep] ∧ keep.toNat ≤ 1) →
      ∃ t, exec (.frameReceived .north f.wire) s = .next t ∧ EndOfEvent (southForwarded f s) t) ∧
    (∀ src token keep : Byte, s.nodeAddr ≠ 63#8 → keep.toNat ≤ 1 →
      let f : Frame := { dst := 63#8, src := src, kind := 0x40#8, payload := [0x60#8, token, keep] }
      ∃ v t, exec (.lineReset true token [keep]) s = .next v ∧ exec (.frameReceived .north f.wire) s = .next t ∧
        EndOfEvent (southForwarded f v) t)

/-- Frames from the south: a MARK, a ROLL and a POS are forwarded north and taken by their blocks, POS as two events in the order
the model's free choice gives (notes/assumptions/1.md); one of the wrong LEN is forwarded only. A STATUS, ACT_DONE or ACT_FAULT for
the part is taken and not forwarded, and discarded where its LEN is wrong; for another node, and for a part not enumerated, it is
forwarded, as is every frame of another kind. A MARK or ROLL of the right LEN with a coded field of no defined value, or a roll
width out of range, is forwarded and not handed on, and such a STATUS for the part is discarded (R164, R185, R186, R188). That the forwarding comes before the dispatch is the
model's choice (notes/assumptions/41.md). -/
def Obligations.SouthFrameDispatched : Prop :=
  ∀ (s : State) (dst src : Byte), s.south.up = true →
    (∀ (l : Lane) (shape : MarkShape) (tag : Byte) (c : Word32),
      let f : Frame :=
        { dst := dst, src := src, kind := 0x11#8,
          payload := (match l with | .a => 0#8 | .b => 1#8) ::
            (match shape with | .cue => 1#8 | .pitch => 2#8 | .tail => 3#8) :: tag :: be32 c.toNat }
      exec (.frameReceived .south f.wire) s = exec (.markConversion l shape tag c) (finish (northForwarded f s))) ∧
    (∀ (m : MediaClass) (width thickness stretch : BitVec 16) (laminate : Bool),
      1 ≤ width.toNat → width.toNat ≤ 32000 →
      let f : Frame :=
        { dst := dst, src := src, kind := 0x12#8,
          payload := BitVec.ofNat 8 (mediaCode m) :: (be16 width.toNat ++ be16 thickness.toNat ++ be16 stretch.toNat ++
            [if laminate then 1#8 else 0#8]) }
      exec (.frameReceived .south f.wire) s =
        exec (.rollDescriptor m width thickness stretch laminate) (finish (northForwarded f s))) ∧
    (∀ (c stamp : Word32) (flags : Byte),
      let f : Frame := { dst := dst, src := src, kind := 0x10#8, payload := be32 c.toNat ++ be32 stamp.toNat ++ [flags] }
      let s1 := (finish (northForwarded f s)).dropTurn
      (s.turn.unitFirst = false →
        ∃ t, exec (.posSample c stamp) s1 = .next t ∧
          exec (.frameReceived .south f.wire) s = exec (.posSampleFlags (flags.getLsbD 0) (flags.getLsbD 1)) t) ∧
      (s.turn.unitFirst = true →
        ∃ t, exec (.posSampleFlags (flags.getLsbD 0) (flags.getLsbD 1)) s1 = .next t ∧
          exec (.frameReceived .south f.wire) s = exec (.posSample c stamp) t)) ∧
    (dst = s.nodeAddr → 1 ≤ dst.toNat → dst.toNat ≤ 62 →
      (∀ (raw : Byte) (x : NipSensor),
        exec (.frameReceived .south
          (Frame.wire
            { dst := dst, src := src, kind := 0x20#8, payload := [raw, match x with | .opened => 0#8 | .closed => 1#8] })) s =
          exec (.status src raw x) s) ∧
      (∀ id : BitVec 16,
        exec (.frameReceived .south (Frame.wire { dst := dst, src := src, kind := 0x31#8, payload := be16 id.toNat })) s =
          exec (.actDone src id) s) ∧
      (∀ (id : BitVec 16) (code : Byte),
        exec (.frameReceived .south
          (Frame.wire { dst := dst, src := src, kind := 0x32#8, payload := be16 id.toNat ++ [code] })) s =
          exec (.actFault src id code) s)) ∧
    (∀ f : Frame, f.payload.length ≤ 200 →
      (f.kind ∉ [0x10#8, 0x11#8, 0x12#8, 0x20#8, 0x31#8, 0x32#8] ∨
          (f.kind = 0x10#8 ∧ f.payload.length ≠ 9) ∨ (f.kind = 0x11#8 ∧ f.payload.length ≠ 7) ∨
          (f.kind = 0x12#8 ∧ f.payload.length ≠ 8) ∨
          (f.kind = 0x11#8 ∧ (1 < byteAt f.payload 0 ∨ byteAt f.payload 1 = 0 ∨ 3 < byteAt f.payload 1)) ∨
          (f.kind = 0x12#8 ∧
            (byteAt f.payload 0 = 0 ∨ 5 < byteAt f.payload 0 ∨ field16 f.payload 1 = 0 ∨ 32000 < field16 f.payload 1 ∨
              1 < byteAt f.payload 7)) ∨
          (f.kind ∈ [0x20#8, 0x31#8, 0x32#8] ∧
            (f.dst ≠ s.nodeAddr ∨ s.nodeAddr.toNat < 1 ∨ 62 < s.nodeAddr.toNat)) →
        ∃ t, exec (.frameReceived .south f.wire) s = .next t ∧ EndOfEvent (northForwarded f s) t) ∧
      (f.dst = s.nodeAddr → 1 ≤ s.nodeAddr.toNat → s.nodeAddr.toNat ≤ 62 →
        (f.kind = 0x20#8 ∧ (f.payload.length ≠ 2 ∨ 1 < byteAt f.payload 1)) ∨ (f.kind = 0x31#8 ∧ f.payload.length ≠ 2) ∨
          (f.kind = 0x32#8 ∧ f.payload.length ≠ 3) →
        exec (.frameReceived .south f.wire) s = .next s))

/-- ENUM: LEN other than 1 changes no address; a next of 1 to 62 becomes the node address and is forwarded one higher; any other
next makes the address 0 and is forwarded unchanged (R182). -/
def Obligations.EnumAssignsAddress : Prop :=
  ∀ (s : State) (dst src : Byte), s.north.up = true →
    (∀ payload : List Byte, payload.length ≠ 1 →
      ∃ t, exec (.enum dst src payload) s = .next t ∧
        EndOfEvent (southForwarded { dst := dst, src := src, kind := 0x01#8, payload := payload } s) t) ∧
    (∀ next : Byte, 1 ≤ next.toNat → next.toNat ≤ 62 →
      ∃ t, exec (.enum dst src [next]) s = .next t ∧ t.nodeAddr = next ∧
        EndOfEvent
          (southForwarded { dst := dst, src := src, kind := 0x01#8, payload := [next + 1#8] } { s with nodeAddr := next }) t) ∧
    (∀ next : Byte, next = 0#8 ∨ 63 ≤ next.toNat →
      ∃ t, exec (.enum dst src [next]) s = .next t ∧ t.nodeAddr = 0#8 ∧
        EndOfEvent (southForwarded { dst := dst, src := src, kind := 0x01#8, payload := [next] } { s with nodeAddr := 0#8 }) t)

/-! ## The Position Tracker -/

/-- An accepted POS sample in TRACKING: debt, accumulation, speed, reference, jump run and timer as R23 and R25 to R27 state, and
P equal to P_enc (R29). -/
def Obligations.SampleInTracking : Prop :=
  ∀ (s : State) (c stamp : Word32) (r : Reference),
    s.tracker.mode = .tracking → s.tracker.reference = some r →
    (sdiff c r.count).natAbs ≤ 65535 →
    (sdiff c r.count < 0 → s.tracker.debt + (sdiff c r.count).natAbs ≤ s.setup.revLimit) →
    ∃ t, exec (.posSample c stamp) s = .next t ∧
      let d := sdiff c r.count
      let total := s.tracker.frac + (d.toNat - min d.toNat s.tracker.debt) * s.setup.k
      let dt := (stamp - r.stamp).toNat
      t.tracker =
        { s.tracker with
          debt := if d < 0 then s.tracker.debt + d.natAbs else s.tracker.debt - min d.toNat s.tracker.debt
          p := s.tracker.pEnc + BitVec.ofNat 32 (total / 65536)
          pEnc := s.tracker.pEnc + BitVec.ofNat 32 (total / 65536)
          frac := total % 65536
          speed :=
            if dt < 100 ∨ 50000 < dt then s.tracker.speed
            else min 256000 ((3 * s.tracker.speed + d.toNat * s.setup.k * 1000 / (256 * dt)) / 4)
          reference := some { count := c, stamp := stamp }
          jumpRun := 0
          sampleTimer := some s.setup.ts }

/-- The position is lost (R35), which spoils both maps, disables both lanes, freezes P, stops the sample timer, sets v to 0 and
TRACK_LOST: by the third rejected jump in a row, a rejected sample otherwise counting a jump and changing nothing else (R24); by a
reverse debt that would exceed REV_LIMIT, which becomes 0 (R25); and by a tick that would take the estimated advance above
EST_LIMIT or the estimate time to 1,000 ms (R31). By each of these the segments' zone entries leave, their reports are appended, and
a nip commanded CLOSED with a READY LAM is released in the same event where a zone entry left (R90, R126, R137); that λ is the target
also where the decided point h lies ahead of it is the model's choice (notes/assumptions/40.md, DESIGN CHOICE). -/
def Obligations.PositionIsLost : Prop :=
  ∀ s : State,
    (∀ (c stamp : Word32) (r : Reference),
      s.tracker.mode = .tracking ∨ s.tracker.mode = .estimated ∨ s.tracker.mode = .holding →
      s.tracker.reference = some r →
      ∃ t, exec (.posSample c stamp) s = .next t ∧
        (65535 < (sdiff c r.count).natAbs → s.tracker.jumpRun < 2 →
          EndOfEvent
            { s with
              tracker :=
                { s.tracker with jumps := min (s.tracker.jumps + 1) 65535, jumpRun := s.tracker.jumpRun + 1 } } t) ∧
        (65535 < (sdiff c r.count).natAbs → 2 ≤ s.tracker.jumpRun →
          PositionLost s t ∧
          t.tracker =
            { s.tracker with
              mode := .lost, speed := 0, sampleTimer := none, jumps := min (s.tracker.jumps + 1) 65535,
              jumpRun := s.tracker.jumpRun + 1 }) ∧
        ((sdiff c r.count).natAbs ≤ 65535 → sdiff c r.count < 0 →
          s.setup.revLimit < s.tracker.debt + (sdiff c r.count).natAbs →
          PositionLost s t ∧
          t.tracker = { s.tracker with mode := .lost, speed := 0, sampleTimer := none, debt := 0 })) ∧
    (s.tracker.mode = .estimated →
      (s.setup.estLimit < s.tracker.estAdvance + (s.tracker.estFrac + s.tracker.speed) / 256 ∨ 999 ≤ s.tracker.estTime →
        ∃ t, exec .estimateTick s = .next t ∧ PositionLost s t ∧ t.tracker.estAdvance = s.tracker.estAdvance) ∧
      (999 ≤ s.tracker.estTime → ∃ t, exec .estimateTimeExpiry s = .next t ∧ PositionLost s t))

/-- A POS sample outside TRACKING: in NO_DATUM the first becomes the reference and P does not move (R28); in LOST it changes nothing
(R36); an accepted one settles the debt, P_enc, F, the speed, the reference and the jump run as in TRACKING (R23, R25 to R27), then
in ESTIMATED compares P_enc with P and enters TRACKING, HOLDING or LOST (R33); one in HOLDING enters
TRACKING, stays, or enters LOST (R34). -/
def Obligations.SampleOutsideTracking : Prop :=
  (∀ (s : State) (c stamp : Word32),
    ∃ t, exec (.posSample c stamp) s = .next t ∧
      (s.tracker.mode = .noDatum →
        EndOfEvent
          { s with
            tracker :=
              { s.tracker with
                mode := .tracking, pEnc := s.tracker.p, frac := 0, debt := 0, estFrac := 0, estAdvance := 0, jumpRun := 0
                reference := some { count := c, stamp := stamp }, sampleTimer := some s.setup.ts } }
          t) ∧
      (s.tracker.mode = .lost → EndOfEvent s t)) ∧
  (∀ (s : State) (c stamp : Word32) (r : Reference), s.tracker.reference = some r →
      (sdiff c r.count).natAbs ≤ 65535 →
      (sdiff c r.count < 0 → s.tracker.debt + (sdiff c r.count).natAbs ≤ s.setup.revLimit) →
      ∃ t, exec (.posSample c stamp) s = .next t ∧
        let k := settleSample c stamp r s.setup.k s.tracker
        let gap := sdiff k.pEnc s.tracker.p
        (let d := sdiff c r.count
         let total := s.tracker.frac + (d.toNat - min d.toNat s.tracker.debt) * s.setup.k
         let dt := (stamp - r.stamp).toNat
         k =
          { s.tracker with
            debt := if d < 0 then s.tracker.debt + d.natAbs else s.tracker.debt - min d.toNat s.tracker.debt
            pEnc := s.tracker.pEnc + BitVec.ofNat 32 (total / 65536)
            frac := total % 65536
            speed :=
              if dt < 100 ∨ 50000 < dt then s.tracker.speed
              else min 256000 ((3 * s.tracker.speed + d.toNat * s.setup.k * 1000 / (256 * dt)) / 4)
            reference := some { count := c, stamp := stamp }
            jumpRun := 0 }) ∧
        (s.tracker.mode = .estimated →
          (0 ≤ gap → gap ≤ s.setup.estLimit →
            t.tracker =
              { k with mode := .tracking, p := k.pEnc, estAdvance := 0, estFrac := 0, estTime := 0, sampleTimer := some s.setup.ts }) ∧
          (gap < 0 → -gap ≤ s.setup.estLimit →
            t.tracker =
              { k with mode := .holding, estAdvance := 0, estFrac := 0, estTime := 0, sampleTimer := some s.setup.ts }) ∧
          ((s.setup.estLimit : Int) < gap.natAbs →
            PositionLost s t)) ∧
        (s.tracker.mode = .holding →
          (0 ≤ gap → t.tracker = { k with mode := .tracking, p := k.pEnc, sampleTimer := some s.setup.ts }) ∧
          (gap < 0 → -gap ≤ s.setup.estLimit → t.tracker = { k with sampleTimer := some s.setup.ts }) ∧
          (gap < 0 → (s.setup.estLimit : Int) < -gap →
            PositionLost s t)))

/-- The timers of the tracker. SAMPLE_TIMER_EXPIRY enters ESTIMATED and sets TRACK_ESTIMATED (R30). It and an accepted sample may be
taken in either order: after the sample, which restarts the timer, it begins no estimate; before it, the sample resynchronises at
once; where P_enc is within EST_LIMIT of P, state and positions are the same (R39). Where P_enc follows P by more, the sample after
the expiry enters LOST by R33, which R39's sentence leaves out, the model's choice (notes/assumptions/47.md, DESIGN CHOICE); where
it precedes P by more, both orders enter LOST (R33, R34). ESTIMATE_TICK advances P from v within the limits (R31), and does nothing out of
ESTIMATED (R39); ESTIMATE_TIME_EXPIRY enters LOST, as R35 states. That an expiry commanded before its time has no effect, and that
the time of the sample timer's is when it stands at 0, are the model's choices (notes/assumptions/6.md and 46.md, DESIGN CHOICE). -/
def Obligations.TrackerTimersRun : Prop :=
  ∀ s : State,
    (s.tracker.sampleTimer = some 0 →
      ∃ t, exec .sampleTimerExpiry s = .next t ∧
        EndOfEvent
          (raise prioTrackEstimated
            { s with
              tracker :=
                { s.tracker with mode := .estimated, estAdvance := 0, estFrac := 0, estTime := 0, sampleTimer := none } })
          t) ∧
    (s.tracker.sampleTimer ≠ some 0 →
      ∃ t, exec .sampleTimerExpiry s = .next t ∧ EndOfEvent s t) ∧
    (∀ (c stamp : Word32) (r : Reference), s.tracker.reference = some r → (sdiff c r.count).natAbs ≤ 65535 →
      (sdiff c r.count < 0 → s.tracker.debt + (sdiff c r.count).natAbs ≤ s.setup.revLimit) →
      s.tracker.sampleTimer = some 0 → 1 ≤ s.setup.ts →
      let k := settleSample c stamp r s.setup.k s.tracker
      let gap := sdiff k.pEnc s.tracker.p
      (s.tracker.mode = .tracking ∧ 0 ≤ gap) ∨ s.tracker.mode = .holding →
      ∃ a u b v, exec (.posSample c stamp) s = .next a ∧ exec .sampleTimerExpiry a = .next u ∧
        exec .sampleTimerExpiry s = .next b ∧ exec (.posSample c stamp) b = .next v ∧
        u.tracker = a.tracker ∧ b.tracker.mode = .estimated ∧ attnHas b.mgmt.flags prioTrackEstimated = true ∧
        (gap.natAbs ≤ s.setup.estLimit →
          u.tracker.mode = (if 0 ≤ gap then .tracking else .holding) ∧ v.tracker.mode = u.tracker.mode ∧
          v.tracker.p = u.tracker.p ∧ v.tracker.pEnc = u.tracker.pEnc ∧ u.tracker.sampleTimer = some s.setup.ts ∧
          v.tracker.sampleTimer = some s.setup.ts) ∧
        ((s.setup.estLimit : Int) < gap →
          u.tracker.mode = .tracking ∧ u.tracker.p = k.pEnc ∧ u.tracker.sampleTimer = some s.setup.ts ∧ PositionLost b v) ∧
        (gap < 0 → (s.setup.estLimit : Int) < -gap → PositionLost s a ∧ PositionLost b v)) ∧
    (s.tracker.mode ≠ .estimated → ∃ t, exec .estimateTick s = .next t ∧ EndOfEvent s t) ∧
    (s.tracker.mode = .estimated →
      s.tracker.estAdvance + (s.tracker.estFrac + s.tracker.speed) / 256 ≤ s.setup.estLimit → s.tracker.estTime < 999 →
      ∃ t, exec .estimateTick s = .next t ∧
        t.tracker =
          { s.tracker with
            p := s.tracker.p + BitVec.ofNat 32 ((s.tracker.estFrac + s.tracker.speed) / 256)
            estFrac := (s.tracker.estFrac + s.tracker.speed) % 256
            estAdvance := s.tracker.estAdvance + (s.tracker.estFrac + s.tracker.speed) / 256
            estTime := s.tracker.estTime + 1 }) ∧
    (s.tracker.mode = .estimated → 999 ≤ s.tracker.estTime →
      ∃ t, exec .estimateTimeExpiry s = .next t ∧ PositionLost s t) ∧
    (s.tracker.mode ≠ .estimated ∨ s.tracker.estTime < 999 →
      ∃ t, exec .estimateTimeExpiry s = .next t ∧ EndOfEvent s t)

/-- An advance of P, by a POS sample or an estimate tick, is taken by every block: windows, trim watches, LAM's offer, the heads of
the other four stations (but where it brings a web break, which empties their queues), zone entries, the absence accumulator with
the break it brings, and splice entries, in whatever order they take it (R29, R31, R33, R34, R38, R59, R103, R126, R156, R169,
R174). -/
def Obligations.AdvanceIsTakenByAll : Prop :=
  ∀ (c : Instr) (s t : State), PlanAgrees s → (c = .estimateTick ∨ ∃ count stamp, c = .posSample count stamp) →
    exec c s = .next t → t.tracker.p ≠ s.tracker.p → AdvanceTaken s t

/-! ## Marks and registration -/

/-- Marks that register and match nothing, by the first test that decides. A mark is discarded as out of range in NO_DATUM or LOST
or where its count lies more than MAX_STEP from the reference, and reverse-discarded while the debt is above 0. On a DISABLED lane
nothing changes; a cue on a DRAINING lane is counted refused; on a RUNNING lane an unreadable cue is counted refused with
CUE_REFUSED, one before the newest segment's expected tail, or not strictly after its cue, is stray, one the Job Table does not
answer FOUND is refused with CUE_REFUSED, and one without room in the map, the queues or the zone list is counted with NO_ROOM; a
PITCH or TAIL mark that fails a condition of R58 is stray (R41, R43, R50, R52 to R56, R58, R80). -/
def Obligations.MarkTurnedAway : Prop :=
  ∀ (s : State) (l : Lane) (shape : MarkShape) (tag : Byte) (c : Word32),
    ∃ t, exec (.markConversion l shape tag c) s = .next t ∧
      (s.tracker.mode = .noDatum ∨ s.tracker.mode = .lost ∨
          (s.tracker.debt = 0 ∧ ∃ r, s.tracker.reference = some r ∧ 65535 < (sdiff r.count c).natAbs) →
        EndOfEvent { s with tracker := { s.tracker with outOfRange := min (s.tracker.outOfRange + 1) 65535 } } t) ∧
      (s.tracker.mode ≠ .noDatum → s.tracker.mode ≠ .lost → 0 < s.tracker.debt →
        EndOfEvent
          { s with tracker := { s.tracker with reverseDiscarded := min (s.tracker.reverseDiscarded + 1) 65535 } } t) ∧
      ∀ r, s.tracker.mode ≠ .noDatum → s.tracker.mode ≠ .lost → s.tracker.debt = 0 → s.tracker.reference = some r →
        (sdiff r.count c).natAbs ≤ 65535 →
        let p := markAt s.tracker.pEnc (sdiff r.count c) s.setup.k
        let counted := s.modLane l (fun x => { x with cuesRefused := min (x.cuesRefused + 1) 65535 })
        let refused := raise prioCueRefused counted
        let stray := s.modLane l (fun x => { x with strayMarks := min (x.strayMarks + 1) 65535 })
        let full := raise prioNoRoom (s.modLane l (fun x => { x with noRoom := min (x.noRoom + 1) 65535 }))
        ((s.lane l).mode = .disabled → EndOfEvent s t) ∧
        ((s.lane l).mode = .draining → shape = .cue → EndOfEvent counted t) ∧
        ((s.lane l).mode = .running → shape = .cue →
          (tag = 0#8 ∨ tag = 255#8 → EndOfEvent refused t) ∧
          (tag ≠ 0#8 → tag ≠ 255#8 →
            (∀ g, newest (s.lane l) = some g →
              reaches p (expectedTail (s.jobOf g) g - pu (s.lane l).record.markTol) = false → EndOfEvent stray t) ∧
            (∀ g, newest (s.lane l) = some g → g.state = .closed →
              reaches p (expectedTail (s.jobOf g) g - pu (s.lane l).record.markTol) = true →
              precedes g.pCue p = false → EndOfEvent stray t) ∧
            ((∀ g, newest (s.lane l) = some g → g.state = .closed ∧
                reaches p (expectedTail (s.jobOf g) g - pu (s.lane l).record.markTol) = true ∧
                precedes g.pCue p = true) →
              (s.holding tag = none → EndOfEvent refused t) ∧
              (∀ i j, s.holding tag = some i → s.slot i = some j →
                (laneAdmits j.defn.lane l = false ∨ j.state = .exhausted → EndOfEvent refused t) ∧
                (laneAdmits j.defn.lane l = true → j.state = .loaded → ¬roomFor l j.defn s → EndOfEvent full t))))) ∧
        ((s.lane l).mode ≠ .disabled → shape ≠ .cue →
          (openSeg (s.lane l) = none → EndOfEvent stray t) ∧
          (∀ g m, openSeg (s.lane l) = some g → g.next = some m →
            shape ≠ shapeOf m ∨ (shape = .tail ∧ (s.jobOf g).tail = false) ∨
              (s.lane l).record.markTol < (sdiff p (g.coord (markOffset (s.jobOf g) m))).natAbs →
            EndOfEvent stray t))

/-- A CUE on a RUNNING lane that passes every test registers: the newest segment of the map is the copy, anchored at the mark,
SPLICED where a splice lies in its span and TRIM_CLAMPED where its lane clamps a trim offset, and its job record has given one copy,
the definition unchanged; on an empty map no use of the record is given back in the same
event (R16, R17, R40, R57, R81, R85, R150). -/
def Obligations.CueRegistersSegment : Prop :=
  ∀ (s : State) (l : Lane) (tag : Byte) (c : Word32) (r : Reference) (i : Nat) (j : JobRecord),
    s.tracker.mode ≠ .noDatum → s.tracker.mode ≠ .lost → s.tracker.debt = 0 → s.tracker.reference = some r →
    (sdiff r.count c).natAbs ≤ 65535 → (s.lane l).mode = .running → tag ≠ 0#8 → tag ≠ 255#8 →
    s.holding tag = some i → s.slot i = some j → laneAdmits j.defn.lane l = true → j.state = .loaded →
    roomFor l j.defn s → (∀ h ∈ (s.lane l).segs, h.id < s.nextSeg) →
    (∀ h, newest (s.lane l) = some h → h.state = .closed ∧
      reaches (markAt s.tracker.pEnc (sdiff r.count c) s.setup.k)
        (expectedTail (s.jobOf h) h - pu (s.lane l).record.markTol) = true ∧
      precedes h.pCue (markAt s.tracker.pEnc (sdiff r.count c) s.setup.k) = true) →
    ∃ t g, exec (.markConversion l .cue tag c) s = .next t ∧ newest (t.lane l) = some g ∧
      g.tag = tag ∧ g.slot = i ∧ g.ordinal = min (j.registered + 1) 65535 ∧
      g.pCue = markAt s.tracker.pEnc (sdiff r.count c) s.setup.k ∧ g.anchorP = g.pCue ∧ g.anchorX = 0 ∧
      g.stretch = (s.lane l).stretch ∧ g.state = .opened ∧
      g.next = some (if j.defn.pitches = [] then .tail else .pitch 0) ∧
      g.flags &&& defSpliced =
        (if s.web.splices.any (fun x => reaches x g.pCue && reaches (g.coord j.defn.lNom) x) then defSpliced else 0#12) ∧
      ((s.lane l).record.nearEdge ≤ (s.lane l).record.farEdge →
        g.flags &&& defTrimClamped =
          (match j.defn.trim with
            | some (n, f) =>
              if (s.lane l).record.farEdge < (s.lane l).record.nearEdge + n ∨
                  (s.lane l).record.farEdge < (s.lane l).record.nearEdge + f then defTrimClamped
              else 0#12
            | none => 0#12)) ∧
      (∃ j', t.slot i = some j' ∧ j'.defn = j.defn ∧ j'.inUse ≤ j.inUse + 1 ∧
        j'.remaining = (if j.defn.copies = 0 then j.remaining else j.remaining - 1) ∧
        j'.state = (if j.defn.copies ≠ 0 ∧ j.remaining ≤ 1 then .exhausted else .loaded) ∧
        j'.registered = min (j.registered + 1) 65535) ∧
      ((s.lane l).segs = [] →
        t.slot i =
          some { j with
            remaining := if j.defn.copies = 0 then j.remaining else j.remaining - 1
            state := if j.defn.copies ≠ 0 ∧ j.remaining ≤ 1 then .exhausted else .loaded
            registered := min (j.registered + 1) 65535
            inUse := j.inUse + 1 })

/-- A CUE at or after the expected tail of an OPEN newest segment closes that segment first, its remaining expected marks missed,
counted and flagged; the closing stands whatever the later steps decide: not strictly after the segment's cue it is then stray,
refused by the Job Table it is counted with CUE_REFUSED, without room it is counted with NO_ROOM, and otherwise it registers (R53
to R57, R59, R60). With unfinished work the segment stays in the map, CLOSED; with none it retires in this event, and the later
steps find the map without it (R87). -/
def Obligations.CueClosesOpenSegment : Prop :=
  (∀ (s : State) (l : Lane) (tag : Byte) (c : Word32) (r : Reference) (older : List Segment) (g : Segment) (m : NextMark),
    s.tracker.mode ≠ .noDatum → s.tracker.mode ≠ .lost → s.tracker.debt = 0 → s.tracker.reference = some r →
    (sdiff r.count c).natAbs ≤ 65535 → (s.lane l).mode = .running → tag ≠ 0#8 → tag ≠ 255#8 →
    (s.lane l).segs = older ++ [g] → (∀ h ∈ older, h.id ≠ g.id) → g.state = .opened → g.next = some m → 0 < g.unfinished →
    (let p := markAt s.tracker.pEnc (sdiff r.count c) s.setup.k
     reaches p (expectedTail (s.jobOf g) g - pu (s.lane l).record.markTol) = true →
     ∃ t, exec (.markConversion l .cue tag c) s = .next t ∧
       let k :=
         (match m with | .pitch i => (s.jobOf g).pitches.length - i | .tail => 0) + (if (s.jobOf g).tail then 1 else 0)
       let closed := s.modLane l (fun x =>
         { x with
           segs := older ++
             [{ g with state := .closed, next := none, flags := if k = 0 then g.flags else g.flags ||| defMarkMissed }]
           missedMarks := if k = 0 then x.missedMarks else min (x.missedMarks + k) 65535 })
       let u := if k = 0 then closed else raise prioMarkMissed closed
       let refused :=
         raise prioCueRefused (u.modLane l (fun x => { x with cuesRefused := min (x.cuesRefused + 1) 65535 }))
       (precedes g.pCue p = false →
         EndOfEvent (u.modLane l (fun x => { x with strayMarks := min (x.strayMarks + 1) 65535 })) t) ∧
       (precedes g.pCue p = true →
         (s.holding tag = none → EndOfEvent refused t) ∧
         (∀ i j, s.holding tag = some i → s.slot i = some j →
           (laneAdmits j.defn.lane l = false ∨ j.state = .exhausted → EndOfEvent refused t) ∧
           (laneAdmits j.defn.lane l = true → j.state = .loaded →
             (¬roomFor l j.defn s →
               EndOfEvent
                 (raise prioNoRoom (u.modLane l (fun x => { x with noRoom := min (x.noRoom + 1) 65535 }))) t) ∧
             (roomFor l j.defn s → (∀ h ∈ (s.lane l).segs, h.id < s.nextSeg) →
               (t.lane l).missedMarks = (closed.lane l).missedMarks ∧
               (0 < k → attnHas t.mgmt.flags prioMarkMissed = true) ∧
               ∃ n, newest (t.lane l) = some n ∧ n.tag = tag ∧ n.slot = i ∧ n.pCue = p ∧ n.state = .opened)))))) ∧
  (∀ (s : State) (l : Lane) (tag : Byte) (c : Word32) (r : Reference) (older : List Segment) (g : Segment) (m : NextMark),
    s.tracker.mode ≠ .noDatum → s.tracker.mode ≠ .lost → s.tracker.debt = 0 → s.tracker.reference = some r →
    (sdiff r.count c).natAbs ≤ 65535 → (s.lane l).mode = .running → tag ≠ 0#8 → tag ≠ 255#8 →
    (s.lane l).segs = older ++ [g] → (∀ h ∈ older, h.id ≠ g.id) → g.state = .opened → g.next = some m → g.unfinished = 0 →
    (let p := markAt s.tracker.pEnc (sdiff r.count c) s.setup.k
     reaches p (expectedTail (s.jobOf g) g - pu (s.lane l).record.markTol) = true →
     ∃ t, exec (.markConversion l .cue tag c) s = .next t ∧
       let k :=
         (match m with | .pitch i => (s.jobOf g).pitches.length - i | .tail => 0) + (if (s.jobOf g).tail then 1 else 0)
       let h := { g with state := .closed, next := none, flags := if k = 0 then g.flags else g.flags ||| defMarkMissed }
       let left :=
         { s.modLane l (fun x => { x with segs := older }) with
           nip := { s.nip with zones := s.nip.zones.filter (fun e => !(decide (e.lane = l) && decide (e.seg = g.id))) } }
       let refused :=
         Retired l h s t ∧ (t.lane l).cuesRefused = min ((s.lane l).cuesRefused + 1) 65535 ∧
           attnHas t.mgmt.flags prioCueRefused = true
       (t.lane l).missedMarks = (if k = 0 then (s.lane l).missedMarks else min ((s.lane l).missedMarks + k) 65535) ∧
       (0 < k → attnHas t.mgmt.flags prioMarkMissed = true) ∧
       (precedes g.pCue p = false →
         Retired l h s t ∧ (t.lane l).strayMarks = min ((s.lane l).strayMarks + 1) 65535) ∧
       (precedes g.pCue p = true →
         (s.holding tag = none → refused) ∧
         (∀ i j, s.holding tag = some i → s.slot i = some j →
           (laneAdmits j.defn.lane l = false ∨ j.state = .exhausted → refused) ∧
           (laneAdmits j.defn.lane l = true → j.state = .loaded →
             (¬roomFor l j.defn left →
               Retired l h s t ∧ (t.lane l).noRoom = min ((s.lane l).noRoom + 1) 65535 ∧
                 attnHas t.mgmt.flags prioNoRoom = true) ∧
             (roomFor l j.defn left → (∀ h ∈ (s.lane l).segs, h.id < s.nextSeg) →
               (∀ x ∈ (t.lane l).segs, x.id ≠ g.id) ∧ (∀ e ∈ t.nip.zones, ¬(e.lane = l ∧ e.seg = g.id)) ∧
               ∃ n, newest (t.lane l) = some n ∧ n.tag = tag ∧ n.slot = i ∧ n.pCue = p ∧ n.state = .opened))))))

/-- What a registration plans (R81 to R84, R148, R150 to R152, R155, R158), seen while the lane's cutter is BUSY with no head late beyond
its tolerance, its trim station BUSY or not configured, and LAM not READY, so that no issue test takes anything out again: a CUT
for each offset of the cut list, in target order; a zone entry for each zone where LAM is configured, else LAM_SHORT for a
REQUIRED one; and, where the job's trim need differs from the knife plan of a configured trim station, one MOVE or PARK, with the
knife plan, the lateral reference, the pending knife action and the move record that go with it, its target the latest of the last
cut of the copy before, or the web at the knives, and the targets queued. The segment's unfinished work counts these actions. Its
trim watch opens WAITING on its own action, or on a hit on the pending one, and ENDED where there is none, at an unconfigured
station, or for a single cut; such a station has a job with trim flagged TRIM_SHORT at once, its whole region long (R155, R158). -/
def Obligations.RegistrationPlansWork : Prop :=
  ∀ (s : State) (l : Lane) (tag : Byte) (c : Word32) (r : Reference) (i : Nat) (j : JobRecord),
    s.tracker.mode ≠ .noDatum → s.tracker.mode ≠ .lost → s.tracker.debt = 0 → s.tracker.reference = some r →
    (sdiff r.count c).natAbs ≤ 65535 → (s.lane l).mode = .running → tag ≠ 0#8 → tag ≠ 255#8 →
    s.holding tag = some i → s.slot i = some j → laneAdmits j.defn.lane l = true → j.state = .loaded →
    roomFor l j.defn s → (∀ h ∈ (s.lane l).segs, h.id < s.nextSeg) →
    (let p := markAt s.tracker.pEnc (sdiff r.count c) s.setup.k
     let at' := fun x => webCoord p 0 (s.lane l).stretch x
     let cutAt := fun x : Nat =>
       ({ kind := .cut, owner := some s.nextSeg, key := s.nextSeg, offset := x, target := at' x, near := 0, far := 0 } : Action)
     let need := trimNeed (s.lane l).record j.defn
     (∀ h, newest (s.lane l) = some h → h.state = .closed ∧
       reaches p (expectedTail (s.jobOf h) h - pu (s.lane l).record.markTol) = true ∧ precedes h.pCue p = true) →
     (s.station (cutterOf l)).mode = .busy →
     (∀ a ∈ (s.lane l).cutQueue ++ j.defn.cuts.map cutAt,
       -toGo (cutterOf l) a.target s ≤ ((recordOr (s.station (cutterOf l))).tol : Int)) →
     ((s.station (trimmerOf l)).mode = .busy ∨ (s.station (trimmerOf l)).configured = false) → s.lam.mode ≠ .ready →
     ∃ t g, exec (.markConversion l .cue tag c) s = .next t ∧ newest (t.lane l) = some g ∧ g.id = s.nextSeg ∧
       (t.lane l).cutQueue.Perm ((s.lane l).cutQueue ++ j.defn.cuts.map cutAt) ∧
       (∀ x, CoordOf p 0 (s.lane l).stretch x (at' x)) ∧ NeedsKnife (s.lane l).record j.defn need ∧
       ((∀ a ∈ (s.lane l).cutQueue ++ j.defn.cuts.map cutAt, (sdiff a.target s.tracker.p).natAbs < 1073741824) →
         (s.lane l).cutQueue.Pairwise (fun a b => precedes b.target a.target = false) →
         (t.lane l).cutQueue.Pairwise (fun a b => precedes b.target a.target = false)) ∧
       (s.lam.configured = true →
         t.nip.zones = s.nip.zones ++
           j.defn.zones.zipIdx.map (fun z =>
             { lane := l, seg := s.nextSeg, number := z.2, mode := z.1.mode, x1 := z.1.x1, x2 := z.1.x2, a := at' z.1.x1
               b := at' z.1.x2 })) ∧
       (s.lam.configured = false →
         t.nip.zones = s.nip.zones ∧
         ((∃ z ∈ j.defn.zones, z.mode = .required) → g.flags &&& defLamShort = defLamShort)) ∧
       (knifeNeeded l j.defn s = true →
         let due := match newest (s.lane l) with
           | some h => h.coord ((s.jobOf h).cuts.getLastD 0)
           | none => s.tracker.p - pu (recordOr (s.station (trimmerOf l))).dist
         g.unfinished = j.defn.cuts.length + 1 ∧
         g.watch =
           { watched := some s.nextSeg, state := if 1 < j.defn.cuts.length then .waiting else .ended, moving := false } ∧
         g.trimShort = 0 ∧ g.flags &&& defTrimShort = 0#12 ∧ (t.lane l).knifePlan = need ∧
         (t.lane l).pendingKnife = some s.nextSeg ∧ (t.lane l).moves = (s.lane l).moves ++ [(s.nextSeg, (s.lane l).lateral)] ∧
         (t.lane l).lateral = (match need with | .pair n f => some (n, f) | _ => (s.lane l).lateral) ∧
         ∃ a : Action, (t.lane l).trimQueue.Perm ((s.lane l).trimQueue ++ [a]) ∧ a.owner = some s.nextSeg ∧
           a.key = s.nextSeg ∧ a.target ∈ due :: (s.lane l).trimQueue.map (fun b => b.target) ∧
           ((∀ x ∈ due :: (s.lane l).trimQueue.map (fun b => b.target), (sdiff x s.tracker.p).natAbs < 1073741824) →
             (∀ x ∈ due :: (s.lane l).trimQueue.map (fun b => b.target), precedes a.target x = false) ∧
             (t.lane l).trimQueue = (s.lane l).trimQueue ++ [a]) ∧
           (match need with
             | .pair n f => a.kind = .move ∧ a.near = n ∧ a.far = f
             | _ => a.kind = .park)) ∧
       (knifeNeeded l j.defn s = false →
         g.unfinished = j.defn.cuts.length ∧ (t.lane l).trimQueue = (s.lane l).trimQueue ∧
         (t.lane l).knifePlan = (s.lane l).knifePlan ∧ (t.lane l).pendingKnife = (s.lane l).pendingKnife ∧
         (t.lane l).moves = (s.lane l).moves ∧ (t.lane l).lateral = (s.lane l).lateral ∧
         ((s.station (trimmerOf l)).configured = true →
           g.watch =
             { watched := (s.lane l).pendingKnife
               state := if (s.lane l).pendingKnife ≠ none ∧ 1 < j.defn.cuts.length then .waiting else .ended
               moving := false } ∧
           g.trimShort = 0 ∧ g.flags &&& defTrimShort = 0#12) ∧
         ((s.station (trimmerOf l)).configured = false →
           g.watch = { watched := none, state := .ended, moving := false } ∧
           (j.defn.trim = none → g.trimShort = 0 ∧ g.flags &&& defTrimShort = 0#12) ∧
           (j.defn.trim ≠ none →
             g.trimShort = (at' (j.defn.cuts.getLastD 0) - at' (j.defn.cuts.headD 0)).toNat ∧
             g.flags &&& defTrimShort = defTrimShort ∧ attnHas t.mgmt.flags prioTrimShort = true))))

/-- A PITCH mark within MARK_TOL of the next expected mark of the open segment re-anchors it there; over at least MIN_BASE it
sets s_seg and s_lane, and below it neither changes; the next expectation follows. Its PLANNED cuts and its zone entries take the
coordinates of the new anchor and stretch, and the nip plan is recomputed, whether or not the segment owns an entry, the owners of a
conflict's losers flagged (R58, R62 to R64, R86, R129, R131). That a re-anchoring recomputes before the issue tests is the model's
choice (notes/assumptions/48.md, DESIGN CHOICE). -/
def Obligations.PitchMarkReanchors : Prop :=
  ∀ (s : State) (l : Lane) (tag : Byte) (c : Word32) (r : Reference) (older : List Segment) (g : Segment) (i : Nat),
    s.tracker.mode ≠ .noDatum → s.tracker.mode ≠ .lost → s.tracker.debt = 0 → s.tracker.reference = some r →
    (sdiff r.count c).natAbs ≤ 65535 → (s.lane l).mode ≠ .disabled →
    (s.lane l).segs = older ++ [g] → (∀ h ∈ older, h.id ≠ g.id) → g.state = .opened → g.next = some (.pitch i) →
    (sdiff (markAt s.tracker.pEnc (sdiff r.count c) s.setup.k) (g.coord (markOffset (s.jobOf g) (.pitch i)))).natAbs ≤
      (s.lane l).record.markTol →
    ∃ t g', exec (.markConversion l .pitch tag c) s = .next t ∧ newest (t.lane l) = some g' ∧ g'.id = g.id ∧
      let x := markOffset (s.jobOf g) (.pitch i)
      let p := markAt s.tracker.pEnc (sdiff r.count c) s.setup.k
      let dx : Int := (x : Int) - g.anchorX
      let meas := clampStretch (roundHalfAway (1000000 * (sdiff p g.anchorP - dx)) dx.toNat)
      let new := clampStretch (g.stretch + truncDiv ((meas - g.stretch) * (s.lane l).record.gain) 16)
      g'.anchorP = p ∧ g'.anchorX = x ∧ g'.pCue = g.pCue ∧ g'.ordinal = g.ordinal ∧ g'.state = .opened ∧
      g'.next = some (if i + 1 < (s.jobOf g).pitches.length then .pitch (i + 1) else .tail) ∧
      (10000 ≤ dx → g'.stretch = new ∧ (t.lane l).stretch = new) ∧
      (dx < 10000 → g'.stretch = g.stretch ∧ (t.lane l).stretch = (s.lane l).stretch) ∧
      (∀ x, CoordOf g'.anchorP g'.anchorX g'.stretch x (g'.coord x)) ∧
      (∀ a ∈ (t.lane l).cutQueue, a.owner = some g.id → a.target = g'.coord a.offset) ∧
      (∀ e ∈ t.nip.zones, e.lane = l → e.seg = g.id → e.a = g'.coord e.x1 ∧ e.b = g'.coord e.x2) ∧
      t.nip.plan = planOf (banned t.web) t.setup.policy t.setup.bridge t.nip.zones ∧
      ((∀ e ∈ s.nip.zones, ¬(e.lane = l ∧ e.seg = g.id)) → hasConflict (banned s.web) s.nip.zones = true →
        attnHas t.mgmt.flags prioLamConflict = true) ∧ LosersFlagged t

/-- A TAIL mark within MARK_TOL of the open segment's expected tail re-anchors it there, sets s_seg and s_lane over at least
MIN_BASE, recomputes the nip plan, and closes it. Its PLANNED cuts and its zone entries take the coordinates of the new anchor and
stretch. With no unfinished work left it leaves the map, and with some it stays, CLOSED, its zone entries in the list, where no cut of
the lane is given up in the event: with an empty cut queue, or at a READY or BUSY cutter with no cut late beyond its tolerance under
the new coordinates. At a BUSY one, or with no cut due yet, every cut stays in the queue, in target order (R58, R60, R62 to R64, R86,
R87, R106, R129). -/
def Obligations.TailMarkCloses : Prop :=
  ∀ (s : State) (l : Lane) (tag : Byte) (c : Word32) (r : Reference) (older : List Segment) (g : Segment),
    s.tracker.mode ≠ .noDatum → s.tracker.mode ≠ .lost → s.tracker.debt = 0 → s.tracker.reference = some r →
    (sdiff r.count c).natAbs ≤ 65535 → (s.lane l).mode ≠ .disabled →
    (s.lane l).segs = older ++ [g] → (∀ h ∈ older, h.id ≠ g.id) → g.state = .opened → g.next = some .tail →
    (s.jobOf g).tail = true →
    (sdiff (markAt s.tracker.pEnc (sdiff r.count c) s.setup.k) (g.coord (s.jobOf g).lNom)).natAbs ≤
      (s.lane l).record.markTol →
    ∃ t, exec (.markConversion l .tail tag c) s = .next t ∧
      let x := (s.jobOf g).lNom
      let p := markAt s.tracker.pEnc (sdiff r.count c) s.setup.k
      let dx : Int := (x : Int) - g.anchorX
      let meas := clampStretch (roundHalfAway (1000000 * (sdiff p g.anchorP - dx)) dx.toNat)
      let new := clampStretch (g.stretch + truncDiv ((meas - g.stretch) * (s.lane l).record.gain) 16)
      (t.lane l).stretch = (if 10000 ≤ dx then new else (s.lane l).stretch) ∧ t.tracker = s.tracker ∧
      (∀ h ∈ (t.lane l).segs, h.id = g.id →
        h.state = .closed ∧ h.next = none ∧ 0 < h.unfinished ∧ h.anchorP = p ∧ h.anchorX = x ∧ h.pCue = g.pCue ∧
          h.stretch = (if 10000 ≤ dx then new else g.stretch)) ∧
      ((s.lane l).cutQueue = [] → 0 < g.unfinished →
        ∃ h, newest (t.lane l) = some h ∧ h.id = g.id ∧ h.state = .closed ∧ h.next = none ∧ h.unfinished = g.unfinished ∧
          h.anchorP = p ∧ h.anchorX = x ∧ h.pCue = g.pCue ∧ h.stretch = (if 10000 ≤ dx then new else g.stretch)) ∧
      ((s.lane l).cutQueue = [] → g.unfinished = 0 → ∀ h ∈ (t.lane l).segs, h.id ≠ g.id) ∧
      t.nip.plan = planOf (banned t.web) t.setup.policy t.setup.bridge t.nip.zones ∧ LosersFlagged t ∧
      (let stretch := if 10000 ≤ dx then new else g.stretch
       let at' := fun y : Nat => webCoord p x stretch y
       let cuts := (s.lane l).cutQueue.map (fun a => if a.owner = some g.id then { a with target := at' a.offset } else a)
       (∀ y, CoordOf p x stretch y (at' y)) ∧
       (∀ a ∈ (t.lane l).cutQueue, a.owner = some g.id → a.target = at' a.offset) ∧
       (∀ e ∈ t.nip.zones, e.lane = l → e.seg = g.id → e.a = at' e.x1 ∧ e.b = at' e.x2) ∧
       ((s.station (cutterOf l)).mode = .ready ∨ (s.station (cutterOf l)).mode = .busy →
         (∀ a ∈ cuts, -toGo (cutterOf l) a.target s ≤ ((recordOr (s.station (cutterOf l))).tol : Int)) →
         (g.unfinished = 0 → ∀ h ∈ (t.lane l).segs, h.id ≠ g.id) ∧
         (0 < g.unfinished →
           (∃ h, newest (t.lane l) = some h ∧ h.id = g.id ∧ h.state = .closed ∧ h.next = none ∧
             h.unfinished = g.unfinished ∧ h.anchorP = p ∧ h.anchorX = x ∧ h.pCue = g.pCue ∧ h.stretch = stretch) ∧
           t.nip.zones =
             s.nip.zones.map (fun e =>
               if e.lane = l ∧ e.seg = g.id then { e with a := at' e.x1, b := at' e.x2 } else e)) ∧
         ((s.station (cutterOf l)).mode = .busy ∨
             (∀ a ∈ cuts, ((s.tracker.speed * s.setup.horizon : Nat) : Int) < toGo (cutterOf l) a.target s * 256000) →
           (t.lane l).cutQueue.Perm cuts ∧
           ((∀ a ∈ cuts, (sdiff a.target s.tracker.p).natAbs < 1073741824) →
             (t.lane l).cutQueue.Pairwise (fun a b => precedes b.target a.target = false)))))

/-- WINDOW_EXPIRY: P has passed the window of the open segment's next expected mark. A missed PITCH is counted, flagged and
followed by the next expectation; a passed TAIL closes the segment, counted where the job has a tail mark (R59, R60). With
unfinished work the segment stays in the map, CLOSED; with none it retires in the closing, and the segment before it, or none, is
the newest one that a cue which follows is tested against (R53, R87). That the cue is not tested against the retired segment, as
R61's sentence has it, is the model's choice (notes/assumptions/45.md, DESIGN CHOICE). -/
def Obligations.WindowExpiryMisses : Prop :=
  ∀ (s : State) (l : Lane) (g : Segment), openSeg (s.lane l) = some g →
    (∀ i, g.next = some (.pitch i) →
      windowPassed (s.jobOf g) (s.lane l).record.markTol s.tracker.p g (.pitch i) = true →
      windowPassed (s.jobOf g) (s.lane l).record.markTol s.tracker.p g (afterPitch (s.jobOf g) i) = false →
      ∃ t, exec (.windowExpiry l) s = .next t ∧ attnHas t.mgmt.flags prioMarkMissed = true ∧
        t.lane l =
          { s.lane l with
            segs := (s.lane l).segs.map (fun h =>
              if h.id = g.id then { h with flags := h.flags ||| defMarkMissed, next := some (afterPitch (s.jobOf g) i) } else h)
            missedMarks := min ((s.lane l).missedMarks + 1) 65535 }) ∧
    (g.next = some .tail → (∀ h ∈ (s.lane l).segs, h.id = g.id → 0 < h.unfinished) →
      windowPassed (s.jobOf g) (s.lane l).record.markTol s.tracker.p g .tail = true →
      ∃ t, exec (.windowExpiry l) s = .next t ∧
        t.lane l =
          { s.lane l with
            segs := (s.lane l).segs.map (fun h =>
              if h.id = g.id then
                { h with
                  flags := if (s.jobOf g).tail then h.flags ||| defMarkMissed else h.flags
                  state := .closed
                  next := none }
              else h)
            missedMarks :=
              if (s.jobOf g).tail then min ((s.lane l).missedMarks + 1) 65535 else (s.lane l).missedMarks }) ∧
    (∀ older, (s.lane l).segs = older ++ [g] → (∀ h ∈ older, h.id ≠ g.id) → g.next = some .tail → g.unfinished = 0 →
      windowPassed (s.jobOf g) (s.lane l).record.markTol s.tracker.p g .tail = true →
      ∃ t, exec (.windowExpiry l) s = .next t ∧
        Retired l
          { g with
            flags := if (s.jobOf g).tail then g.flags ||| defMarkMissed else g.flags
            state := .closed
            next := none } s t ∧
        (newest (t.lane l)).map (fun x => (x.id, x.pCue, x.state)) =
          older.getLast?.map (fun x => (x.id, x.pCue, x.state)) ∧
        (t.lane l).missedMarks =
          (if (s.jobOf g).tail then min ((s.lane l).missedMarks + 1) 65535 else (s.lane l).missedMarks) ∧
        ((s.jobOf g).tail = true → attnHas t.mgmt.flags prioMarkMissed = true))

/-! ## Web events -/

/-- POS_SAMPLE_FLAGS: presence clears the accumulator and the latch, absence keeps them; a splice flag that rises records
P + SPLICE_DIST and flags the segments whose spans contain it, or counts where it cannot be recorded (R164, R169, R171,
R173). ROLL_DESCRIPTOR: refused with ROLL_REFUSED while a map holds a segment; otherwise it becomes the media profile, seeds both
lanes' stretch, and raises the width warning where a RUNNING lane reaches beyond the roll (R166, R167). -/
def Obligations.WebInputsTaken : Prop :=
  (∀ (s : State) (present splice : Bool),
      ∃ t, exec (.posSampleFlags present splice) s = .next t ∧ t.web.present = present ∧ t.web.spliceFlag = splice ∧
        t.web.absence = (if present then 0 else s.web.absence) ∧ t.web.broken = (if present then false else s.web.broken) ∧
        t.web.profile = s.web.profile ∧ t.tracker = s.tracker ∧ t.nip = s.nip ∧ t.mgmt.flags = s.mgmt.flags ∧
        (splice = false ∨ s.web.spliceFlag = true ∨ s.setup.spliceDist = 0 →
          t.web.splices = s.web.splices ∧ t.web.unrecorded = s.web.unrecorded ∧ t.laneA = s.laneA ∧ t.laneB = s.laneB) ∧
        (splice = true → s.web.spliceFlag = false → s.setup.spliceDist ≠ 0 →
          (s.tracker.mode = .noDatum ∨ s.tracker.mode = .lost ∨ 4 ≤ s.web.splices.length →
            t.web.splices = s.web.splices ∧ t.web.unrecorded = min (s.web.unrecorded + 1) 65535 ∧ t.laneA = s.laneA ∧
              t.laneB = s.laneB) ∧
          (s.tracker.mode ≠ .noDatum → s.tracker.mode ≠ .lost → s.web.splices.length < 4 →
            let x := s.tracker.p + BitVec.ofNat 32 s.setup.spliceDist
            t.web.splices = s.web.splices ++ [x] ∧ t.web.unrecorded = s.web.unrecorded ∧
              ∀ l, t.lane l =
                { s.lane l with
                  segs := (s.lane l).segs.map (fun g =>
                    if reaches x g.pCue && reaches (g.coord (s.jobOf g).lNom) x then { g with flags := g.flags ||| defSpliced } else g) }))) ∧
  (∀ (s : State) (m : MediaClass) (width thickness stretch : BitVec 16) (laminate : Bool),
      1 ≤ width.toNat → width.toNat ≤ 32000 →
      ∃ t, exec (.rollDescriptor m width thickness stretch laminate) s = .next t ∧
        (s.laneA.segs ≠ [] ∨ s.laneB.segs ≠ [] →
          EndOfEvent (raise prioRollRefused s) t) ∧
        (s.laneA.segs = [] → s.laneB.segs = [] →
          t.web.profile =
            some { media := m, width := width, thickness := thickness, stretch := stretch, laminate := laminate } ∧
          t.laneA = { s.laneA with stretch := clampStretch stretch.toInt } ∧
          t.laneB = { s.laneB with stretch := clampStretch stretch.toInt } ∧
          t.tracker = s.tracker ∧
          ((∃ l, (s.lane l).mode = .running ∧ width.toNat < (s.lane l).record.farEdge) →
            attnHas t.mgmt.flags prioRollRefused = true)))

/-- WEB_BREAK, where it is due: every segment of both maps is spoiled, lane A's first and oldest first, its PLANNED actions
cancelled, its ISSUED ones orphans, its zone entries gone and its report appended; both lanes are DISABLED, the profile is ABSENT,
the splice list empty, the accumulator 0 and the latch set, WEB_BREAK is set, and a nip commanded CLOSED with a READY LAM is
released (R74, R90, R91, R118, R137, R170). -/
def Obligations.WebBreakSpoilsBothLanes : Prop :=
  ∀ s : State, s.web.present = false → s.web.broken = false → s.setup.db ≤ s.web.absence →
    ∃ t, exec .webBreak s = .next t ∧
      t.web = { s.web with absence := 0, broken := true, profile := none, splices := [] } ∧
      (∀ l, LaneSpoiled l s t) ∧ t.nip.zones = s.nip.zones.filter (fun e => !inMap (s.lane e.lane) e.seg) ∧
      attnHas t.mgmt.flags prioWebBreak = true ∧ t.tracker = s.tracker ∧
      ((s.laneA.segs ++ s.laneB.segs).length + s.mgmt.reports.length ≤ 16 → ownRoom s < 2 →
        (∀ l, (s.lane l).trimQueue = [] ∧ ((s.lane l).segs.map (fun g => g.id)).Nodup) →
        t.mgmt.reports = s.mgmt.reports ++
          (s.laneA.segs.map (spoiledReport .a .webBreak) ++ s.laneB.segs.map (spoiledReport .b .webBreak))) ∧
      ((∀ e ∈ s.nip.zones, inMap (s.lane e.lane) e.seg = true) → s.nip.commanded = .closed → s.lam.mode = .ready →
        s.tracker.speed ≤ 256000 → (recordOr s.lam).latency ≤ 200000 →
        t.nip.commanded = .opened ∧ t.lam.mode = .busy ∧ t.nip.plan = [] ∧ t.nip.offer = none)

/-- ZONE_PASSING removes exactly the zone entries whose end precedes λ (R126). A REQUIRED entry that passes while the nip is not
commanded CLOSED, an ENGAGE is offered and not issued, and the plan holds a stretch for it, flags its segment LAM_SHORT where its
own ENGAGE has not been issued; an entry passing while the nip is commanded CLOSED is not flagged (R139). That an entry's own ENGAGE
is missing where none was noted for it, or where its end lies beyond the decided point, is read from the spec by inference
(notes/assumptions/10.md, DEDUCED). SPLICE_PASSED removes exactly the splice entries that P has passed (R174). -/
def Obligations.PassedEntriesLeave : Prop :=
  ∀ s : State,
    (∃ t, exec .zonePassing s = .next t ∧
      t.nip.zones = s.nip.zones.filter (fun e => !precedes e.b (s.tracker.p - pu (recordOr s.lam).dist)) ∧
      t.tracker = s.tracker ∧ t.web = s.web ∧
      (∀ e o, e ∈ s.nip.zones → precedes e.b (s.tracker.p - pu (recordOr s.lam).dist) = true → e.mode = .required →
        s.nip.commanded ≠ .closed → s.nip.offer = some o → o.kind = .engage → (∃ x ∈ s.nip.plan, e.stretch.overlaps x = true) →
        (e.key ∉ s.nip.begun ∨ ∀ h, s.nip.decided = some h → precedes h e.b = true) →
        ∀ g ∈ (s.lane e.lane).segs, g.id = e.seg →
          ∃ g' ∈ (t.lane e.lane).segs, g'.id = g.id ∧ g'.flags &&& defLamShort = defLamShort) ∧
      (s.nip.commanded = .closed → s.lam.mode ≠ .ready → hasConflict (banned s.web) t.nip.zones = false →
        ∀ l, t.lane l = s.lane l)) ∧
    (∃ t, exec .splicePassed s = .next t ∧
      EndOfEvent
        { s with web := { s.web with splices := s.web.splices.filter (fun x => !precedes x s.tracker.p) } } t)

/-! ## Stations -/

/-- ACTION_ISSUE at a READY cutter whose head is due and not beyond its tolerance: the cut takes the next id and the station, its
ACT frame is queued urgent, its timeout starts, and a late one is recorded on its segment; at a DOWN south port the ACT frame is
lost as a forward drop, and the action issued all the same. While the tracker is ESTIMATED or HOLDING the segment is flagged
ESTIMATED, and else not (R105, R106, R108, R116, R179). At a READY trim station whose head is due, however late: as for a cut, with
the move estimate in the timeout (R107, R153). That a PARK takes
settle alone in every case, R154 and R159 notwithstanding, is the model's choice (notes/assumptions/43.md, DESIGN CHOICE). What is
still to go before the fire point, and the fire delay, are as R104 and R105 form them, for every station. -/
def Obligations.DueHeadIssued : Prop :=
  (∀ (s : State) (st : Station) (target : Word32) (r : Int),
      toGo st target s =
        sdiff
          (target + BitVec.ofNat 32 (recordOr (s.station st)).dist -
            BitVec.ofNat 32 ((s.tracker.speed * (recordOr (s.station st)).latency + 128000) / 256000))
          s.tracker.p ∧
      fireDelay r s.tracker.speed s.setup.horizon =
        (if s.tracker.speed = 0 ∨ r < 0 then 0 else min s.setup.horizon (r.toNat * 256000 / s.tracker.speed))) ∧
  (∀ (s : State) (l : Lane) (act : Action) (rest : List Action),
      (s.lane l).cutQueue = act :: rest → (s.station (cutterOf l)).mode = .ready →
      toGo (cutterOf l) act.target s * 256000 ≤ ((s.tracker.speed * s.setup.horizon : Nat) : Int) →
      -toGo (cutterOf l) act.target s ≤ ((recordOr (s.station (cutterOf l))).tol : Int) →
      ∃ t, exec (.actionIssue (cutterOf l)) s = .next t ∧
        let id := if s.lastId = 65535#16 then 1#16 else s.lastId + 1#16
        let r := toGo (cutterOf l) act.target s
        let delay := fireDelay r s.tracker.speed s.setup.horizon
        let rec' := recordOr (s.station (cutterOf l))
        t.lastId = id ∧ (t.lane l).cutQueue = rest ∧
        t.station (cutterOf l) =
          { s.station (cutterOf l) with
            mode := .busy
            outstanding := some { act := act, id := id, orphan := false, timeout := rec'.timeout + ceilDiv delay 1000 } } ∧
        (s.south.up = true →
          t.south =
            SouthPort.start
              { s.south with
                urgent := s.south.urgent ++
                  [{ dst := rec'.addr, src := s.nodeAddr, kind := 0x30#8, payload := actBytes id act delay }] }) ∧
        (s.south.up = false →
          t.south = { s.south with fwdDrops := min (s.south.fwdDrops + 1) 65535 } ∧
            attnHas t.mgmt.flags prioLinkError = true) ∧
        (∀ k g, act.owner = some k → s.seg? l k = some g →
          ∃ g', t.seg? l k = some g' ∧
            g'.flags &&& defEstimated =
              (if s.tracker.mode = .estimated ∨ s.tracker.mode = .holding then defEstimated else g.flags &&& defEstimated)) ∧
        (r < 0 → ∀ k g, act.owner = some k → s.seg? l k = some g →
          ∃ g', t.seg? l k = some g' ∧ g'.cutsLate = g.cutsLate + 1 ∧ g'.lateness = max g.lateness (-r).toNat ∧
            g'.flags &&& defCutLate = defCutLate) ∧
        t.tracker = s.tracker ∧ t.nip = s.nip ∧ t.web = s.web ∧ t.jobs = s.jobs) ∧
  (∀ (s : State) (l : Lane) (act : Action) (rest : List Action),
      (s.lane l).trimQueue = act :: rest → (s.station (trimmerOf l)).mode = .ready →
      toGo (trimmerOf l) act.target s * 256000 ≤ ((s.tracker.speed * s.setup.horizon : Nat) : Int) →
      ∃ t, exec (.actionIssue (trimmerOf l)) s = .next t ∧
        let id := if s.lastId = 65535#16 then 1#16 else s.lastId + 1#16
        let delay := fireDelay (toGo (trimmerOf l) act.target s) s.tracker.speed s.setup.horizon
        let rec' := recordOr (s.station (trimmerOf l))
        t.lastId = id ∧ (t.lane l).trimQueue = rest ∧ (t.lane l).cutQueue = (s.lane l).cutQueue ∧
        t.station (trimmerOf l) =
          { s.station (trimmerOf l) with
            mode := .busy
            outstanding :=
              some { act := act, id := id, orphan := false,
                     timeout :=
                       rec'.timeout + ceilDiv delay 1000 +
                         (if act.kind = .move then
                           rec'.settle +
                             ceilDiv
                               ((match fromOf (s.lane l).moves act.key with
                                 | some (n, f) => max (max act.near n - min act.near n) (max act.far f - min act.far f)
                                 | none => 32000) * 1000) rec'.knifeSpeed
                         else rec'.settle) } } ∧
        (s.south.up = true →
          t.south =
            SouthPort.start
              { s.south with
                urgent := s.south.urgent ++
                  [{ dst := rec'.addr, src := s.nodeAddr, kind := 0x30#8, payload := actBytes id act delay }] }) ∧
        (s.south.up = false →
          t.south = { s.south with fwdDrops := min (s.south.fwdDrops + 1) 65535 } ∧
            attnHas t.mgmt.flags prioLinkError = true) ∧
        (∀ k g, act.owner = some k → s.seg? l k = some g →
          ∃ g', t.seg? l k = some g' ∧
            g'.flags &&& defEstimated =
              (if s.tracker.mode = .estimated ∨ s.tracker.mode = .holding then defEstimated else g.flags &&& defEstimated)) ∧
        t.tracker = s.tracker ∧ t.nip = s.nip ∧ t.web = s.web ∧ t.jobs = s.jobs)

/-- ACTION_ISSUE of LAM's due offer: the commanded state becomes the one the transition leaves, the transition is recorded
PENDING, h becomes the later of h and its target, the release request is cleared, and LAM is BUSY with it; its ACT frame is queued
urgent, or lost as a forward drop at a DOWN south port (R107, R108, R135, R179). An
ENGAGE whose closing point lies more than TOL after its wanted-from point flags LAM_SHORT on every owner of a REQUIRED entry that
overlaps the missed stretch (R138). An ENGAGE with the temperature out of window sets LAM_TEMP and flags it on every owner of a
REQUIRED entry that overlaps the closed stretch begun (R143); that a corrective target at the very end of a stretch does not begin
it is read from the spec by inference (notes/assumptions/27.md, DEDUCED), and that where it lies before the stretch at the planning
origin the stretch begun is still the one that contains it, if any, is the model's choice (notes/assumptions/49.md, DESIGN CHOICE).
Those entries are noted as having had their ENGAGE, which is the model's form of R139's question (notes/assumptions/10.md,
DEDUCED). -/
def Obligations.NipTransitionIssued : Prop :=
  ∀ (s : State) (o : Offer), s.nip.offer = some o → s.lam.mode = .ready →
    toGo .lam o.target s * 256000 ≤ ((s.tracker.speed * s.setup.horizon : Nat) : Int) →
    ∃ t, exec (.actionIssue .lam) s = .next t ∧
      let id := if s.lastId = 65535#16 then 1#16 else s.lastId + 1#16
      t.lastId = id ∧ t.lam.mode = .busy ∧
      (∃ i, t.lam.outstanding = some i ∧ i.id = id ∧ i.act.target = o.target ∧
        i.act.kind = (match o.kind with | .engage => .engage | .release => .release)) ∧
      t.nip.commanded = (match o.kind with | .engage => .closed | .release => .opened) ∧
      t.nip.last = some { kind := o.kind, target := o.target, id := id, outcome := .pending } ∧
      t.nip.decided = some (match s.nip.decided with | some h => later h o.target | none => o.target) ∧
      t.nip.releaseRequest = false ∧ t.nip.zones = s.nip.zones ∧ t.tracker = s.tracker ∧
      (let delay := fireDelay (toGo .lam o.target s) s.tracker.speed s.setup.horizon
       (s.south.up = true →
          t.south =
            SouthPort.start
              { s.south with
                urgent := s.south.urgent ++
                  [{ dst := (recordOr s.lam).addr, src := s.nodeAddr, kind := 0x30#8
                     payload := be16 id.toNat ++ [match o.kind with | .engage => 1#8 | .release => 2#8] ++ be16 delay ++
                       be16 0 ++ be16 0 }] }) ∧
        (s.south.up = false →
          t.south = { s.south with fwdDrops := min (s.south.fwdDrops + 1) 65535 } ∧
            attnHas t.mgmt.flags prioLinkError = true)) ∧
      (o.kind = .engage → OutOfWindow s → attnHas t.mgmt.flags prioLamTemp = true) ∧
      (let c := o.target + pu (-toGo .lam o.target s).toNat
       o.kind = .engage → ((recordOr s.lam).tol : Int) < sdiff c o.wanted →
         ∀ e ∈ s.nip.zones, e.mode = .required → precedes (later e.a o.wanted) (earlier e.b c) = true →
           ∀ g ∈ (s.lane e.lane).segs, g.id = e.seg →
             ∃ g' ∈ (t.lane e.lane).segs, g'.id = g.id ∧ g'.flags &&& defLamShort = defLamShort) ∧
      (o.kind = .engage →
        ∀ x, (if o.corrective then s.nip.plan.find? (fun y => reaches o.target y.a && precedes o.target y.b)
            else s.nip.plan.find? (fun y => y.a = o.target)) = some x →
          ∀ e ∈ s.nip.zones, e.mode = .required → precedes (later e.a x.a) (earlier e.b x.b) = true →
            e.key ∈ t.nip.begun ∧
            (OutOfWindow s → ∀ g ∈ (s.lane e.lane).segs, g.id = e.seg →
              ∃ g' ∈ (t.lane e.lane).segs, g'.id = g.id ∧ g'.flags &&& defLamTemp = defLamTemp))

/-- CUT_SKIPPED and HEAD_CANCELLED: a head cut late beyond its tolerance at a READY or BUSY cutter leaves unsent and sets
CUT_MISSED; a head at its fire point at a FAULTED or OFFLINE cutter or trim station leaves unsent and sets STATION_FAULT. The
station's outstanding action, state and record stay as they were, but that a READY cutter may go on to issue a later head; no id
is used and no frame queued, unless LAM or that cutter issues in the same event. The segment of the head is flagged CUT_MISSED or
STATION_FAULT, and its unfinished work falls. Where the next head waits, the queue is the rest, the work falls by exactly one, and a
CLOSED owner with no work left retires in the event. A cancelled knife action leaves the move record and ends every watch on it with
TRIM_SHORT and the full region length, and where it was the pending one the knife plan is UNKNOWN and the lateral reference absent
(R78, R87, R89, R103, R106, R110, R111, R119, R154, R156). That the length
never falls below the one already formed (notes/assumptions/13.md, DEDUCED), and that the report of an owner retired in the same
event carries what the Trim Planner has just flagged and formed (notes/assumptions/15.md, DEDUCED), are read from the spec by
inference. That a watch which has ended keeps its record of the move in progress is the model's choice (notes/assumptions/44.md,
DESIGN CHOICE). -/
def Obligations.HeadLeavesUnsent : Prop :=
  ∀ (s : State) (l : Lane) (act : Action) (rest : List Action),
    ((s.lane l).cutQueue = act :: rest →
      (s.station (cutterOf l)).mode = .ready ∨ (s.station (cutterOf l)).mode = .busy →
      ((recordOr (s.station (cutterOf l))).tol : Int) < -toGo (cutterOf l) act.target s →
      ∃ t, exec (.cutSkipped l) s = .next t ∧ (t.lane l).cutQueue <:+ rest ∧
        attnHas t.mgmt.flags prioCutMissed = true ∧ t.tracker = s.tracker ∧
        (t.station (cutterOf l) = s.station (cutterOf l) ∨
          ((s.station (cutterOf l)).mode = .ready ∧
            ∃ i, (t.station (cutterOf l)).outstanding = some i ∧ i.act ∈ rest ∧
              t.station (cutterOf l) = { s.station (cutterOf l) with mode := .busy, outstanding := some i })) ∧
        (t.station (cutterOf l) = s.station (cutterOf l) → t.lam.mode = s.lam.mode →
          t.lastId = s.lastId ∧ t.south = s.south) ∧
        (∀ k, act.owner = some k → act.kind = .cut → OpenUnder k (s.lane l) → ∀ g ∈ (s.lane l).segs, g.id = k →
          ∃ g' ∈ (t.lane l).segs, g'.id = k ∧ g'.flags &&& defCutMissed = defCutMissed ∧
            g.cutsMissed < g'.cutsMissed ∧ g'.unfinished ≤ g.unfinished - 1) ∧
        ((∀ a, rest.head? = some a →
            ((s.station (cutterOf l)).mode = .ready → NotYetDue (cutterOf l) a s) ∧
            ((s.station (cutterOf l)).mode = .busy →
              -toGo (cutterOf l) a.target s ≤ ((recordOr (s.station (cutterOf l))).tol : Int))) →
          (t.lane l).cutQueue = rest ∧ t.station (cutterOf l) = s.station (cutterOf l) ∧
          ∀ g, AloneUnder g (s.lane l) → act.owner = some g.id → act.kind = .cut →
            WorkFinal l g
              { g with
                flags := g.flags ||| defCutMissed, cutsMissed := g.cutsMissed + 1, unfinished := g.unfinished - 1 } s t)) ∧
    ((s.lane l).cutQueue = act :: rest →
      (s.station (cutterOf l)).mode = .faulted ∨ (s.station (cutterOf l)).mode = .offline →
      toGo (cutterOf l) act.target s ≤ 0 →
      ∃ t, exec (.headCancelled (cutterOf l)) s = .next t ∧ (t.lane l).cutQueue <:+ rest ∧
        attnHas t.mgmt.flags prioStationFault = true ∧ t.tracker = s.tracker ∧
        t.station (cutterOf l) = s.station (cutterOf l) ∧
        (t.lam.mode = s.lam.mode → t.lastId = s.lastId ∧ t.south = s.south) ∧
        (∀ k, act.owner = some k → OpenUnder k (s.lane l) → ∀ g ∈ (s.lane l).segs, g.id = k →
          ∃ g' ∈ (t.lane l).segs, g'.id = k ∧ g'.flags &&& defStationFault = defStationFault ∧
            g'.unfinished ≤ g.unfinished - 1) ∧
        ((∀ a, rest.head? = some a → 0 < toGo (cutterOf l) a.target s) →
          (t.lane l).cutQueue = rest ∧
          ∀ g, AloneUnder g (s.lane l) → act.owner = some g.id →
            WorkFinal l g { g with flags := g.flags ||| defStationFault, unfinished := g.unfinished - 1 } s t)) ∧
    ((s.lane l).trimQueue = act :: rest →
      (s.station (trimmerOf l)).mode = .faulted ∨ (s.station (trimmerOf l)).mode = .offline →
      toGo (trimmerOf l) act.target s ≤ 0 →
      ∃ t, exec (.headCancelled (trimmerOf l)) s = .next t ∧ (t.lane l).trimQueue <:+ rest ∧
        attnHas t.mgmt.flags prioStationFault = true ∧ t.tracker = s.tracker ∧
        t.station (trimmerOf l) = s.station (trimmerOf l) ∧
        (t.lam.mode = s.lam.mode → t.lastId = s.lastId ∧ t.south = s.south) ∧
        (∀ k, act.owner = some k → OpenUnder k (s.lane l) → ∀ g ∈ (s.lane l).segs, g.id = k →
          ∃ g' ∈ (t.lane l).segs, g'.id = k ∧ g'.flags &&& defStationFault = defStationFault ∧
            g'.unfinished ≤ g.unfinished - 1) ∧
        ((∀ a, rest.head? = some a → 0 < toGo (trimmerOf l) a.target s) →
          (t.lane l).trimQueue = rest ∧
          ∀ g, AloneUnder g (s.lane l) → act.owner = some g.id →
            WorkFinal l g
              { watchLost act.key { g with flags := g.flags ||| defStationFault } s with unfinished := g.unfinished - 1 }
              s t) ∧
        (∀ m ∈ (t.lane l).moves, m.1 ≠ act.key) ∧
        ((s.lane l).pendingKnife = some act.key →
          (t.lane l).knifePlan = .unknown ∧ (t.lane l).lateral = none ∧ (t.lane l).pendingKnife = none) ∧
        ((∀ a, rest.head? = some a → 0 < toGo (trimmerOf l) a.target s) →
          (t.lane l).moves = (s.lane l).moves.filter (fun m => m.1 ≠ act.key) ∧
          ((s.lane l).pendingKnife ≠ some act.key →
            (t.lane l).knifePlan = (s.lane l).knifePlan ∧ (t.lane l).lateral = (s.lane l).lateral ∧
              (t.lane l).pendingKnife = (s.lane l).pendingKnife)) ∧
        (∀ g ∈ (t.lane l).segs, g.watch.watched = some act.key → g.watch.state = .ended) ∧
        (∀ g ∈ (s.lane l).segs, g.watch.watched = some act.key → g.watch.state ≠ .ended →
          attnHas t.mgmt.flags prioTrimShort = true ∧
          (OpenUnder g.id (s.lane l) →
            ∃ g' ∈ (t.lane l).segs, g'.id = g.id ∧ g'.flags &&& defTrimShort = defTrimShort ∧ g'.watch.state = .ended ∧
              g'.trimShort =
                max g.trimShort
                  (g.coord ((s.jobOf g).cuts.getLastD 0) - g.coord ((s.jobOf g).cuts.headD 0)).toNat)))

/-- A matching ACT_DONE ends the outstanding action: with no head due in its queue the station is READY with nothing outstanding and
its queue as it was, a cut is counted done on its segment, LAM's last transition is CONFIRMED, the commanded state, h and the plan
as they were, and a knife action leaves the move record, the pending knife action where it is that, and every watch on it, the plan
and the lateral reference kept; a SHORT watch's length is formed once more against λ_t, a WAITING one flags nothing. The owner's
unfinished work falls by one, and a CLOSED owner with none left retires in the event. A cutter or trim station whose next head is
due, and LAM whose offer is, takes it in the same event (R78, R87, R89, R103, R114, R119, R135, R136, R154, R156). That the report
of an owner retired in the same event carries the trim short length as the Trim Planner has just formed it is read from the spec by
inference (notes/assumptions/15.md, DEDUCED), and that a watch which has ended keeps its record of the move in progress is the
model's choice (notes/assumptions/44.md, DESIGN CHOICE). -/
def Obligations.DoneFreesStation : Prop :=
  (∀ (s : State) (src : Byte) (id : BitVec 16) (st : Station) (i : Issued),
    senderOf src s = some st → (s.station st).mode = .busy → (s.station st).outstanding = some i → i.id = id →
    (∀ l a, st = cutterOf l → (s.lane l).cutQueue.head? = some a → NotYetDue st a s) →
    (∀ l a, st = trimmerOf l → (s.lane l).trimQueue.head? = some a → NotYetDue st a s) →
    (st = .lam → ∀ o, s.nip.offer = some o → ((s.tracker.speed * s.setup.horizon : Nat) : Int) < toGo .lam o.target s * 256000) →
    ∃ t, exec (.actDone src id) s = .next t ∧ (t.station st).mode = .ready ∧ (t.station st).outstanding = none ∧
      (∀ l, (t.lane l).cutQueue = (s.lane l).cutQueue ∧ (t.lane l).trimQueue = (s.lane l).trimQueue) ∧
      (∀ l g, st = cutterOf l → AloneUnder g (s.lane l) → i.act.owner = some g.id → i.act.kind = .cut →
        WorkFinal l g { g with cutsDone := g.cutsDone + 1, unfinished := g.unfinished - 1 } s t) ∧
      (∀ l g, st = trimmerOf l → AloneUnder g (s.lane l) → i.act.owner = some g.id → i.act.kind ≠ .cut →
        WorkFinal l g
          { watchEnded i.act.key (s.tracker.p - pu (recordOr (s.station st)).dist) g s with
            unfinished := g.unfinished - 1 } s t) ∧
      (t.station st).record = (s.station st).record ∧ t.tracker = s.tracker ∧
      (∀ l k, st = cutterOf l → i.act.owner = some k → i.act.kind = .cut → OpenUnder k (s.lane l) →
        ∀ g ∈ (s.lane l).segs, g.id = k →
          ∃ g' ∈ (t.lane l).segs, g'.id = k ∧ g'.cutsDone = g.cutsDone + 1 ∧ g'.unfinished = g.unfinished - 1) ∧
      (st = .lam → t.nip.offer = s.nip.offer ∧ t.nip.commanded = s.nip.commanded ∧ t.nip.decided = s.nip.decided ∧
        t.nip.plan = s.nip.plan ∧ t.nip.zones = s.nip.zones) ∧
      (st = .lam → ∀ x, s.nip.last = some x → x.id = id → t.nip.last = some { x with outcome := .confirmed }) ∧
      (∀ l, st = trimmerOf l →
        (t.lane l).knifePlan = (s.lane l).knifePlan ∧ (t.lane l).lateral = (s.lane l).lateral ∧
        (t.lane l).moves = (s.lane l).moves.filter (fun m => m.1 ≠ i.act.key) ∧
        (t.lane l).pendingKnife =
          (if (s.lane l).pendingKnife = some i.act.key then none else (s.lane l).pendingKnife) ∧
        (∀ g ∈ (t.lane l).segs, g.watch.watched = some i.act.key → g.watch.state = .ended) ∧
        ∀ g ∈ (s.lane l).segs, g.watch.watched = some i.act.key → OpenUnder g.id (s.lane l) →
          ∃ g' ∈ (t.lane l).segs, g'.id = g.id ∧ g'.watch.state = .ended ∧
            g'.flags &&& defTrimShort = g.flags &&& defTrimShort ∧
            g'.trimShort =
              (if g.watch.state = .short then
                max g.trimShort
                  (sdiff
                    (earlier (s.tracker.p - pu (recordOr (s.station st)).dist) (g.coord ((s.jobOf g).cuts.getLastD 0)))
                    (g.coord ((s.jobOf g).cuts.headD 0))).toNat
              else g.trimShort))) ∧
  (∀ (s : State) (src : Byte) (id : BitVec 16) (i : Issued) (o : Offer),
    senderOf src s = some .lam → s.lam.mode = .busy → s.lam.outstanding = some i → i.id = id → s.nip.offer = some o →
    toGo .lam o.target s * 256000 ≤ ((s.tracker.speed * s.setup.horizon : Nat) : Int) →
    ∃ t, exec (.actDone src id) s = .next t ∧ t.lam.mode = .busy ∧ t.lastId = nextId s.lastId ∧
      (∃ j, t.lam.outstanding = some j ∧ j.id = nextId s.lastId ∧ j.act.target = o.target) ∧
      t.nip.commanded = (match o.kind with | .engage => .closed | .release => .opened) ∧
      t.nip.last = some { kind := o.kind, target := o.target, id := nextId s.lastId, outcome := .pending } ∧
      t.nip.zones = s.nip.zones ∧ t.tracker = s.tracker) ∧
  (∀ (s : State) (src : Byte) (id : BitVec 16) (st : Station) (l : Lane) (i : Issued) (a : Action) (rest : List Action),
    senderOf src s = some st → (s.station st).mode = .busy → (s.station st).outstanding = some i → i.id = id →
    (st = cutterOf l ∧ (s.lane l).cutQueue = a :: rest ∧ i.act.kind = .cut ∧
        -toGo st a.target s ≤ ((recordOr (s.station st)).tol : Int)) ∨
      (st = trimmerOf l ∧ (s.lane l).trimQueue = a :: rest) →
    toGo st a.target s * 256000 ≤ ((s.tracker.speed * s.setup.horizon : Nat) : Int) →
    ∃ t, exec (.actDone src id) s = .next t ∧ (t.station st).mode = .busy ∧
      (∃ j, (t.station st).outstanding = some j ∧ j.act = a ∧ j.orphan = false ∧ j.id = t.lastId) ∧
      (t.lam = s.lam → t.lastId = nextId s.lastId) ∧
      (st = cutterOf l → (t.lane l).cutQueue = rest) ∧ (st = trimmerOf l → (t.lane l).trimQueue = rest) ∧
      (t.station st).record = (s.station st).record ∧ t.tracker = s.tracker ∧
      (∀ g, AloneUnder g (s.lane l) → i.act.owner = some g.id →
        (g.state = .opened ∨ 1 < g.unfinished →
          ∃ g' ∈ (t.lane l).segs, g'.id = g.id ∧ g'.state = g.state ∧ g'.unfinished = g.unfinished - 1 ∧
            (st = cutterOf l → g'.cutsDone = g.cutsDone + 1)) ∧
        (g.state = .closed → g.unfinished ≤ 1 →
          (t.lane l).segs.map (fun x => x.id) = ((s.lane l).segs.filter (fun x => x.id ≠ g.id)).map (fun x => x.id) ∧
            t.jobs = s.jobs.modify g.slot (Option.map (fun r => { r with inUse := r.inUse - 1 })) ∧
            t.nip.zones = s.nip.zones.filter (fun e => !(decide (e.lane = l) && decide (e.seg = g.id))))))

/-- A matching ACT_FAULT, or ACT_TIMEOUT_EXPIRY, ends the outstanding action FAILED: the station is FAULTED with nothing
outstanding and STATION_FAULT is set; the owning segment is flagged, with the fault code of the reply unless that is 0; an expiry
counts a timeout, and takes the action's ACT frame, where it still waits, out of the urgent queue. The owner's unfinished work falls,
by exactly one where no head behind it is at its fire point, and a CLOSED owner with none left retires in the event. LAM's last transition is FAILED where
it is this one, the commanded state, h, the plan and the offer as they were. A failed knife action with no head at its fire point
behind it leaves the move record and ends every watch on it with TRIM_SHORT, on the attention flags and on the open watching segment,
and with the full region length; where it was the pending one the knife plan is UNKNOWN and the lateral reference absent (R78, R87,
R89, R115, R116, R136, R154, R156). That the length never falls below the one already formed (notes/assumptions/13.md, DEDUCED), and
that the report of an owner retired in the same event carries what the Trim Planner has just flagged and formed
(notes/assumptions/15.md, DEDUCED), are read from the spec by inference. That a watch which has ended keeps its record of the move in
progress (notes/assumptions/44.md, DESIGN CHOICE), and that an expiry commanded before the last millisecond of the timeout has no
effect (notes/assumptions/6.md, DESIGN CHOICE), are the model's choices. -/
def Obligations.FailureFaultsStation : Prop :=
  ∀ (s : State) (st : Station) (i : Issued), (s.station st).outstanding = some i →
    let lamFailed := fun t : State =>
      st = .lam → t.nip.commanded = s.nip.commanded ∧ t.nip.decided = s.nip.decided ∧ t.nip.plan = s.nip.plan ∧
        t.nip.zones = s.nip.zones ∧ t.nip.offer = s.nip.offer ∧ t.lastId = s.lastId ∧
        (∀ x, s.nip.last = some x → t.nip.last = some (if x.id = i.id then { x with outcome := .failed } else x))
    let workFailed := fun (code : Option Byte) (t : State) =>
      ∀ l g, AloneUnder g (s.lane l) → i.act.owner = some g.id →
        let h := { g with
          flags := g.flags ||| defStationFault
          faultCode := if code = none ∨ code = some 0#8 then g.faultCode else code }
        (st = cutterOf l → (∀ a, (s.lane l).cutQueue.head? = some a → 0 < toGo st a.target s) →
          (t.lane l).cutQueue = (s.lane l).cutQueue ∧ WorkFinal l g { h with unfinished := g.unfinished - 1 } s t) ∧
        (st = trimmerOf l → (∀ a, (s.lane l).trimQueue.head? = some a → 0 < toGo st a.target s) →
          (t.lane l).trimQueue = (s.lane l).trimQueue ∧
            WorkFinal l g { watchLost i.act.key h s with unfinished := g.unfinished - 1 } s t)
    let knifeFailed := fun t : State =>
      ∀ l, st = trimmerOf l → (∀ a, (s.lane l).trimQueue.head? = some a → 0 < toGo st a.target s) →
        (t.lane l).moves = (s.lane l).moves.filter (fun m => m.1 ≠ i.act.key) ∧
        (if (s.lane l).pendingKnife = some i.act.key then
          (t.lane l).knifePlan = .unknown ∧ (t.lane l).lateral = none ∧ (t.lane l).pendingKnife = none
        else
          (t.lane l).knifePlan = (s.lane l).knifePlan ∧ (t.lane l).lateral = (s.lane l).lateral ∧
            (t.lane l).pendingKnife = (s.lane l).pendingKnife) ∧
        (∀ g ∈ (t.lane l).segs, g.watch.watched = some i.act.key → g.watch.state = .ended) ∧
        ((∃ g ∈ (s.lane l).segs, g.watch.watched = some i.act.key ∧ g.watch.state ≠ .ended) →
          attnHas t.mgmt.flags prioTrimShort = true) ∧
        (∀ g ∈ (s.lane l).segs, g.watch.watched = some i.act.key → g.watch.state ≠ .ended → OpenUnder g.id (s.lane l) →
          ∃ g' ∈ (t.lane l).segs, g'.id = g.id ∧ g'.flags &&& defTrimShort = defTrimShort ∧ g'.watch.state = .ended ∧
            g'.trimShort =
              max g.trimShort
                (g.coord ((s.jobOf g).cuts.getLastD 0) - g.coord ((s.jobOf g).cuts.headD 0)).toNat)
    (∀ src id code, senderOf src s = some st → (s.station st).mode = .busy → i.id = id →
      ∃ t, exec (.actFault src id code) s = .next t ∧ (t.station st).mode = .faulted ∧
        (t.station st).outstanding = none ∧ attnHas t.mgmt.flags prioStationFault = true ∧ t.tracker = s.tracker ∧ knifeFailed t ∧
        lamFailed t ∧ workFailed (some code) t ∧
        (∀ l k, laneOf st = some l → i.act.owner = some k → OpenUnder k (s.lane l) →
          ∀ g ∈ (s.lane l).segs, g.id = k →
            ∃ g' ∈ (t.lane l).segs, g'.id = k ∧ g'.flags &&& defStationFault = defStationFault ∧
              g'.unfinished ≤ g.unfinished - 1 ∧ g'.faultCode = (if code = 0#8 then g.faultCode else some code))) ∧
    (1 < i.timeout → ∃ t, exec (.actTimeoutExpiry st) s = .next t ∧ EndOfEvent s t) ∧
    (i.timeout ≤ 1 → ∃ t, exec (.actTimeoutExpiry st) s = .next t ∧ (t.station st).mode = .faulted ∧
      (t.lastId = s.lastId →
        t.south =
          { s.south with
            urgent :=
              s.south.urgent.filter
                (fun f => !(decide (f.kind = 0x30#8) && decide (field16 f.payload 0 = i.id.toNat))) }) ∧
      (t.station st).outstanding = none ∧ (t.station st).timeouts = min ((s.station st).timeouts + 1) 65535 ∧
      attnHas t.mgmt.flags prioStationFault = true ∧ t.tracker = s.tracker ∧ knifeFailed t ∧ lamFailed t ∧ workFailed none t ∧
      (∀ l k, laneOf st = some l → i.act.owner = some k → OpenUnder k (s.lane l) →
        ∀ g ∈ (s.lane l).segs, g.id = k →
          ∃ g' ∈ (t.lane l).segs, g'.id = k ∧ g'.flags &&& defStationFault = defStationFault ∧
            g'.unfinished ≤ g.unfinished - 1 ∧ g'.faultCode = g.faultCode))

/-- A reply that names a station but does not match its outstanding action increments the station's stale-reply counter and
changes nothing else (R117). -/
def Obligations.StaleReplyCounted : Prop :=
  ∀ (s : State) (src : Byte) (id : BitVec 16) (code : Byte) (st : Station), senderOf src s = some st →
    ¬((s.station st).mode = .busy ∧ ∃ i, (s.station st).outstanding = some i ∧ i.id = id) →
    ∀ c, c = Instr.actDone src id ∨ c = Instr.actFault src id code →
      ∃ t, exec c s = .next t ∧
        EndOfEvent
          (s.modStation st (fun x => { x with staleReplies := min (x.staleReplies + 1) 65535 })) t

/-! ## The nip plan -/

/-- A FORBIDDEN interval inside a REQUIRED one is a conflict: under FORBID_WINS the plan closes the two ends and keeps the opening
whatever BRIDGE is, since it touches the forbidden stretch, and the REQUIRED entry loses; under REQUIRE_WINS it closes the whole
interval and the FORBIDDEN entry loses; under the lamination ban it closes nothing, whatever the policy. Between two REQUIRED
intervals an opening shorter than BRIDGE is closed, one as long stays open, and one that a FORBIDDEN interval lies in stays open
under either policy, with no conflict. For any zone list whose intervals lie within 2^31 pu ahead of one position: a pu of web is in the
plan exactly where the policy wants the nip closed or in a bridged opening, the plan's stretches stand in web order with an opening
between each and the next, and there is a conflict, with its losers, exactly where entries of the two modes share web (R127, R129,
R130). -/
def Obligations.PlanByPolicyAndBridge : Prop :=
  (∀ (o : Word32) (zones : List ZoneEntry) (ban : Bool) (policy : Policy) (bridge : Nat), ZonesAhead o zones →
      (let plan := planOf ban policy bridge zones
       (∀ x, InPlan o plan x ↔ Wanted o ban policy zones x ∨ BridgedAt o ban policy bridge zones x) ∧
       (∀ y ∈ plan, (y.a - o).toNat < (y.b - o).toNat) ∧
       plan.Pairwise (fun y z => (y.b - o).toNat < (z.a - o).toNat)) ∧
      (hasConflict ban zones = true ↔ ∃ x, InZone o .required zones x ∧ (ban = true ∨ InZone o .forbidden zones x)) ∧
      (∀ e, e ∈ losers ban policy zones ↔ e ∈ zones ∧
        (if ban = true ∨ policy = .forbidWins then
          e.mode = .required ∧ ∃ x, Covers o e.a e.b x ∧ (ban = true ∨ InZone o .forbidden zones x)
         else e.mode = .forbidden ∧ ∃ x, Covers o e.a e.b x ∧ InZone o .required zones x))) ∧
  (∀ (r f : ZoneEntry) (u v w bridge : Nat), r.mode = .required → f.mode = .forbidden → 0 < u → 0 < v → 0 < w →
      u + v + w < 2147483648 → f.a = r.a + pu u → f.b = r.a + pu (u + v) → r.b = r.a + pu (u + v + w) →
      hasConflict false [r, f] = true ∧
      planOf false .forbidWins bridge [r, f] = [⟨r.a, f.a⟩, ⟨f.b, r.b⟩] ∧ losers false .forbidWins [r, f] = [r] ∧
      planOf false .requireWins bridge [r, f] = [⟨r.a, r.b⟩] ∧ losers false .requireWins [r, f] = [f] ∧
      ∀ policy, planOf true policy bridge [r, f] = [] ∧ losers true policy [r, f] = [r]) ∧
  (∀ (r q f : ZoneEntry) (u v w x y bridge : Nat) (policy : Policy),
    r.mode = .required → q.mode = .required → f.mode = .forbidden → 0 < u → 0 < v → 0 < w → 0 < y → x + y ≤ v →
    u + v + w < 2147483648 → r.b = r.a + pu u → q.a = r.a + pu (u + v) → q.b = r.a + pu (u + v + w) →
    f.a = r.a + pu (u + x) → f.b = r.a + pu (u + x + y) →
    hasConflict false [r, q] = false ∧
    planOf false policy bridge [r, q] = (if v < bridge then [⟨r.a, q.b⟩] else [⟨r.a, r.b⟩, ⟨q.a, q.b⟩]) ∧
    hasConflict false [r, q, f] = false ∧ planOf false policy bridge [r, q, f] = [⟨r.a, r.b⟩, ⟨q.a, q.b⟩])

/-- An accepted LANE START with the nip commanded OPEN or CLOSED and LAM not READY: the plan is that of the zone list, a conflict sets
LAM_CONFLICT and flags the owners of its losers, no conflict changes no segment, and the offer is made from it against the planning origin o, the later of h and λ: in OPEN the corrective ENGAGE at λ where the plan wants the nip
closed at o, else the planned ENGAGE at the first start after o, or none; in CLOSED the planned RELEASE at the end of the stretch at
o, else the corrective RELEASE at λ (R129 to R131, R134). That LANE START recomputes there is read from the spec by inference
(notes/assumptions/14.md), and that a corrective target λ before h is offered is the model's choice between R132 and R134
(notes/assumptions/40.md). -/
def Obligations.NipOfferFollowsPlan : Prop :=
  ∀ (s : State) (l : Lane) (token : Byte), 0 < ownRoom s → (s.lane l).mode = .disabled → startAllowed l s = true →
    s.lam.mode ≠ .ready → s.nip.commanded ≠ .unknown →
    ∃ t, exec (.laneStart token [BitVec.ofNat 8 (laneCode l)]) s = .next t ∧
      let plan := planOf (banned s.web) s.setup.policy s.setup.bridge s.nip.zones
      let lam := s.tracker.p - pu (recordOr s.lam).dist
      let o := match s.nip.decided with | some h => later h lam | none => lam
      let wants := plan.find? (fun x => (decide (x.a = o) || precedes x.a o) && precedes o x.b)
      (LosersFlagged t ∧ (hasConflict (banned s.web) s.nip.zones = false → ∀ k, (t.lane k).segs = (s.lane k).segs)) ∧
      t.nip.plan = plan ∧ t.nip.commanded = s.nip.commanded ∧ t.nip.decided = s.nip.decided ∧ t.nip.zones = s.nip.zones ∧
      (s.nip.commanded = .opened →
        (∀ x, wants = some x →
          t.nip.offer =
            some { kind := .engage, target := lam, corrective := true
                   wanted := match s.nip.decided with | some h => later h x.a | none => x.a }) ∧
        (wants = none →
          t.nip.offer =
            (plan.find? (fun x => precedes o x.a)).map (fun x =>
              { kind := .engage, target := x.a, wanted := x.a, corrective := false }))) ∧
      (s.nip.commanded = .closed →
        (∀ x, wants = some x →
          t.nip.offer = some { kind := .release, target := x.b, wanted := x.b, corrective := false }) ∧
        (wants = none → t.nip.offer = some { kind := .release, target := lam, wanted := lam, corrective := true }))

/-! ## Laminator temperature -/

/-- STATUS from the configured LAM is converted by its table, stored with the sensor state, marks the temperature valid and
starts the validity timer at 2,000 ms; out of window while CLOSED it sets LAM_TEMP, and flags it on the owner of every REQUIRED entry
whose interval contains λ. STATUS from another sender changes nothing. VALIDITY_TIMER_EXPIRY stops the timer and makes the
temperature invalid, the stored value kept; with the nip CLOSED and a window set it sets and flags LAM_TEMP likewise. While the nip
is not commanded CLOSED neither flags anything (R141, R142, R144). That an interval contains its ends is the model's choice
(notes/assumptions/42.md, DESIGN CHOICE), as is that an expiry commanded before the timer's last millisecond has no effect
(notes/assumptions/6.md, DESIGN CHOICE). -/
def Obligations.StatusAndValidityTaken : Prop :=
  ∀ (s : State) (src raw : Byte) (x : NipSensor),
    ((recordOr s.lam).table.Pairwise (fun a b => a.1 < b.1) →
      ConvertsTo (recordOr s.lam).table raw.toNat (convertTemp (recordOr s.lam).table raw.toNat)) ∧
    let lam := s.tracker.p - pu (recordOr s.lam).dist
    let ownersFlagged := fun t : State =>
      ∀ e ∈ s.nip.zones, e.mode = .required → reaches lam e.a = true → reaches e.b lam = true →
        ∀ g ∈ (s.lane e.lane).segs, g.id = e.seg →
          ∃ g' ∈ (t.lane e.lane).segs, g'.id = g.id ∧ g'.flags &&& defLamTemp = defLamTemp
    (s.lam.configured = true → (recordOr s.lam).addr = src →
      ∃ t, exec (.status src raw x) s = .next t ∧
        t.nip =
          { s.nip with
            temp := convertTemp (recordOr s.lam).table raw.toNat, sensor := some x, tempValid := true, validity := some 2000 } ∧
        t.mgmt.flags =
          (let temp := convertTemp (recordOr s.lam).table raw.toNat
           if s.nip.commanded = .closed ∧ 0 < (recordOr s.lam).tMin ∧
              (temp < (recordOr s.lam).tMin ∨ (recordOr s.lam).tMax < temp) then s.mgmt.flags ||| attnBit prioLamTemp
           else s.mgmt.flags) ∧
        (let temp := convertTemp (recordOr s.lam).table raw.toNat
         s.nip.commanded = .closed → 0 < (recordOr s.lam).tMin →
          temp < (recordOr s.lam).tMin ∨ (recordOr s.lam).tMax < temp → ownersFlagged t) ∧
        (s.nip.commanded ≠ .closed → t.laneA = s.laneA ∧ t.laneB = s.laneB) ∧
        t.tracker = s.tracker) ∧
    (s.lam.configured = false ∨ (recordOr s.lam).addr ≠ src →
      ∃ t, exec (.status src raw x) s = .next t ∧ EndOfEvent s t) ∧
    ((∀ n, s.nip.validity = some n → 1 < n) → ∃ t, exec .validityTimerExpiry s = .next t ∧ EndOfEvent s t) ∧
    (∀ n, s.nip.validity = some n → n ≤ 1 →
      ∃ t, exec .validityTimerExpiry s = .next t ∧ t.nip = { s.nip with tempValid := false, validity := none } ∧
        t.mgmt.flags =
          (if s.nip.commanded = .closed ∧ 0 < (recordOr s.lam).tMin then s.mgmt.flags ||| attnBit prioLamTemp
           else s.mgmt.flags) ∧
        (s.nip.commanded = .closed → 0 < (recordOr s.lam).tMin → ownersFlagged t) ∧
        (s.nip.commanded ≠ .closed → t.laneA = s.laneA ∧ t.laneB = s.laneB) ∧
        t.tracker = s.tracker)

/-! ## Segments, lanes and trim -/

/-- SEGMENT_RETIREMENT of a CLOSED segment with no unfinished work: it leaves the map, its job record gives back one use, its
zone entries leave the list, and, where the job notifies or a defect flag is set, its report is appended, or lost at a full
queue; a DRAINING lane that it leaves empty is DISABLED (R74, R87, R88, R207). -/
def Obligations.SegmentRetires : Prop :=
  ∀ (s : State) (l : Lane) (place : Nat) (g : Segment), (s.lane l).segs[place]? = some g →
    g.state = .closed → g.unfinished = 0 →
    ∃ t, exec (.segmentRetirement l place) s = .next t ∧
      (t.lane l).mode =
        (if (s.lane l).mode = .draining ∧ ∀ h ∈ (s.lane l).segs, h.id = g.id then .disabled else (s.lane l).mode) ∧
      (∀ m, m ≠ l → (t.lane m).mode = (s.lane m).mode) ∧
      (t.lane l).segs.map (fun h => h.id) = ((s.lane l).segs.filter (fun h => h.id ≠ g.id)).map (fun h => h.id) ∧
      t.jobs = s.jobs.modify g.slot (Option.map (fun r => { r with inUse := r.inUse - 1 })) ∧
      t.nip.zones = s.nip.zones.filter (fun e => !(decide (e.lane = l) && decide (e.seg = g.id))) ∧
      t.tracker = s.tracker ∧
      ((s.jobOf g).notify = true ∨ g.flags ≠ 0#12 →
        (s.mgmt.reports.length < 16 → ownRoom s = 0 →
          t.mgmt.reports = s.mgmt.reports ++
            [{ lane := l, tag := g.tag, ordinal := g.ordinal, pCue := g.pCue, stretch := g.stretch, flags := g.flags,
               cutsDone := g.cutsDone, cutsLate := g.cutsLate, cutsMissed := g.cutsMissed, lateness := g.lateness,
               trimShort := g.trimShort, faultCode := g.faultCode, cause := .complete }]) ∧
        (16 ≤ s.mgmt.reports.length →
          t.mgmt.reportsLost = min (s.mgmt.reportsLost + 1) 65535 ∧ attnHas t.mgmt.flags prioReportLost = true)) ∧
      ((s.jobOf g).notify = false → g.flags = 0#12 → t.mgmt.reports <:+ s.mgmt.reports ∧
        t.mgmt.reportsLost = s.mgmt.reportsLost)

/-- LANE_DRAINED returns a DRAINING lane with an empty map to DISABLED (R74); LANE_DRAIN starts draining, going on to DISABLED
on an empty map (R72); LANE_STOP spoils every segment of the lane, oldest first, its PLANNED actions cancelled, its ISSUED ones
orphans, its zone entries gone and its report appended, and leaves the lane DISABLED in every state (R73, R90, R91, R118); where a
zone entry of it left, the nip plan is that of the entries that remain, and with none left a nip commanded CLOSED is released at λ,
at once where LAM is READY (R91, R126, R137); that λ is the target also where the decided point h lies ahead of it is the model's
choice between R132 and R134 (notes/assumptions/40.md, DESIGN CHOICE). A lane code of 2 or more is refused by LANE_DRAIN and LANE_STOP with BAD_FIELD 0
(R197). -/
def Obligations.LanesDrainAndStop : Prop :=
  ∀ (s : State) (l : Lane) (token : Byte),
    ((s.lane l).mode = .draining → (s.lane l).segs = [] →
      ∃ t, exec (.laneDrained l) s = .next t ∧ EndOfEvent (s.modLane l (fun x => { x with mode := .disabled })) t) ∧
    (0 < ownRoom s →
      (∀ code : Byte, 2 ≤ code.toNat →
        (∃ t, exec (.laneDrain token [code]) s = .next t ∧ Answered s (respTo s 0x21#8 token 2 0 []) t) ∧
        (∃ t, exec (.laneStop token [code]) s = .next t ∧ Answered s (respTo s 0x22#8 token 2 0 []) t)) ∧
      (∃ t, exec (.laneDrain token [BitVec.ofNat 8 (laneCode l)]) s = .next t ∧
        ((s.lane l).mode = .running →
          Answered
            (s.modLane l (fun x => { x with mode := if x.segs = [] then .disabled else .draining }))
            (respTo s 0x21#8 token 0 0 []) t) ∧
        ((s.lane l).mode = .draining → Answered s (respTo s 0x21#8 token 0 0 []) t) ∧
        ((s.lane l).mode = .disabled → Answered s (respTo s 0x21#8 token 4 0 []) t)) ∧
      (∃ t, exec (.laneStop token [BitVec.ofNat 8 (laneCode l)]) s = .next t ∧ LaneSpoiled l s t ∧
        (∀ m, m ≠ l → (t.lane m).mode = (s.lane m).mode) ∧ t.tracker = s.tracker ∧ t.web = s.web ∧ t.setup = s.setup ∧
        t.nip.zones = s.nip.zones.filter (fun e => !(decide (e.lane = l) && inMap (s.lane l) e.seg)) ∧
        ((s.lane l).segs.length + s.mgmt.reports.length ≤ 16 → ownRoom s = 1 → (s.lane l).trimQueue = [] →
          ((s.lane l).segs.map (fun g => g.id)).Nodup →
          t.mgmt.reports = s.mgmt.reports ++ (s.lane l).segs.map (spoiledReport l .stop)) ∧
        ((∃ e ∈ s.nip.zones, e.lane = l ∧ inMap (s.lane l) e.seg = true) →
          t.nip.plan = planOf (banned s.web) s.setup.policy s.setup.bridge t.nip.zones) ∧
        (s.nip.zones ≠ [] → (∀ e ∈ s.nip.zones, e.lane = l ∧ inMap (s.lane l) e.seg = true) → s.nip.commanded = .closed →
          t.nip.plan = [] ∧
          (s.lam.mode = .ready → s.tracker.speed ≤ 256000 → (recordOr s.lam).latency ≤ 200000 →
            t.nip.commanded = .opened ∧ t.lam.mode = .busy ∧ t.nip.offer = none ∧
              ∃ id, t.nip.last =
                some { kind := .release, target := s.tracker.p - pu (recordOr s.lam).dist, id := id, outcome := .pending }) ∧
          (s.lam.mode ≠ .ready →
            t.nip.commanded = .closed ∧
              t.nip.offer =
                some { kind := .release, target := s.tracker.p - pu (recordOr s.lam).dist,
                       wanted := s.tracker.p - pu (recordOr s.lam).dist, corrective := true })) ∧
        Carries t (respTo s 0x22#8 token 0 0 [])))

/-- TRIM_SHORT: a WAITING watch whose region start has reached the knives flags its segment, a SHORT one measures on, and each
ends at the region's end; other segments are unchanged (R156). -/
def Obligations.TrimShortMeasured : Prop :=
  ∀ (s : State) (l : Lane),
    ∃ t, exec (.trimShort l) s = .next t ∧ (t.lane l).segs.length = (s.lane l).segs.length ∧
      ∀ (k : Nat) (g : Segment), (s.lane l).segs[k]? = some g →
        let lamT := s.tracker.p - pu (recordOr (s.station (trimmerOf l))).dist
        let first := g.coord ((s.jobOf g).cuts.headD 0)
        let last := g.coord ((s.jobOf g).cuts.getLastD 0)
        let short := max g.trimShort (sdiff (earlier lamT last) first).toNat
        let after : WatchState := if reaches lamT last then .ended else .short
        (g.watch.state = .waiting → reaches lamT first = true →
          (t.lane l).segs[k]? =
            some { g with
              flags := g.flags ||| defTrimShort, trimShort := short, watch := { g.watch with state := after } } ∧
          attnHas t.mgmt.flags prioTrimShort = true) ∧
        (g.watch.state = .waiting → reaches lamT first = false → (t.lane l).segs[k]? = some g) ∧
        (g.watch.state = .short →
          (t.lane l).segs[k]? = some { g with trimShort := short, watch := { g.watch with state := after } }) ∧
        (g.watch.state = .ended → (t.lane l).segs[k]? = some g)

/-! ## Attention and reports -/

/-- ATTN_QUEUED and REPORT_QUEUED: the pending ATTN frame is placed where a place is free and none waits, carrying the whole
flag set and the highest selected priority; the oldest report is placed where two places are free; nothing else changes (R205,
R208). -/
def Obligations.AttnAndReportQueued : Prop :=
  ∀ s : State,
    (s.mgmt.pendingAttn = true → s.mgmt.flags &&& s.mgmt.mask ≠ 0#14 → 0 < ownRoom s →
      (∀ f ∈ s.north.own, f.kind ≠ 0x42#8) →
      ∃ t, exec .attnQueued s = .next t ∧
        t = { s with
          north := placedOwn s.north [attnFrame s], mgmt := { s.mgmt with pendingAttn := false }, pins := pinLevels s } ∧
        Carries t (attnFrame s) ∧ ∀ f, Carries s f → Carries t f) ∧
    (∀ r rest, s.mgmt.reports = r :: rest → 2 ≤ ownRoom s →
      ∃ t, exec .reportQueued s = .next t ∧
        t = { s with
          north := placedOwn s.north [reportFrame s r], mgmt := { s.mgmt with reports := rest }, pins := pinLevels s } ∧
        Carries t (reportFrame s r) ∧ ∀ f, Carries s f → Carries t f)

/-- The pending ATTN marker: where an event sets a flag that was clear and is in the mask, the marker is set after it, or no ATTN
frame waited before it and one with the whole flag set has been placed; where every flag in the mask that is set after it was set
before it, the marker is not newly set and no ATTN frame enters the own normal queue that a set marker did not call for. A received
frame may bring several events, each of them one of the others (R203, R205, R208). -/
def Obligations.MarkerRisesWithMaskedFlag : Prop :=
  ∀ (c : Instr) (s t : State), PortsAgree s → exec c s = .next t →
    (match c with | .frameReceived _ _ => False | _ => True) →
    ((∃ prio, attnHas s.mgmt.flags prio = false ∧ attnHas t.mgmt.flags prio = true ∧ attnHas t.mgmt.mask prio = true) →
      t.mgmt.pendingAttn = true ∨
        ((∀ f ∈ s.north.own, f.kind ≠ 0x42#8) ∧
          (attnFrame t ∈ t.north.own ∨ (s.north.tx = none ∧ t.north.tx = some (attnFrame t))))) ∧
    ((∀ prio, attnHas t.mgmt.flags prio = true → attnHas t.mgmt.mask prio = true → attnHas s.mgmt.flags prio = true) →
      s.mgmt.pendingAttn = false →
      t.mgmt.pendingAttn = false ∧ ∀ f ∈ t.north.own, f.kind = 0x42#8 → f ∈ s.north.own)

/-! ## Requests -/

/-- WRITE_JOB: a body that fails a check is refused on the first failing field; a valid one is placed by the first case of R12
that applies, the installed record LOADED with its counts restarted, its definition the one the body carries at the offsets of
section 9.2 (R11, R12). -/
def Obligations.JobWritePlaced : Prop :=
  ∀ (s : State) (token : Byte) (body : List Byte), 0 < ownRoom s → body.length = 147 →
    ∃ t, exec (.writeJob token body) s = .next t ∧
      (∀ n, FailsFirst (JobFieldHolds body) n → Answered s (respTo s 0x01#8 token 2 n []) t) ∧
      ((∀ n, JobFieldHolds body n) →
        let d := bodyJob body
        let fresh : JobRecord := { defn := d, state := .loaded, remaining := d.copies, registered := 0, inUse := 0 }
        JobLaidOut body d ∧
        match s.holding d.tag with
        | some i =>
            (byteAt body 0 = 1 → Answered s (respTo s 0x01#8 token 7 0 []) t) ∧
            (byteAt body 0 ≠ 1 → 0 < inUseAt i s → Answered s (respTo s 0x01#8 token 5 0 []) t) ∧
            (byteAt body 0 ≠ 1 → inUseAt i s = 0 →
              Answered { s with jobs := s.jobs.set i (some fresh) } (respTo s 0x01#8 token 0 0 []) t)
        | none =>
            (byteAt body 0 = 2 → Answered s (respTo s 0x01#8 token 8 0 []) t) ∧
            (byteAt body 0 ≠ 2 → emptyFrom 0 s.jobs = none →
              Answered s (respTo s 0x01#8 token 6 0 []) t) ∧
            (∀ i, byteAt body 0 ≠ 2 → emptyFrom 0 s.jobs = some i →
              s.jobs[i]? = some none ∧ (∀ k < i, s.jobs[k]? ≠ some none) ∧
              Answered { s with jobs := s.jobs.set i (some fresh) } (respTo s 0x01#8 token 0 0 []) t))

/-- DELETE_JOB: NOT_FOUND where the tag is not held and IN_USE where its record is in use, the table unchanged; otherwise the
slot becomes EMPTY and the result is OK (R13). -/
def Obligations.JobDeleted : Prop :=
  ∀ (s : State) (token tag : Byte), 0 < ownRoom s →
    ∃ t, exec (.deleteJob token [tag]) s = .next t ∧
      (s.holding tag = none → Answered s (respTo s 0x02#8 token 8 0 []) t) ∧
      (∀ i, s.holding tag = some i →
        (0 < inUseAt i s → Answered s (respTo s 0x02#8 token 5 0 []) t) ∧
        (inUseAt i s = 0 →
          Answered { s with jobs := s.jobs.set i none } (respTo s 0x02#8 token 0 0 []) t))

/-- READ_JOB: NOT_FOUND where the tag is not held; otherwise the slot number, the run-time part and the definition, in 153 bytes
for a record within R2's list lengths, and the table unchanged (R14, R202). The definition stands in them as in bytes 1 to 146 of
the job record body, each field at its offset, and read back as such a body, whatever its write mode, they give it again. The bytes
that hold no part of the definition are free (notes/assumptions/3.md). -/
def Obligations.JobRead : Prop :=
  ∀ (s : State) (token tag : Byte), 0 < ownRoom s →
    ∃ t, exec (.readJob token [tag]) s = .next t ∧ t.jobs = s.jobs ∧
      (s.holding tag = none → Answered s (respTo s 0x03#8 token 8 0 []) t) ∧
      (∀ i r, s.holding tag = some i → s.slot i = some r →
        Answered { s with jobReads := s.jobReads + 1 }
          (respTo s 0x03#8 token 0 0
            (BitVec.ofNat 8 i :: (match r.state with | .loaded => 1#8 | .exhausted => 2#8) ::
              (be16 r.remaining ++ be16 r.registered ++ be8 r.inUse ++ jobBytes s.jobReads r.defn))) t ∧
        (r.defn.cuts.length ≤ 8 → r.defn.zones.length ≤ 4 → r.defn.pitches.length ≤ 15 →
          (jobBytes s.jobReads r.defn).length = 146) ∧
        (JobFits r.defn → ∀ mode : Byte,
          JobLaidOut (mode :: jobBytes s.jobReads r.defn) r.defn ∧ bodyJob (mode :: jobBytes s.jobReads r.defn) = r.defn))

/-- WRITE_STATION: a station code or field out of range is refused on the first failing field; an outstanding action, a queued
one or, for LAM, a zone entry refuses it with IN_USE; otherwise the record is replaced and the state is that of R97, but that a LAM
that is READY by it takes a corrective RELEASE due at once, of a nip CLOSED or with the release request set, and is BUSY (R96, R97,
R131, R133, R134). That the target of that RELEASE is λ also where the decided point h lies ahead of λ is the model's choice between
R132 and R134 (notes/assumptions/40.md, DESIGN CHOICE).
CLEAR_STATION: a code of no station is refused with BAD_FIELD 0; a station not FAULTED is left unchanged with OK; a FAULTED one
becomes READY, and no attention flag is cleared. With nothing queued or offered there, or with a head or an offer not yet due, that
is all; a due knife action or offer, or a due cut within its tolerance, is issued in the same event, as ACTION_ISSUE at the READY
station issues it; a cut late beyond its tolerance is skipped (R103, R105 to R108, R120). -/
def Obligations.StationWrittenAndCleared : Prop :=
  (∀ (s : State) (token : Byte) (body : List Byte), 0 < ownRoom s → body.length = 46 →
      ∃ t, exec (.writeStation token body) s = .next t ∧
        (5 ≤ byteAt body 0 → Answered s (respTo s 0x10#8 token 2 0 []) t) ∧
        (∀ st,
          byteAt body 0 = (match st with | .lam => 0 | .trimA => 1 | .trimB => 2 | .cutA => 3 | .cutB => 4) →
          (∀ n, FailsFirst (StationFieldHolds st body s) n → Answered s (respTo s 0x10#8 token 2 n []) t) ∧
          ((∀ n, StationFieldHolds st body s n) →
            ((s.station st).outstanding ≠ none ∨ queueBusy st s = true →
              Answered s (respTo s 0x10#8 token 5 0 []) t) ∧
            ((s.station st).outstanding = none → queueBusy st s = false →
              Carries t (respTo s 0x10#8 token 0 0 []) ∧ (t.station st).record = some (bodyStation st body) ∧
              StationTaken st body (bodyStation st body) ∧ t.tracker = s.tracker ∧
              (st = .lam → byteAt body 1 ≠ 1 → t.lam.mode = .offline ∧ t.lam.outstanding = none) ∧
              (st = .lam → byteAt body 1 = 1 → s.lam.mode = .faulted → t.lam.mode = .faulted ∧ t.lam.outstanding = none) ∧
              (st = .lam → byteAt body 1 = 1 → s.lam.mode ≠ .faulted →
                (s.nip.commanded = .opened ∨ (s.nip.commanded = .unknown ∧ s.nip.releaseRequest = false) →
                  t.lam.mode = .ready ∧ t.lam.outstanding = none ∧ t.nip.offer = none) ∧
                (s.nip.commanded = .closed ∨ (s.nip.commanded = .unknown ∧ s.nip.releaseRequest = true) →
                  s.tracker.speed ≤ 256000 →
                  t.lam.mode = .busy ∧ t.nip.commanded = .opened ∧ t.nip.releaseRequest = false ∧
                    ∃ i, t.lam.outstanding = some i ∧ i.act.kind = .release ∧
                      i.act.target = s.tracker.p - pu (field32 body 3))) ∧
              (st ≠ .lam →
                Answered
                  (s.modStation st (fun x =>
                    { x with
                      record := some (bodyStation st body)
                      mode :=
                        if byteAt body 1 = 1 then (if x.mode = .faulted then .faulted else .ready) else .offline }))
                  (respTo s 0x10#8 token 0 0 []) t))))) ∧
  (∀ (s : State) (token code : Byte), 0 < ownRoom s →
      ∃ t, exec (.clearStation token [code]) s = .next t ∧
        (5 ≤ code.toNat → Answered s (respTo s 0x30#8 token 2 0 []) t) ∧
        (∀ st, code.toNat = (match st with | .lam => 0 | .trimA => 1 | .trimB => 2 | .cutA => 3 | .cutB => 4) →
          Carries t (respTo s 0x30#8 token 0 0 []) ∧
          ((s.station st).mode ≠ .faulted → Answered s (respTo s 0x30#8 token 0 0 []) t) ∧
          ((s.station st).mode = .faulted →
            (t.station st).mode ≠ .faulted ∧ s.mgmt.flags ||| t.mgmt.flags = t.mgmt.flags ∧ t.tracker = s.tracker ∧
            (let cleared := s.modStation st (fun x => { x with mode := .ready })
             let due := fun target : Word32 => toGo st target s * 256000 ≤ ((s.tracker.speed * s.setup.horizon : Nat) : Int)
             let tol : Int := (recordOr (s.station st)).tol
             let issued :=
               (t.station st).mode = .busy ∧ t.lastId = nextId s.lastId ∧
                 ∃ u, exec (.actionIssue st) cleared = .next u ∧
                   t =
                     { u with
                       north := t.north
                       mgmt := { u.mgmt with pendingAttn := t.mgmt.pendingAttn, reports := t.mgmt.reports } }
             ((∀ l a, st = cutterOf l → (s.lane l).cutQueue.head? = some a → ¬due a.target) →
               (∀ l a, st = trimmerOf l → (s.lane l).trimQueue.head? = some a → ¬due a.target) →
               (st = .lam → ∀ o, s.nip.offer = some o → ¬due o.target) →
               Answered cleared (respTo s 0x30#8 token 0 0 []) t) ∧
             (∀ l a rest, st = cutterOf l → (s.lane l).cutQueue = a :: rest → due a.target →
               (-toGo st a.target s ≤ tol →
                 issued ∧ (t.lane l).cutQueue = rest ∧
                   ∃ i, (t.station st).outstanding = some i ∧ i.act = a ∧ i.id = t.lastId ∧ i.orphan = false) ∧
               (tol < -toGo st a.target s →
                 attnHas t.mgmt.flags prioCutMissed = true ∧ (t.lane l).cutQueue <:+ rest ∧
                   ((∀ b, rest.head? = some b → ¬due b.target) →
                     (t.station st).mode = .ready ∧ (t.lane l).cutQueue = rest))) ∧
             (∀ l a rest, st = trimmerOf l → (s.lane l).trimQueue = a :: rest → due a.target →
               issued ∧ (t.lane l).trimQueue = rest ∧
                 ∃ i, (t.station st).outstanding = some i ∧ i.act = a ∧ i.id = t.lastId ∧ i.orphan = false) ∧
             (∀ o, st = .lam → s.nip.offer = some o → due o.target →
               issued ∧ t.nip.commanded = (match o.kind with | .engage => .closed | .release => .opened) ∧
                 t.nip.last = some { kind := o.kind, target := o.target, id := t.lastId, outcome := .pending } ∧
                 ∃ i, t.lam.outstanding = some i ∧ i.act.target = o.target ∧ i.id = t.lastId)))))

/-- WRITE_LANE: validated field by field, refused with WRONG_STATE while the lane is RUNNING or DRAINING, and otherwise the four
fields replace the lane record whole (R70). -/
def Obligations.LaneWritten : Prop :=
  ∀ (s : State) (token : Byte) (body : List Byte), 0 < ownRoom s → body.length = 8 →
    ∃ t, exec (.writeLane token body) s = .next t ∧
      (let refused := fun (result field : Nat) => Answered s (respTo s 0x11#8 token result field []) t
       let near := field16 body 1
       let far := field16 body 3
       let tol := field16 body 5
       let gain := byteAt body 7
       if 1 < byteAt body 0 then refused 2 0
       else if 31999 < near then refused 2 1
       else if 32000 < far ∨ far ≤ near then refused 2 2
       else if tol < 100 ∨ 50000 < tol then refused 2 3
       else if 16 < gain then refused 2 4
       else
         let l : Lane := if byteAt body 0 = 0 then .a else .b
         if (s.lane l).mode ≠ .disabled then refused 4 0
         else
           Answered
             (s.modLane l (fun x =>
               { x with record := { nearEdge := near, farEdge := far, markTol := tol, gain := gain } }))
             (respTo s 0x11#8 token 0 0 []) t)

/-- WRITE_LINE: refused on the first failing field, then with WRONG_STATE unless both lanes are DISABLED; otherwise the thirteen
fields replace the record, and a debt above the new REV_LIMIT becomes that limit (R22, R198). -/
def Obligations.LineWritten : Prop :=
  ∀ (s : State) (token : Byte) (body : List Byte), 0 < ownRoom s → body.length = 34 →
    ∃ t, exec (.writeLine token body) s = .next t ∧
      (∀ n, FailsFirst (LineFieldHolds body) n → Answered s (respTo s 0x12#8 token 2 n []) t) ∧
      ((∀ n, LineFieldHolds body n) →
        (s.laneA.mode ≠ .disabled ∨ s.laneB.mode ≠ .disabled →
          Answered s (respTo s 0x12#8 token 4 0 []) t) ∧
        (s.laneA.mode = .disabled → s.laneB.mode = .disabled →
          t.setup.k = field32 body 0 ∧ t.setup.revLimit = field16 body 4 ∧ t.setup.ts = byteAt body 6 ∧
          t.setup.estLimit = field32 body 7 ∧ t.setup.horizon = field16 body 11 ∧ t.setup.bridge = field32 body 13 ∧
          t.setup.policy = (if byteAt body 17 = 1 then .forbidWins else .requireWins) ∧
          t.setup.db = field32 body 18 ∧ t.setup.spliceDist = field32 body 22 ∧
          t.setup.stop0Mode =
            (if byteAt body 26 = 0 then .disabled else if byteAt body 26 = 1 then .openDrain else .pushPull) ∧
          t.setup.stop1Mode =
            (if byteAt body 30 = 0 then .disabled else if byteAt body 30 = 1 then .openDrain else .pushPull) ∧
          t.setup.stop0Mask = BitVec.ofNat 24 (field24 body 27) ∧ t.setup.stop1Mask = BitVec.ofNat 24 (field24 body 31) ∧
          Answered
            { s with setup := t.setup, tracker := { s.tracker with debt := min s.tracker.debt (field16 body 4) } }
            (respTo s 0x12#8 token 0 0 []) t))

/-- LANE_START: accepted on a DISABLED lane where R71's conditions hold, and then the lane is RUNNING and an UNKNOWN nip has its
corrective RELEASE offered or issued; OK and unchanged in RUNNING; WRONG_STATE and unchanged otherwise (R71, R133, R137). A lane code
of 2 or more is refused with BAD_FIELD 0 (R197). -/
def Obligations.LaneStarted : Prop :=
  (∀ (s : State) (token code : Byte), 0 < ownRoom s → 2 ≤ code.toNat →
    ∃ t, exec (.laneStart token [code]) s = .next t ∧ Answered s (respTo s 0x20#8 token 2 0 []) t) ∧
  ∀ (s : State) (l : Lane) (token : Byte), 0 < ownRoom s →
    ∃ t, exec (.laneStart token [BitVec.ofNat 8 (laneCode l)]) s = .next t ∧
      ((s.lane l).mode = .running → Answered s (respTo s 0x20#8 token 0 0 []) t) ∧
      ((s.lane l).mode = .draining → Answered s (respTo s 0x20#8 token 4 0 []) t) ∧
      ((s.lane l).mode = .disabled →
        let trim := s.station (trimmerOf l)
        let cut := s.station (cutterOf l)
        let inWebOrder := fun (x y : StationState) =>
          x.configured = true → y.configured = true → (recordOr x).dist < (recordOr y).dist
        let allowed :=
          s.nodeAddr ≠ 0#8 ∧ cut.configured = true ∧ inWebOrder s.lam trim ∧ inWebOrder s.lam cut ∧ inWebOrder trim cut ∧
            s.tracker.mode ≠ .lost
        (¬allowed → Answered s (respTo s 0x20#8 token 4 0 []) t) ∧
        (allowed →
          (t.lane l).mode = .running ∧ (t.lane l).record = (s.lane l).record ∧ t.tracker = s.tracker ∧
          Carries t (respTo s 0x20#8 token 0 0 []) ∧
          (s.nip.commanded = .unknown →
            (s.lam.mode = .ready → s.tracker.speed ≤ 256000 → (recordOr s.lam).latency ≤ 200000 →
              t.nip.commanded = .opened ∧ t.lam.mode = .busy ∧ t.nip.releaseRequest = false) ∧
            (s.lam.mode ≠ .ready →
              t.nip.commanded = .unknown ∧ t.nip.releaseRequest = true ∧
              t.nip.offer =
                some { kind := .release, target := s.tracker.p - pu (recordOr s.lam).dist,
                       wanted := s.tracker.p - pu (recordOr s.lam).dist, corrective := true }))))

/-- CLEAR_LOST: in LOST the tracker enters NO_DATUM, P kept and R, F, E, the estimate fraction, the estimate time and the jump
run 0, the reference absent, no counter and no flag changed; in any other state it is refused with WRONG_STATE (R37). -/
def Obligations.LossCleared : Prop :=
  ∀ (s : State) (token : Byte), 0 < ownRoom s →
    ∃ t, exec (.clearLost token []) s = .next t ∧
      (s.tracker.mode = .lost →
        Answered
          { s with
            tracker :=
              { s.tracker with
                mode := .noDatum, debt := 0, frac := 0, estAdvance := 0, estFrac := 0, estTime := 0, jumpRun := 0,
                reference := none } }
          (respTo s 0x31#8 token 0 0 []) t) ∧
      (s.tracker.mode ≠ .lost → Answered s (respTo s 0x31#8 token 4 0 []) t)

/-- INJECT_MARK: refused on a lane, shape or position mode of no defined value; otherwise the lane's synthetic-marks counter
increments, the tracker is left alone, and the mark is presented to the lane at the position given, or at P where the mode is now,
in every state of the tracker: a DISABLED lane discards it, a DRAINING one counts a cue refused, a RUNNING one refuses an unreadable
cue and registers an accepted one, a PITCH in tolerance re-anchors, and one that matches nothing is stray. Where a detected mark can
have that position, the event is that mark's but for the counter and the RESP (R50, R51, R199). -/
def Obligations.SyntheticMarkTaken : Prop :=
  ∀ (s : State) (token : Byte) (body : List Byte), 0 < ownRoom s → body.length = 8 →
    ∃ t, exec (.injectMark token body) s = .next t ∧
      (1 < byteAt body 0 → Answered s (respTo s 0x32#8 token 2 0 []) t) ∧
      (byteAt body 0 ≤ 1 → byteAt body 1 = 0 ∨ 3 < byteAt body 1 →
        Answered s (respTo s 0x32#8 token 2 1 []) t) ∧
      (byteAt body 0 ≤ 1 → 1 ≤ byteAt body 1 → byteAt body 1 ≤ 3 → 1 < byteAt body 3 →
        Answered s (respTo s 0x32#8 token 2 3 []) t) ∧
      (byteAt body 0 ≤ 1 → 1 ≤ byteAt body 1 → byteAt body 1 ≤ 3 → byteAt body 3 ≤ 1 →
        let l : Lane := if byteAt body 0 = 0 then .a else .b
        Carries t (respTo s 0x32#8 token 0 0 []) ∧ t.tracker = s.tracker ∧
        (t.lane l).synthetic = min ((s.lane l).synthetic + 1) 65535 ∧
        let marked := s.modLane l (fun x => { x with synthetic := min (x.synthetic + 1) 65535 })
        let resp := respTo s 0x32#8 token 0 0 []
        let shape : MarkShape := if byteAt body 1 = 1 then .cue else if byteAt body 1 = 2 then .pitch else .tail
        let tag := body.getD 2 0#8
        let p := if byteAt body 3 = 0 then BitVec.ofNat 32 (field32 body 4) else s.tracker.p
        ((s.lane l).mode = .disabled → Answered marked resp t) ∧
        ((s.lane l).mode = .draining → shape = .cue →
          Answered (marked.modLane l (fun x => { x with cuesRefused := min (x.cuesRefused + 1) 65535 })) resp t) ∧
        ((s.lane l).mode = .running → shape = .cue → tag = 0#8 ∨ tag = 255#8 →
          Answered
            (raise prioCueRefused (marked.modLane l (fun x => { x with cuesRefused := min (x.cuesRefused + 1) 65535 })))
            resp t) ∧
        ((s.lane l).mode ≠ .disabled → shape ≠ .cue → openSeg (s.lane l) = none →
          Answered (marked.modLane l (fun x => { x with strayMarks := min (x.strayMarks + 1) 65535 })) resp t) ∧
        (∀ i j, (s.lane l).mode = .running → shape = .cue → tag ≠ 0#8 → tag ≠ 255#8 → (s.lane l).segs = [] →
          s.holding tag = some i → s.slot i = some j → laneAdmits j.defn.lane l = true → j.state = .loaded →
          roomFor l j.defn s →
          ∃ g, newest (t.lane l) = some g ∧ g.tag = tag ∧ g.slot = i ∧ g.pCue = p ∧ g.anchorP = p ∧ g.state = .opened) ∧
        (∀ older g n, (s.lane l).mode ≠ .disabled → (s.lane l).segs = older ++ [g] → (∀ h ∈ older, h.id ≠ g.id) →
          g.state = .opened → g.next = some (.pitch n) → shape = .pitch →
          (sdiff p (g.coord (markOffset (s.jobOf g) (.pitch n)))).natAbs ≤ (s.lane l).record.markTol →
          ∃ g', newest (t.lane l) = some g' ∧ g'.id = g.id ∧ g'.anchorP = p ∧
            g'.anchorX = markOffset (s.jobOf g) (.pitch n)) ∧
        (∀ r m, s.tracker.mode ≠ .noDatum → s.tracker.mode ≠ .lost → s.tracker.debt = 0 → s.tracker.reference = some r →
          (sdiff r.count m).natAbs ≤ 65535 → markAt s.tracker.pEnc (sdiff r.count m) s.setup.k = p →
          ∃ v w, exec (.markConversion l shape tag m) marked = .next w ∧ EndOfEvent v w ∧ Answered v resp t))

/-- READ_STATUS and READ_MAP answer from the state as it stands and change nothing: part 0 in sixty-one bytes, each field at its
offset of R200's table, part 1 the thirty counters in sixty bytes; a map's header and at most six entries of thirty-one bytes, each
field at its offset of R201's table; a part, lane or index out of range is refused (R200, R201, R209). -/
def Obligations.StatusAndMapRead : Prop :=
  ∀ (s : State) (token a b : Byte), 0 < ownRoom s →
    (∃ t, exec (.readStatus token [a]) s = .next t ∧
      (a = 0#8 →
        Answered s (respTo s 0x40#8 token 0 0 (statusPart0 s)) t ∧ StatusLaidOut s (statusPart0 s) ∧
          ∃ more, statusPart0 s = 0x2B#8 :: 0x62#8 :: 0x01#8 :: s.nodeAddr :: more ∧ more.length = 57) ∧
      (a = 1#8 →
        let lane := fun x : LaneState => [x.cuesRefused, x.strayMarks, x.missedMarks, x.noRoom, x.synthetic]
        let station := fun x : StationState => [x.staleReplies, x.timeouts]
        let thirty :=
          [s.north.crcErrors, s.north.fwdDrops, s.south.crcErrors, s.south.fwdDrops, s.tracker.jumps, s.tracker.outOfRange,
            s.tracker.reverseDiscarded] ++ lane s.laneA ++ lane s.laneB ++ station s.lam ++ station s.trimA ++
            station s.trimB ++ station s.cutA ++ station s.cutB ++
            [s.web.unrecorded, s.mgmt.reportsLost, s.mgmt.requestsDropped]
        Answered s (respTo s 0x40#8 token 0 0 (thirty.flatMap be16)) t ∧ counters s = thirty ∧ (counters s).length = 30) ∧
      (2 ≤ a.toNat → Answered s (respTo s 0x40#8 token 2 1 []) t)) ∧
    (∃ t, exec (.readMap token [a, b]) s = .next t ∧
      (2 ≤ a.toNat → Answered s (respTo s 0x41#8 token 2 0 []) t) ∧
      (a.toNat ≤ 1 → 16 ≤ b.toNat → Answered s (respTo s 0x41#8 token 2 1 []) t) ∧
      (a.toNat ≤ 1 → b.toNat ≤ 15 →
        let segs := (s.lane (if a = 0#8 then .a else .b)).segs
        let page := (segs.drop b.toNat).take 6
        Answered s
          (respTo s 0x41#8 token 0 0
            (a :: BitVec.ofNat 8 segs.length :: b :: BitVec.ofNat 8 page.length :: page.flatMap mapEntry)) t ∧
          (page.flatMap mapEntry).length = 31 * page.length ∧ ∀ g ∈ page, EntryLaidOut g (mapEntry g)))

/-- CLEAR_FLAGS clears exactly the flags its mask selects, SET_ATTN_MASK replaces the mask, and CLEAR_COUNTERS sets all thirty
counters to 0; none touches anything else, and ATTN_N and the stop lines take their levels (R204, R206, R209), as they do at the end
of every event: ATTN_N low exactly while a flag is both set and in the mask, and each stop line by its mode and by whether a source
its mask selects is true, the attention flags as latched and the four live conditions as they stand (R175 to R177, R206). -/
def Obligations.FlagsMaskAndCountersSet : Prop :=
  (∀ u t : State, EndOfEvent u t → LinesShown t) ∧
  ∀ (s : State) (token a b : Byte), 0 < ownRoom s →
    let clearedLane := fun x : LaneState =>
      { x with cuesRefused := 0, strayMarks := 0, missedMarks := 0, noRoom := 0, synthetic := 0 }
    let clearedStation := fun x : StationState => { x with staleReplies := 0, timeouts := 0 }
    (∃ t, exec (.clearFlags token [a, b]) s = .next t ∧ LinesShown t ∧
      Answered { s with mgmt := { s.mgmt with flags := s.mgmt.flags &&& ~~~(BitVec.ofNat 14 (a.toNat * 256 + b.toNat)) } }
        (respTo s 0x50#8 token 0 0 []) t) ∧
    (∃ t, exec (.setAttnMask token [a, b]) s = .next t ∧ LinesShown t ∧
      Answered { s with mgmt := { s.mgmt with mask := BitVec.ofNat 14 (a.toNat * 256 + b.toNat) } }
        (respTo s 0x51#8 token 0 0 []) t) ∧
    (∃ t, exec (.clearCounters token []) s = .next t ∧ LinesShown t ∧ counters t = List.replicate 30 0 ∧
      Answered
        { s with
          north := { s.north with crcErrors := 0, fwdDrops := 0 }, south := { s.south with crcErrors := 0, fwdDrops := 0 }
          tracker := { s.tracker with jumps := 0, outOfRange := 0, reverseDiscarded := 0 }
          laneA := clearedLane s.laneA, laneB := clearedLane s.laneB, lam := clearedStation s.lam
          trimA := clearedStation s.trimA, trimB := clearedStation s.trimB, cutA := clearedStation s.cutA
          cutB := clearedStation s.cutB, web := { s.web with unrecorded := 0 }
          mgmt := { s.mgmt with reportsLost := 0, requestsDropped := 0 } }
        (respTo s 0x52#8 token 0 0 []) t)

/-- LINE_RESET with a valid body resets every block: tracker, lanes and their queues, Trim Planners, stations, Nip Planner, Web Event
Unit, flags, reports, counters and port queues. It keeps the node address, the records, the mask, the action id sequence, the stored
temperature and sensor state, the frames in transmission, and with KEEP_TABLES the Job Table with every in-use count 0. Unicast it
answers OK first, and that RESP is the one own frame left; with KEEP_TABLES other than 0 or 1 no reset follows (R20, R45, R94, R124,
R147, R160, R178, R195, R210). That the south forward queue is left empty by a broadcast is the model's choice: the command is the
reset at the unit, and R195's forwarded copy belongs to FRAME_RECEIVED (notes/assumptions/22.md, DESIGN CHOICE). -/
def Obligations.LineResetKeepsRecords : Prop :=
  ∀ (s : State) (token keep : Byte) (broadcast : Bool), broadcast = true ∨ 0 < ownRoom s →
    ∃ t, exec (.lineReset broadcast token [keep]) s = .next t ∧
      (2 ≤ keep.toNat →
        (broadcast = true → EndOfEvent s t) ∧ (broadcast = false → Answered s (respTo s 0x60#8 token 2 1 []) t)) ∧
      (keep.toNat ≤ 1 →
        (broadcast = true → t.north.own = [] ∧ t.north.tx = s.north.tx) ∧
        (broadcast = false →
          (∀ f ∈ t.north.own, f = respTo s 0x60#8 token 0 0 []) ∧ t.north.own.length ≤ 1 ∧
          Carries t (respTo s 0x60#8 token 0 0 []) ∧ (s.north.tx ≠ none → t.north.tx = s.north.tx)) ∧
        t.north.up = s.north.up ∧ t.north.fwd = [] ∧ t.north.run = 0 ∧ t.south.up = s.south.up ∧ t.south.fwd = [] ∧
        t.south.urgent = [] ∧ t.south.tx = s.south.tx ∧
        t.nodeAddr = s.nodeAddr ∧ t.setup = s.setup ∧ t.mgmt.mask = s.mgmt.mask ∧ t.lastId = s.lastId ∧
        t.tracker = Tracker.reset ∧ t.mgmt.flags = 0#14 ∧ t.mgmt.pendingAttn = false ∧ t.mgmt.reports = [] ∧
        counters t = List.replicate 30 0 ∧
        (∀ l, (t.lane l).mode = .disabled ∧ (t.lane l).segs = [] ∧ (t.lane l).record = (s.lane l).record ∧
          (t.lane l).stretch = 0 ∧ (t.lane l).cutQueue = [] ∧ (t.lane l).trimQueue = [] ∧ (t.lane l).knifePlan = .parked ∧
          (t.lane l).lateral = none ∧ (t.lane l).pendingKnife = none ∧ (t.lane l).moves = []) ∧
        (∀ st, (t.station st).record = (s.station st).record ∧ (t.station st).outstanding = none ∧
          (t.station st).mode = (if (s.station st).configured then .ready else .offline)) ∧
        t.nip.zones = [] ∧ t.nip.plan = [] ∧ t.nip.begun = [] ∧ t.nip.commanded = .unknown ∧ t.nip.decided = none ∧
        t.nip.last = none ∧
        t.nip.releaseRequest = false ∧ t.nip.offer = none ∧ t.nip.tempValid = false ∧ t.nip.validity = none ∧
        t.nip.temp = s.nip.temp ∧ t.nip.sensor = s.nip.sensor ∧ t.web = WebUnit.reset ∧
        (keep = 1#8 → t.jobs = s.jobs.map (Option.map (fun r => { r with inUse := 0 }))) ∧
        (keep = 0#8 → t.jobs = s.jobs.map (fun _ => none)))

/-- A request is not executed where no place is free, which its counter shows; a code of no request is answered UNKNOWN_REQUEST
and a body of another length BAD_LEN; each leaves everything else as it was (R196, R197). -/
def Obligations.RequestRefused : Prop :=
  ∀ (s : State) (code token : Byte) (body : List Byte),
    (ownRoom s = 0 →
      ∃ t, exec (requestOf code token body) s = .next t ∧
        EndOfEvent
          { s with mgmt := { s.mgmt with requestsDropped := min (s.mgmt.requestsDropped + 1) 65535 } } t) ∧
    (0 < ownRoom s → code ∉ requestCodes →
      ∃ t, exec (.unknownRequest code token body) s = .next t ∧ Answered s (respTo s code token 3 0 []) t) ∧
    (∀ n, 0 < ownRoom s →
      (code, n) ∈ [(0x01#8, 147), (0x02#8, 1), (0x03#8, 1), (0x10#8, 46), (0x11#8, 8), (0x12#8, 34), (0x20#8, 1),
        (0x21#8, 1), (0x22#8, 1), (0x30#8, 1), (0x31#8, 0), (0x32#8, 8), (0x40#8, 1), (0x41#8, 2), (0x50#8, 2),
        (0x51#8, 2), (0x52#8, 0), (0x60#8, 1)] →
      body.length ≠ n →
      ∃ t, exec (requestOf code token body) s = .next t ∧ Answered s (respTo s code token 1 0 []) t)

/-! ## What every step keeps -/

/-- Every step keeps the lane maps, the cut and trim queues, the zone list, the splice list, the report queue, the own normal queue,
both forward queues and the Job Table within their capacities, and s_seg, s_lane, the run count, the speed, the fraction F and the
thirty counters within their ranges (R1, R26, R27, R56, R62, R79, R80, R100, R188, R190, R207, R209). The urgent queue is not
bounded (notes/assumptions/19.md). -/
def Obligations.StepKeepsCapacities : Prop :=
  ∀ s t : State, Capacities s → step s = .next t → Capacities t

/-- Every step keeps the tracker, the stations, the Nip Planner, the ports and the output lines in agreement: ATTN_N and the stop lines
show the levels R175, R176 and R206 give them, and an idle port has nothing queued (R25, R29, R35, R97, R132, R134, R141, R177, R179, R189, R190, R206). -/
def Obligations.StepKeepsAgreement : Prop :=
  ∀ s t : State, Agrees s → step s = .next t → Agrees t

/-- Every step keeps each record's in-use count equal to the number of segments registered from its slot (R17). -/
def Obligations.StepKeepsInUseCounts : Prop :=
  ∀ s t : State, JobsAgree s → step s = .next t → JobsAgree t

/-- Every step keeps the nip plan the one R129 and R130 give for the zone list as it stands, every zone entry with a segment of a
lane map, the map of a DISABLED lane empty, and every segment but the newest of its map CLOSED (R46, R60, R73, R74, R125, R129 to
R131). -/
def Obligations.StepKeepsPlanCurrent : Prop :=
  ∀ s t : State, PlanAgrees s → step s = .next t → PlanAgrees t

/-- The state after reset is within its capacities and in agreement. -/
def Obligations.ResetMeetsInvariants : Prop :=
  Capacities State.reset ∧ Agrees State.reset ∧ JobsAgree State.reset ∧ PlanAgrees State.reset

/-- Only COLD_RESET, ENUM, a received frame, the four writing requests, LINE_RESET and an unknown code can change the node
address, the line setup, the attention mask or a record of a lane or a station; and, of the other commands, only the samples,
marks, timers, CLEAR_LOST and CLEAR_COUNTERS can change the tracker. -/
def Obligations.SettingsKeptByOtherCommands : Prop :=
  ∀ (c : Instr) (s t : State), exec c s = .next t →
    (match c with
      | .coldReset | .enum _ _ _ | .frameReceived _ _ | .writeStation _ _ | .writeLane _ _ | .writeLine _ _
      | .setAttnMask _ _ | .lineReset _ _ _ | .unknownRequest _ _ _ => False
      | _ => True) →
    (t.nodeAddr = s.nodeAddr ∧ t.setup = s.setup ∧ t.mgmt.mask = s.mgmt.mask ∧
      (∀ l, (t.lane l).record = (s.lane l).record) ∧ (∀ st, (t.station st).record = (s.station st).record)) ∧
    ((match c with
      | .posSample _ _ | .markConversion _ _ _ _ | .sampleTimerExpiry | .estimateTick | .estimateTimeExpiry
      | .clearLost _ _ | .clearCounters _ _ => False
      | _ => True) →
      t.tracker = s.tracker)

/-- No command but LANE START returns a lane to RUNNING, and only from DISABLED: by its own command, by a frame from the north that is
a REQ of its code for the part, or by an UNKNOWN_REQUEST command given its code, which is served as that request
(notes/assumptions/33.md) (R74). -/
def Obligations.OnlyLaneStartRunsLane : Prop :=
  ∀ (c : Instr) (s t : State) (l : Lane), exec c s = .next t → (s.lane l).mode ≠ .running → (t.lane l).mode = .running →
    (s.lane l).mode = .disabled ∧
    (match c with
      | .laneStart _ _ => True
      | .frameReceived .north bytes =>
          ∃ f, readFrame bytes = some f ∧ f.kind = 0x40#8 ∧ f.dst = s.nodeAddr ∧ f.payload.head? = some 0x20#8
      | .unknownRequest code _ _ => code = 0x20#8
      | _ => False)
end

