-- ==== Sys2Proof/Laws/Arith.lean ====
section
/-! SUPPORT. The model's values are the ones the statements write out: the check of a frame, an ACT payload, the temperature
window, a mark's position, a web coordinate, a converted temperature and a trim need. -/

namespace Sys2Proof.Machine

/-! ## The check of a frame (R181) -/

/-- Shifting the byte in at the top is feeding its top bit. -/
theorem crcBit_feed (r : BitVec 16) (b : BitVec 8) :
    crcBit (r ^^^ (b.zeroExtend 16 <<< 8)) = crcFeed r (b.getLsbD 7) ^^^ ((b <<< 1).zeroExtend 16 <<< 8) := by
  have h : (r ^^^ (b.zeroExtend 16 <<< 8)).msb = (r.getLsbD 15 ^^ b.getLsbD 7) := by
    simp [BitVec.msb_eq_getLsbD_last]
  have e : (r ^^^ (b.zeroExtend 16 <<< 8)) <<< 1 = (r <<< 1) ^^^ ((b <<< 1).zeroExtend 16 <<< 8) := by
    apply BitVec.eq_of_getLsbD_eq
    intro i hi
    have : i = 0 ∨ i = 1 ∨ i = 2 ∨ i = 3 ∨ i = 4 ∨ i = 5 ∨ i = 6 ∨ i = 7 ∨ i = 8 ∨ i = 9 ∨ i = 10 ∨ i = 11 ∨ i = 12 ∨
      i = 13 ∨ i = 14 ∨ i = 15 := by omega
    rcases this with h | h | h | h | h | h | h | h | h | h | h | h | h | h | h | h <;> subst h <;> simp
  unfold crcBit crcFeed
  rw [h, e]
  cases r.getLsbD 15 <;> cases b.getLsbD 7 <;> simp <;> ac_rfl

/-- One byte is its eight bits fed most significant first. -/
theorem crcByte_feed (r : BitVec 16) (b : Byte) :
    crcByte r b = ((List.range 8).map (fun i => b.getLsbD (7 - i))).foldl crcFeed r := by
  have z : ((b <<< 1 <<< 1 <<< 1 <<< 1 <<< 1 <<< 1 <<< 1 <<< 1).zeroExtend 16 <<< 8) = 0#16 := by
    have : b <<< 1 <<< 1 <<< 1 <<< 1 <<< 1 <<< 1 <<< 1 <<< 1 = 0#8 := by
      revert b; decide
    rw [this]; rfl
  unfold crcByte
  simp only [crcBit_feed, z, BitVec.xor_zero]
  simp [List.range_succ]

/-- The model's check is the one of R181 as a statement writes it. -/
theorem crc16_wireCheck (bytes : List Byte) : crc16 bytes = wireCheck bytes := by
  unfold crc16 wireCheck
  generalize 0xFFFF#16 = r
  induction bytes generalizing r with
  | nil => rfl
  | cons b bs ih => rw [List.foldl_cons, ih, List.flatMap_cons, List.foldl_append, crcByte_feed]

/-! ## Stations and the nip -/

theorem actPayload_bytes (id : BitVec 16) (act : Action) (delay : Nat) : actPayload id act delay = actBytes id act delay := by
  unfold actPayload actBytes
  cases act.kind <;> simp [actKindCode, be8, be16]

theorem tempOut_iff (s : State) : tempOut s = true ↔ OutOfWindow s := by
  unfold tempOut tempWindow OutOfWindow
  cases s.lam.record <;> simp [or_assoc]

/-! ## Positions -/

theorem markPos_at (pEnc : Word32) (delta : Int) (k : Nat) : markPos pEnc delta k = markAt pEnc delta k := rfl

theorem roundHalfAway_nearest (n : Int) :
    2 * (1000000 * roundHalfAway n 1000000 - n).natAbs ≤ 1000000 ∧
    (2 * (1000000 * roundHalfAway n 1000000 - n).natAbs = 1000000 →
      n.natAbs ≤ (1000000 * roundHalfAway n 1000000).natAbs) := by
  unfold roundHalfAway
  split <;> omega

theorem webCoord_coordOf (anchorP : Word32) (anchorX : Nat) (stretch : Int) (x : Nat) :
    CoordOf anchorP anchorX stretch x (webCoord anchorP anchorX stretch x) :=
  ⟨_, rfl, roundHalfAway_nearest _⟩

/-! ## The temperature table (R142) -/

/-- An interpolated value does not fall below zero, so its truncation to a natural loses nothing. -/
theorem interpolate_eq (c : Nat) (p q : Nat × Nat) (hp : p.1 ≤ c) (hq : c < q.1) :
    (interpolate c p q : Int) = p.2 + (((c : Int) - p.1) * ((q.2 : Int) - p.2)).tdiv ((q.1 : Int) - p.1) := by
  unfold interpolate truncDiv
  rw [Int.toNat_of_nonneg]
  have hd : 0 < (q.1 : Int) - p.1 := by omega
  rcases le_total (p.2 : Int) q.2 with h | h
  · have := Int.tdiv_nonneg (mul_nonneg (by omega : (0 : Int) ≤ (c : Int) - p.1) (by omega : (0 : Int) ≤ (q.2 : Int) - p.2)) hd.le
    omega
  · have e : ((c : Int) - p.1) * ((q.2 : Int) - p.2) = -(((c : Int) - p.1) * ((p.2 : Int) - q.2)) := by ring
    rw [e, Int.neg_tdiv, Int.tdiv_eq_ediv_of_nonneg (mul_nonneg (by omega) (by omega))]
    have : ((c : Int) - p.1) * ((p.2 : Int) - q.2) / ((q.1 : Int) - p.1) ≤ (p.2 : Int) - q.2 := by
      apply Int.ediv_le_of_le_mul hd
      rw [mul_comm]
      exact mul_le_mul_of_nonneg_left (by omega) (by omega)
    omega

theorem tempFrom_above (c : Nat) (rest : List (Nat × Nat)) (p : Nat × Nat)
    (hs : (p :: rest).Pairwise (fun a b => a.1 < b.1)) (hp : p.1 ≤ c) :
    (∀ q, (p :: rest).getLast? = some q → q.1 ≤ c → tempFrom c p rest = q.2) ∧
    (∀ (i : Nat) a b, (p :: rest)[i]? = some a → (p :: rest)[i + 1]? = some b → a.1 ≤ c → c < b.1 →
      (tempFrom c p rest : Int) = a.2 + (((c : Int) - a.1) * ((b.2 : Int) - a.2)).tdiv ((b.1 : Int) - a.1)) := by
  induction rest generalizing p with
  | nil => exact ⟨by simp +contextual [tempFrom], by simp⟩
  | cons q rest ih =>
    have hs' := (List.pairwise_cons.mp hs).2
    unfold tempFrom
    split
    · rename_i hq
      refine ⟨fun x hx hc => ?_, fun i a b ha hb hac hcb => ?_⟩
      · have hm : x ∈ q :: rest := List.mem_of_getLast? (by simpa using hx)
        rcases List.mem_cons.mp hm with rfl | hm
        · omega
        · have := (List.pairwise_cons.mp hs').1 x hm
          omega
      · cases i with
        | zero => simp at ha hb; subst ha hb; exact interpolate_eq c p q hp hq
        | succ i =>
          have hm : a ∈ q :: rest := List.mem_of_getElem? (by simpa using ha)
          rcases List.mem_cons.mp hm with rfl | hm
          · omega
          · have := (List.pairwise_cons.mp hs').1 a hm
            omega
    · rename_i hq
      obtain ⟨k1, k2⟩ := ih q hs' (by omega)
      refine ⟨fun x hx => k1 x (by simpa using hx), fun i a b ha hb hac hcb => ?_⟩
      cases i with
      | zero => simp at ha hb; subst ha hb; omega
      | succ i => exact k2 i a b (by simpa using ha) (by simpa using hb) hac hcb

/-- A table with rising codes converts as R142 states. -/
theorem convertTemp_convertsTo (table : List (Nat × Nat)) (c : Nat) (hs : table.Pairwise (fun a b => a.1 < b.1)) :
    ConvertsTo table c (convertTemp table c) := by
  cases table with
  | nil => exact ⟨by simp, by simp, by simp⟩
  | cons p rest =>
    simp only [convertTemp]
    refine ⟨fun q hq hc => ?_, fun q hq hc => ?_, fun i a b ha hb hac hcb => ?_⟩
    · simp at hq; subst hq; simp [hc]
    · split
      · rename_i h
        cases rest with
        | nil => simp at hq; rw [hq]
        | cons r rest =>
          have := (List.pairwise_cons.mp hs).1 q (List.mem_of_getLast? (by simpa using hq))
          omega
      · exact (tempFrom_above c rest p hs (by omega)).1 q hq hc
    · split
      · rename_i h
        cases i with
        | zero =>
          simp at ha; subst ha
          have : c = p.1 := by omega
          subst this; simp
        | succ i =>
          have := (List.pairwise_cons.mp hs).1 a (List.mem_of_getElem? (by simpa using ha))
          omega
      · exact (tempFrom_above c rest p hs (by omega)).2 i a b ha hb hac hcb

/-! ## The trim need (R150) -/

theorem trimNeed_needsKnife (r : LaneRecord) (job : JobDef) : NeedsKnife r job (trimNeed r job) := by
  unfold NeedsKnife trimNeed clampedTrim clampNat
  refine ⟨fun h => by simp [h], fun n f h => ?_⟩
  simp only [h]
  split <;> split <;> first | rfl | (exfalso; omega) | (congr 1 <;> omega)

end Sys2Proof.Machine
end

