-- ==== Sys2Proof/Laws/Bodies.lean ====
section
/-! SUPPORT. The checks of a request's body, field by field: what the first failing one says, and that the lists of cuts, pitches,
zones and table points hold place by place as R11 and R95 state them. -/

namespace Sys2Proof.Machine

/-! ## The first failing field (R197) -/

/-- Where each check says whether its field holds, the fields of no check holding, the first failing check is the first field
that fails, and no check fails exactly where every field holds. -/
theorem firstFailing_fields (holds : Nat → Prop) : ∀ (checks : List (Nat × Bool)) (lo : Nat), (∀ k < lo, holds k) →
    (checks.map (fun c => c.1)).Pairwise (· < ·) → (∀ c ∈ checks, lo ≤ c.1) →
    (∀ k, lo ≤ k → k ∉ checks.map (fun c => c.1) → holds k) →
    (∀ c ∈ checks, (∀ k < c.1, holds k) → (c.2 = true ↔ holds c.1)) →
    match firstFailing checks with
    | none => ∀ k, holds k
    | some n => FailsFirst holds n
  | [], lo, below, _, _, gap, _ => by
    intro k
    rcases Nat.lt_or_ge k lo with h | h
    · exact below k h
    · exact gap k h (by simp)
  | (n, ok) :: rest, lo, below, sorted, above, gap, agree => by
    rw [List.map_cons, List.pairwise_cons] at sorted
    have before : ∀ k < n, holds k := by
      intro k hk
      rcases Nat.lt_or_ge k lo with h | h
      · exact below k h
      · refine gap k h ?_
        intro z
        rcases List.mem_cons.mp z with z | z
        · exact absurd z (Nat.ne_of_lt hk)
        · have := sorted.1 k z
          omega
    have here := agree (n, ok) (by simp) before
    cases ok with
    | false => exact ⟨fun z => by simpa using here.mpr z, before⟩
    | true =>
      refine firstFailing_fields holds rest (n + 1) ?_ sorted.2 ?_ ?_ (fun c h => agree c (by simp [h]))
      · intro k hk
        rcases Nat.lt_succ_iff_lt_or_eq.mp hk with h | h
        · exact before k h
        · rw [h]; exact here.mp rfl
      · exact fun c h => sorted.1 c.1 (List.mem_map_of_mem h)
      · intro k hk z
        refine gap k (by have := above (n, true) (by simp); simp at this; omega) ?_
        intro y
        rcases List.mem_cons.mp y with y | y
        · simp at y; omega
        · exact z y

/-- Two fields that fail first are one. -/
theorem FailsFirst.unique {holds : Nat → Prop} {n m : Nat} (a : FailsFirst holds n) (b : FailsFirst holds m) : n = m := by
  rcases Nat.lt_trichotomy n m with h | h | h
  · exact absurd (b.2 n h) a.1
  · exact h
  · exact absurd (a.2 m h) b.1

/-- What the first failing check says of the fields, and the fields of it. -/
theorem firstFailing_iff {holds : Nat → Prop} {checks : List (Nat × Bool)}
    (h : match firstFailing checks with | none => ∀ k, holds k | some n => FailsFirst holds n) :
    (firstFailing checks = none ↔ ∀ k, holds k) ∧ ∀ n, firstFailing checks = some n ↔ FailsFirst holds n := by
  cases e : firstFailing checks with
  | none =>
    rw [e] at h
    exact ⟨⟨fun _ => h, fun _ => rfl⟩, fun n => ⟨fun z => (by cases z), fun z => absurd (h n) z.1⟩⟩
  | some m =>
    rw [e] at h
    refine ⟨⟨fun z => (by cases z), fun z => absurd (z m) h.1⟩, fun n => ⟨fun z => ?_, fun z => ?_⟩⟩
    · cases z; exact h
    · rw [h.unique z]

/-! ## Lists by place -/

theorem forall_lt_succ (n : Nat) (p : Nat → Prop) : (∀ k < n + 1, p k) ↔ p 0 ∧ ∀ k < n, p (k + 1) := by
  constructor
  · exact fun h => ⟨h 0 (by omega), fun k hk => h (k + 1) (by omega)⟩
  · rintro ⟨h, g⟩ k hk
    cases k with
    | zero => exact h
    | succ k => exact g k (by omega)

/-- What each place of a list says of itself and of the one before it, a further place put in front of it. -/
theorem places_cons (e f : Nat → Nat) (p : Nat → Prop) (q : Nat → Nat → Prop) (n : Nat) (h : ∀ k, e (k + 1) = f k) :
    (∀ k < n + 1, p (e k) ∧ (0 < k → q (e (k - 1)) (e k))) ↔
      p (e 0) ∧ (0 < n → q (e 0) (f 0)) ∧ ∀ k < n, p (f k) ∧ (0 < k → q (f (k - 1)) (f k)) := by
  rw [forall_lt_succ]
  constructor
  · rintro ⟨a, b⟩
    refine ⟨a.1, fun z => by have := (b 0 z).2 (by omega); rwa [h] at this, fun k hk => ⟨by rw [← h]; exact (b k hk).1, fun z => ?_⟩⟩
    have := (b k hk).2 (by omega)
    rw [h] at this
    rwa [show f (k - 1) = e k by rw [← h]; congr 1; omega]
  · rintro ⟨a, b, c⟩
    refine ⟨⟨a, fun z => absurd z (by omega)⟩, fun k hk => ⟨by rw [h]; exact (c k hk).1, fun _ => ?_⟩⟩
    rw [h, Nat.add_sub_cancel]
    cases k with
    | zero => exact b hk
    | succ k => rw [h]; exact (c (k + 1) hk).2 (by omega)

theorem cutsOk_entries (body : List Byte) (bound : Nat) : ∀ (n i : Nat) (prev : Option Nat),
    cutsOk bound prev (entries32 body n i) = true ↔
      (∀ p, prev = some p → 0 < n → p + 1000 ≤ field32 body i) ∧
      ∀ k < n, field32 body (i + 4 * k) ≤ bound ∧
        (0 < k → field32 body (i + 4 * (k - 1)) + 1000 ≤ field32 body (i + 4 * k))
  | 0, i, prev => by simp [entries32, cutsOk]
  | n + 1, i, prev => by
    rw [places_cons (fun k => field32 body (i + 4 * k)) (fun k => field32 body (i + 4 + 4 * k)) (· ≤ bound)
      (fun x y => x + 1000 ≤ y) n (fun k => by rw [Nat.mul_add, Nat.add_right_comm, Nat.add_assoc])]
    cases prev <;> simp [entries32, cutsOk, cutsOk_entries body bound n (i + 4), and_assoc, and_comm]

theorem pitchesOk_entries (body : List Byte) (lNom : Nat) : ∀ (n i : Nat) (prev : Option Nat),
    pitchesOk lNom prev (entries32 body n i) = true ↔
      (∀ p, prev = some p → 0 < n → p < field32 body i) ∧
      ∀ k < n, (1 ≤ field32 body (i + 4 * k) ∧ field32 body (i + 4 * k) + 1 ≤ lNom) ∧
        (0 < k → field32 body (i + 4 * (k - 1)) < field32 body (i + 4 * k))
  | 0, i, prev => by simp [entries32, pitchesOk]
  | n + 1, i, prev => by
    rw [places_cons (fun k => field32 body (i + 4 * k)) (fun k => field32 body (i + 4 + 4 * k)) (fun x => 1 ≤ x ∧ x + 1 ≤ lNom)
      (fun x y => x < y) n (fun k => by rw [Nat.mul_add, Nat.add_right_comm, Nat.add_assoc])]
    cases prev <;> simp [entries32, pitchesOk, pitchesOk_entries body lNom n (i + 4), and_assoc, and_left_comm]

theorem tableOk_points (body : List Byte) : ∀ (n i : Nat) (prev : Option Nat),
    tableOk prev (tablePoints body n i) = true ↔
      (∀ p, prev = some p → 0 < n → p < byteAt body i) ∧
      ∀ k < n, field16 body (i + 1 + 3 * k) ≤ 3000 ∧ (0 < k → byteAt body (i + 3 * (k - 1)) < byteAt body (i + 3 * k))
  | 0, i, prev => by simp [tablePoints, tableOk]
  | n + 1, i, prev => by
    have step := places_cons (fun k => i + 3 * k) (fun k => i + 3 + 3 * k) (fun x => field16 body (x + 1) ≤ 3000)
      (fun x y => byteAt body x < byteAt body y) n (fun k => by omega)
    have e : ∀ j k, j + 1 + 3 * k = j + 3 * k + 1 := by omega
    simp only [e, step]
    cases prev <;> simp [tablePoints, tableOk, tableOk_points body n (i + 3), e, and_assoc, and_comm]

/-- The zone of a body at an offset. -/
def zoneAt (body : List Byte) (i : Nat) : RawZone :=
  { x1 := field32 body i, x2 := field32 body (i + 4), mode := byteAt body (i + 8) }

theorem zonesOk_raw (body : List Byte) (last : Nat) : ∀ (n i : Nat) (before : List RawZone),
    zonesOk last before (rawZones body n i) = true ↔
      ∀ k < n, (byteAt body (i + 9 * k + 8) = 1 ∨ byteAt body (i + 9 * k + 8) = 2) ∧
        field32 body (i + 9 * k) < field32 body (i + 9 * k + 4) ∧ field32 body (i + 9 * k + 4) ≤ last ∧
        (∀ w ∈ before, zonesShare (zoneAt body (i + 9 * k)) w = false) ∧
        ∀ m < k, zonesShare (zoneAt body (i + 9 * k)) (zoneAt body (i + 9 * m)) = false
  | 0, i, before => by simp [rawZones, zonesOk]
  | n + 1, i, before => by
    have e : ∀ k, i + 9 * (k + 1) = i + 9 + 9 * k := by omega
    have tail := zonesOk_raw body last n (i + 9) (before ++ [zoneAt body i])
    rw [forall_lt_succ]
    show (_ && _ && _ && _ && zonesOk last (before ++ [zoneAt body i]) (rawZones body n (i + 9))) = true ↔ _
    rw [Bool.and_eq_true, tail]
    simp only [Bool.and_eq_true, Bool.or_eq_true, decide_eq_true_eq, Bool.not_eq_true', List.any_eq_false,
      Bool.not_eq_true, and_assoc]
    refine and_congr Iff.rfl (and_congr Iff.rfl (and_congr Iff.rfl (and_congr Iff.rfl ?_)))
    constructor
    · intro h
      refine ⟨fun m z => absurd z (by omega), fun k hk => ?_⟩
      obtain ⟨h1, h2, h3, h4, h5⟩ := h k hk
      rw [e]
      refine ⟨h1, h2, h3, fun w hw => h4 w (by simp [hw]), fun m hm => ?_⟩
      cases m with
      | zero => exact h4 _ (by simp)
      | succ m => rw [e]; exact h5 m (by omega)
    · rintro ⟨_, h⟩ k hk
      obtain ⟨h1, h2, h3, h4, h5⟩ := h k hk
      rw [e] at h1 h2 h3 h4 h5
      refine ⟨h1, h2, h3, fun w hw => ?_, fun m hm => by have := h5 (m + 1) (by omega); rwa [e] at this⟩
      rcases List.mem_append.mp hw with hw | hw
      · exact h4 w hw
      · rw [List.mem_singleton.mp hw]; exact h5 0 (by omega)

/-! ## The bodies (R11, R96, R198) -/

/-- The last cut offset of a body with a cut. -/
theorem last_entry (body : List Byte) : ∀ (n i : Nat), (entries32 body (n + 1) i).getLastD 0 = field32 body (i + 4 * n)
  | 0, i => by simp [entries32]
  | n + 1, i => by
    have := last_entry body n (i + 4)
    rw [show i + 4 * (n + 1) = i + 4 + 4 * n by omega, ← this]
    simp [entries32]

/-- The checks of a WRITE JOB body are R11's. -/
theorem jobChecks_fields (body : List Byte) :
    (firstFailing (jobChecks body) = none ↔ ∀ n, JobFieldHolds body n) ∧
      ∀ n, firstFailing (jobChecks body) = some n ↔ FailsFirst (JobFieldHolds body) n := by
  refine firstFailing_iff (firstFailing_fields _ _ 0 (by simp) (by simp [jobChecks]) (by simp) ?_ ?_)
  · intro k _ h
    simp [jobChecks] at h
    match k with
    | 0 | 1 | 2 | 3 | 4 | 5 | 6 | 7 | 8 | 9 | 10 => omega
    | n + 11 => trivial
  · intro c h before
    simp only [jobChecks, List.mem_cons, List.not_mem_nil, or_false] at h
    rcases h with rfl | rfl | rfl | rfl | rfl | rfl | rfl | rfl | rfl | rfl | rfl
    · simp [inRange, JobFieldHolds]
    · simp [inRange, JobFieldHolds]
    · simp [inRange, JobFieldHolds]
    · simp [inRange, JobFieldHolds]
    · simp [inRange, JobFieldHolds]
    · simp [inRange, JobFieldHolds]
    · simp [inRange, JobFieldHolds, bodyCuts, cutsOk_entries, and_assoc]
    · have six : 1 ≤ byteAt body 10 := (before 6 (show 6 < 7 by decide)).1
      obtain ⟨n, hn⟩ := Nat.exists_eq_add_of_le' six
      have last : (bodyCuts body).getLastD 0 = field32 body (11 + 4 * (byteAt body 10 - 1)) := by
        rw [bodyCuts, hn, last_entry, Nat.add_sub_cancel]
      simp only [last, bodyZones, Bool.and_eq_true, zonesOk_raw, JobFieldHolds, inRange, decide_eq_true_eq, zonesShare,
        zoneAt]
      have e : ∀ k, 44 + 9 * k + 8 = 52 + 9 * k ∧ 44 + 9 * k + 4 = 48 + 9 * k := by omega
      simp only [e, Nat.zero_le, true_and, List.not_mem_nil, false_implies, implies_true]
      refine and_congr Iff.rfl (forall₂_congr fun k _ =>
        and_congr Iff.rfl (and_congr Iff.rfl (and_congr Iff.rfl (forall₂_congr fun m _ => ?_))))
      rw [Bool.and_eq_false_iff, decide_eq_false_iff_not, decide_eq_false_iff_not, Nat.not_le, Nat.not_le]
    · simp only [inRange, JobFieldHolds, Bool.and_eq_true, Bool.or_eq_true, decide_eq_true_eq]
      constructor
      · rintro ⟨h, g⟩
        exact ⟨h.2, fun p => by rcases g with g | g <;> omega⟩
      · rintro ⟨h, g⟩
        refine ⟨⟨Nat.zero_le _, h⟩, ?_⟩
        rcases Nat.eq_zero_or_pos (byteAt body 80) with z | z
        · exact .inl z
        · exact .inr (g (by omega))
    · simp only [inRange, JobFieldHolds, bodyPitches, pitchesOk_entries, Bool.and_eq_true, decide_eq_true_eq, and_assoc,
        Nat.add_one_le_iff]
      simp
    · simp [inRange, JobFieldHolds]


/-- A station answers as an address where its record is present and enabled and holds that address (R96, R113). -/
theorem answersAs_iff (src : Byte) (x : StationState) :
    answersAs src x = true ↔ ∃ r, x.record = some r ∧ r.enabled = true ∧ r.addr = src := by
  obtain ⟨record, _, _, _, _⟩ := x
  cases record
  · simp [answersAs, StationState.configured]
  · simp only [answersAs, StationState.configured, recordOr, Option.getD_some, Bool.and_eq_true, Option.some.injEq,
      exists_eq_left']
    exact and_congr Iff.rfl decide_eq_true_iff

/-- The checks of a WRITE STATION body are R96's. -/
theorem stationChecks_fields (st : Station) (body : List Byte) (s : State) :
    (firstFailing (stationChecks st body s) = none ↔ ∀ n, StationFieldHolds st body s n) ∧
      ∀ n, firstFailing (stationChecks st body s) = some n ↔ FailsFirst (StationFieldHolds st body s) n := by
  refine firstFailing_iff (firstFailing_fields _ _ 0 (by simp) (by cases st <;> simp [stationChecks, isTrim]) (by simp) ?_ ?_)
  · intro k _ h
    match k with
    | 1 | 2 | 3 | 4 | 5 | 6 => simp [stationChecks] at h
    | 7 | 8 | 9 | 10 => cases st <;> simp_all [stationChecks, isTrim, StationFieldHolds]
    | 0 => trivial
    | n + 11 => trivial
  · intro c h before
    have addr : (othersOf st).all (fun x => !answersAs (body.getD 2 0#8) (s.station x)) = true ↔
        ∀ other, other ≠ st → ∀ r, (s.station other).record = some r → r.enabled = true → r.addr.toNat ≠ byteAt body 2 := by
      simp only [List.all_eq_true, othersOf, List.mem_filter, decide_eq_true_eq, Bool.not_eq_true', ← Bool.not_eq_true,
        answersAs_iff]
      constructor
      · exact fun z other ne r hr en x =>
          z other ⟨by cases other <;> simp, ne⟩ ⟨r, hr, en, BitVec.eq_of_toNat_eq x⟩
      · rintro z other ⟨_, ne⟩ ⟨r, hr, en, x⟩
        exact z other ne r hr en (congrArg BitVec.toNat x)
    simp only [stationChecks, List.mem_append, List.mem_cons, List.not_mem_nil, or_false] at h
    rcases h with ((rfl | rfl | rfl | rfl | rfl | rfl) | h) | h
    · simp [inRange, StationFieldHolds]
    · simp only [inRange, StationFieldHolds, addrFree, Bool.and_eq_true, Bool.or_eq_true, decide_eq_true_eq, addr, and_assoc]
      refine and_congr Iff.rfl (and_congr Iff.rfl ?_)
      have one : byteAt body 1 ≤ 1 := before 1 (show 1 < 2 by decide)
      constructor
      · rintro (z | z) y
        · omega
        · exact z
      · intro z
        rcases Nat.eq_zero_or_pos (byteAt body 1) with y | y
        · exact .inl y
        · exact .inr (z (by omega))
    · simp [inRange, StationFieldHolds]
    · simp [inRange, StationFieldHolds]
    · simp [inRange, StationFieldHolds]
    · simp [inRange, StationFieldHolds]
    · cases st <;> simp [isTrim] at h
      all_goals rcases h with rfl | rfl <;> simp [inRange, StationFieldHolds]
    · cases st <;> simp at h
      rcases h with rfl | rfl
      · simp [StationFieldHolds, bodyTable, tableOk_points]
      · simp [StationFieldHolds, windowOk, and_assoc]

/-- The checks of a WRITE LINE body are R198's. -/
theorem lineChecks_fields (body : List Byte) :
    (firstFailing (lineChecks body) = none ↔ ∀ n, LineFieldHolds body n) ∧
      ∀ n, firstFailing (lineChecks body) = some n ↔ FailsFirst (LineFieldHolds body) n := by
  refine firstFailing_iff (firstFailing_fields _ _ 0 (by simp) (by simp [lineChecks]) (by simp) ?_ ?_)
  · intro k _ h
    simp [lineChecks] at h
    match k with
    | 1 | 3 | 4 | 5 | 6 | 7 | 8 | 9 | 10 | 12 => omega
    | 0 | 2 | 11 => trivial
    | n + 13 => trivial
  · intro c h _
    simp only [lineChecks, List.mem_cons, List.not_mem_nil, or_false] at h
    rcases h with rfl | rfl | rfl | rfl | rfl | rfl | rfl | rfl | rfl | rfl <;>
      simp only [inRange, LineFieldHolds, Bool.and_eq_true, decide_eq_true_eq]
    all_goals first | omega | (have := (body.getD 6 0#8).isLt; simp only [byteAt]; omega)

end Sys2Proof.Machine
end

