-- ==== Sys2Proof/Laws/State.lean ====
section
/-! SUPPORT. What each elementary update does to each field of State: one lemma per field per update, so that no later proof
unfolds a record update. -/

namespace Sys2Proof.Machine

/-! ## Lanes and stations by name -/

@[simp] theorem State.lane_a (s : State) : s.lane .a = s.laneA := rfl
@[simp] theorem State.lane_b (s : State) : s.lane .b = s.laneB := rfl
@[simp] theorem State.station_lam (s : State) : s.station .lam = s.lam := rfl
@[simp] theorem State.station_trimA (s : State) : s.station .trimA = s.trimA := rfl
@[simp] theorem State.station_trimB (s : State) : s.station .trimB = s.trimB := rfl
@[simp] theorem State.station_cutA (s : State) : s.station .cutA = s.cutA := rfl
@[simp] theorem State.station_cutB (s : State) : s.station .cutB = s.cutB := rfl

@[simp] theorem State.lane_setLane (s : State) (l : Lane) (x : LaneState) : (s.setLane l x).lane l = x := by cases l <;> rfl

theorem State.lane_setLane_ne (s : State) (l m : Lane) (x : LaneState) (h : m ≠ l) :
    (s.setLane l x).lane m = s.lane m := by
  cases l <;> cases m <;> first | rfl | exact absurd rfl h

@[simp] theorem State.lane_modLane (s : State) (l : Lane) (f : LaneState → LaneState) :
    (s.modLane l f).lane l = f (s.lane l) := by cases l <;> rfl

theorem State.lane_modLane_ne (s : State) (l m : Lane) (f : LaneState → LaneState) (h : m ≠ l) :
    (s.modLane l f).lane m = s.lane m := State.lane_setLane_ne s l m _ h

@[simp] theorem State.station_setStation (s : State) (st : Station) (x : StationState) :
    (s.setStation st x).station st = x := by cases st <;> rfl

theorem State.station_setStation_ne (s : State) (st su : Station) (x : StationState) (h : su ≠ st) :
    (s.setStation st x).station su = s.station su := by
  cases st <;> cases su <;> first | rfl | exact absurd rfl h

@[simp] theorem State.station_modStation (s : State) (st : Station) (f : StationState → StationState) :
    (s.modStation st f).station st = f (s.station st) := by cases st <;> rfl

theorem State.station_modStation_ne (s : State) (st su : Station) (f : StationState → StationState) (h : su ≠ st) :
    (s.modStation st f).station su = s.station su := State.station_setStation_ne s st su _ h

@[simp] theorem State.station_modLane (s : State) (l : Lane) (f : LaneState → LaneState) (st : Station) :
    (s.modLane l f).station st = s.station st := by cases l <;> cases st <;> rfl

@[simp] theorem State.lane_modStation (s : State) (st : Station) (f : StationState → StationState) (l : Lane) :
    (s.modStation st f).lane l = s.lane l := by cases st <;> cases l <;> rfl

/-! ## A lane replaced or changed: every other field -/

@[simp] theorem State.nodeAddr_setLane (s : State) (l : Lane) (x : LaneState) : (s.setLane l x).nodeAddr = s.nodeAddr := by
  cases l <;> rfl
@[simp] theorem State.nodeAddr_modLane (s : State) (l : Lane) (f : LaneState → LaneState) :
    (s.modLane l f).nodeAddr = s.nodeAddr := by cases l <;> rfl
@[simp] theorem State.nodeAddr_modSeg (s : State) (l : Lane) (id : Nat) (f : Segment → Segment) :
    (s.modSeg l id f).nodeAddr = s.nodeAddr := by cases l <;> rfl
@[simp] theorem flagSeg_nodeAddr (l : Lane) (id : Nat) (d : BitVec 12) (s : State) :
    (flagSeg l id d s).nodeAddr = s.nodeAddr := by cases l <;> rfl
@[simp] theorem State.north_setLane (s : State) (l : Lane) (x : LaneState) : (s.setLane l x).north = s.north := by
  cases l <;> rfl
@[simp] theorem State.north_modLane (s : State) (l : Lane) (f : LaneState → LaneState) :
    (s.modLane l f).north = s.north := by cases l <;> rfl
@[simp] theorem State.north_modSeg (s : State) (l : Lane) (id : Nat) (f : Segment → Segment) :
    (s.modSeg l id f).north = s.north := by cases l <;> rfl
@[simp] theorem flagSeg_north (l : Lane) (id : Nat) (d : BitVec 12) (s : State) :
    (flagSeg l id d s).north = s.north := by cases l <;> rfl
@[simp] theorem State.south_setLane (s : State) (l : Lane) (x : LaneState) : (s.setLane l x).south = s.south := by
  cases l <;> rfl
@[simp] theorem State.south_modLane (s : State) (l : Lane) (f : LaneState → LaneState) :
    (s.modLane l f).south = s.south := by cases l <;> rfl
@[simp] theorem State.south_modSeg (s : State) (l : Lane) (id : Nat) (f : Segment → Segment) :
    (s.modSeg l id f).south = s.south := by cases l <;> rfl
@[simp] theorem flagSeg_south (l : Lane) (id : Nat) (d : BitVec 12) (s : State) :
    (flagSeg l id d s).south = s.south := by cases l <;> rfl
@[simp] theorem State.tracker_setLane (s : State) (l : Lane) (x : LaneState) : (s.setLane l x).tracker = s.tracker := by
  cases l <;> rfl
@[simp] theorem State.tracker_modLane (s : State) (l : Lane) (f : LaneState → LaneState) :
    (s.modLane l f).tracker = s.tracker := by cases l <;> rfl
@[simp] theorem State.tracker_modSeg (s : State) (l : Lane) (id : Nat) (f : Segment → Segment) :
    (s.modSeg l id f).tracker = s.tracker := by cases l <;> rfl
@[simp] theorem flagSeg_tracker (l : Lane) (id : Nat) (d : BitVec 12) (s : State) :
    (flagSeg l id d s).tracker = s.tracker := by cases l <;> rfl
@[simp] theorem State.setup_setLane (s : State) (l : Lane) (x : LaneState) : (s.setLane l x).setup = s.setup := by
  cases l <;> rfl
@[simp] theorem State.setup_modLane (s : State) (l : Lane) (f : LaneState → LaneState) :
    (s.modLane l f).setup = s.setup := by cases l <;> rfl
@[simp] theorem State.setup_modSeg (s : State) (l : Lane) (id : Nat) (f : Segment → Segment) :
    (s.modSeg l id f).setup = s.setup := by cases l <;> rfl
@[simp] theorem flagSeg_setup (l : Lane) (id : Nat) (d : BitVec 12) (s : State) :
    (flagSeg l id d s).setup = s.setup := by cases l <;> rfl
@[simp] theorem State.jobs_setLane (s : State) (l : Lane) (x : LaneState) : (s.setLane l x).jobs = s.jobs := by
  cases l <;> rfl
@[simp] theorem State.jobs_modLane (s : State) (l : Lane) (f : LaneState → LaneState) :
    (s.modLane l f).jobs = s.jobs := by cases l <;> rfl
@[simp] theorem State.jobs_modSeg (s : State) (l : Lane) (id : Nat) (f : Segment → Segment) :
    (s.modSeg l id f).jobs = s.jobs := by cases l <;> rfl
@[simp] theorem flagSeg_jobs (l : Lane) (id : Nat) (d : BitVec 12) (s : State) :
    (flagSeg l id d s).jobs = s.jobs := by cases l <;> rfl
@[simp] theorem State.lam_setLane (s : State) (l : Lane) (x : LaneState) : (s.setLane l x).lam = s.lam := by
  cases l <;> rfl
@[simp] theorem State.lam_modLane (s : State) (l : Lane) (f : LaneState → LaneState) :
    (s.modLane l f).lam = s.lam := by cases l <;> rfl
@[simp] theorem State.lam_modSeg (s : State) (l : Lane) (id : Nat) (f : Segment → Segment) :
    (s.modSeg l id f).lam = s.lam := by cases l <;> rfl
@[simp] theorem flagSeg_lam (l : Lane) (id : Nat) (d : BitVec 12) (s : State) :
    (flagSeg l id d s).lam = s.lam := by cases l <;> rfl
@[simp] theorem State.trimA_setLane (s : State) (l : Lane) (x : LaneState) : (s.setLane l x).trimA = s.trimA := by
  cases l <;> rfl
@[simp] theorem State.trimA_modLane (s : State) (l : Lane) (f : LaneState → LaneState) :
    (s.modLane l f).trimA = s.trimA := by cases l <;> rfl
@[simp] theorem State.trimA_modSeg (s : State) (l : Lane) (id : Nat) (f : Segment → Segment) :
    (s.modSeg l id f).trimA = s.trimA := by cases l <;> rfl
@[simp] theorem flagSeg_trimA (l : Lane) (id : Nat) (d : BitVec 12) (s : State) :
    (flagSeg l id d s).trimA = s.trimA := by cases l <;> rfl
@[simp] theorem State.trimB_setLane (s : State) (l : Lane) (x : LaneState) : (s.setLane l x).trimB = s.trimB := by
  cases l <;> rfl
@[simp] theorem State.trimB_modLane (s : State) (l : Lane) (f : LaneState → LaneState) :
    (s.modLane l f).trimB = s.trimB := by cases l <;> rfl
@[simp] theorem State.trimB_modSeg (s : State) (l : Lane) (id : Nat) (f : Segment → Segment) :
    (s.modSeg l id f).trimB = s.trimB := by cases l <;> rfl
@[simp] theorem flagSeg_trimB (l : Lane) (id : Nat) (d : BitVec 12) (s : State) :
    (flagSeg l id d s).trimB = s.trimB := by cases l <;> rfl
@[simp] theorem State.cutA_setLane (s : State) (l : Lane) (x : LaneState) : (s.setLane l x).cutA = s.cutA := by
  cases l <;> rfl
@[simp] theorem State.cutA_modLane (s : State) (l : Lane) (f : LaneState → LaneState) :
    (s.modLane l f).cutA = s.cutA := by cases l <;> rfl
@[simp] theorem State.cutA_modSeg (s : State) (l : Lane) (id : Nat) (f : Segment → Segment) :
    (s.modSeg l id f).cutA = s.cutA := by cases l <;> rfl
@[simp] theorem flagSeg_cutA (l : Lane) (id : Nat) (d : BitVec 12) (s : State) :
    (flagSeg l id d s).cutA = s.cutA := by cases l <;> rfl
@[simp] theorem State.cutB_setLane (s : State) (l : Lane) (x : LaneState) : (s.setLane l x).cutB = s.cutB := by
  cases l <;> rfl
@[simp] theorem State.cutB_modLane (s : State) (l : Lane) (f : LaneState → LaneState) :
    (s.modLane l f).cutB = s.cutB := by cases l <;> rfl
@[simp] theorem State.cutB_modSeg (s : State) (l : Lane) (id : Nat) (f : Segment → Segment) :
    (s.modSeg l id f).cutB = s.cutB := by cases l <;> rfl
@[simp] theorem flagSeg_cutB (l : Lane) (id : Nat) (d : BitVec 12) (s : State) :
    (flagSeg l id d s).cutB = s.cutB := by cases l <;> rfl
@[simp] theorem State.lastId_setLane (s : State) (l : Lane) (x : LaneState) : (s.setLane l x).lastId = s.lastId := by
  cases l <;> rfl
@[simp] theorem State.lastId_modLane (s : State) (l : Lane) (f : LaneState → LaneState) :
    (s.modLane l f).lastId = s.lastId := by cases l <;> rfl
@[simp] theorem State.lastId_modSeg (s : State) (l : Lane) (id : Nat) (f : Segment → Segment) :
    (s.modSeg l id f).lastId = s.lastId := by cases l <;> rfl
@[simp] theorem flagSeg_lastId (l : Lane) (id : Nat) (d : BitVec 12) (s : State) :
    (flagSeg l id d s).lastId = s.lastId := by cases l <;> rfl
@[simp] theorem State.nip_setLane (s : State) (l : Lane) (x : LaneState) : (s.setLane l x).nip = s.nip := by
  cases l <;> rfl
@[simp] theorem State.nip_modLane (s : State) (l : Lane) (f : LaneState → LaneState) :
    (s.modLane l f).nip = s.nip := by cases l <;> rfl
@[simp] theorem State.nip_modSeg (s : State) (l : Lane) (id : Nat) (f : Segment → Segment) :
    (s.modSeg l id f).nip = s.nip := by cases l <;> rfl
@[simp] theorem flagSeg_nip (l : Lane) (id : Nat) (d : BitVec 12) (s : State) :
    (flagSeg l id d s).nip = s.nip := by cases l <;> rfl
@[simp] theorem State.web_setLane (s : State) (l : Lane) (x : LaneState) : (s.setLane l x).web = s.web := by
  cases l <;> rfl
@[simp] theorem State.web_modLane (s : State) (l : Lane) (f : LaneState → LaneState) :
    (s.modLane l f).web = s.web := by cases l <;> rfl
@[simp] theorem State.web_modSeg (s : State) (l : Lane) (id : Nat) (f : Segment → Segment) :
    (s.modSeg l id f).web = s.web := by cases l <;> rfl
@[simp] theorem flagSeg_web (l : Lane) (id : Nat) (d : BitVec 12) (s : State) :
    (flagSeg l id d s).web = s.web := by cases l <;> rfl
@[simp] theorem State.mgmt_setLane (s : State) (l : Lane) (x : LaneState) : (s.setLane l x).mgmt = s.mgmt := by
  cases l <;> rfl
@[simp] theorem State.mgmt_modLane (s : State) (l : Lane) (f : LaneState → LaneState) :
    (s.modLane l f).mgmt = s.mgmt := by cases l <;> rfl
@[simp] theorem State.mgmt_modSeg (s : State) (l : Lane) (id : Nat) (f : Segment → Segment) :
    (s.modSeg l id f).mgmt = s.mgmt := by cases l <;> rfl
@[simp] theorem flagSeg_mgmt (l : Lane) (id : Nat) (d : BitVec 12) (s : State) :
    (flagSeg l id d s).mgmt = s.mgmt := by cases l <;> rfl
@[simp] theorem State.pins_setLane (s : State) (l : Lane) (x : LaneState) : (s.setLane l x).pins = s.pins := by
  cases l <;> rfl
@[simp] theorem State.pins_modLane (s : State) (l : Lane) (f : LaneState → LaneState) :
    (s.modLane l f).pins = s.pins := by cases l <;> rfl
@[simp] theorem State.pins_modSeg (s : State) (l : Lane) (id : Nat) (f : Segment → Segment) :
    (s.modSeg l id f).pins = s.pins := by cases l <;> rfl
@[simp] theorem flagSeg_pins (l : Lane) (id : Nat) (d : BitVec 12) (s : State) :
    (flagSeg l id d s).pins = s.pins := by cases l <;> rfl
@[simp] theorem State.nextSeg_setLane (s : State) (l : Lane) (x : LaneState) : (s.setLane l x).nextSeg = s.nextSeg := by
  cases l <;> rfl
@[simp] theorem State.nextSeg_modLane (s : State) (l : Lane) (f : LaneState → LaneState) :
    (s.modLane l f).nextSeg = s.nextSeg := by cases l <;> rfl
@[simp] theorem State.nextSeg_modSeg (s : State) (l : Lane) (id : Nat) (f : Segment → Segment) :
    (s.modSeg l id f).nextSeg = s.nextSeg := by cases l <;> rfl
@[simp] theorem flagSeg_nextSeg (l : Lane) (id : Nat) (d : BitVec 12) (s : State) :
    (flagSeg l id d s).nextSeg = s.nextSeg := by cases l <;> rfl
@[simp] theorem State.jobReads_setLane (s : State) (l : Lane) (x : LaneState) : (s.setLane l x).jobReads = s.jobReads := by
  cases l <;> rfl
@[simp] theorem State.jobReads_modLane (s : State) (l : Lane) (f : LaneState → LaneState) :
    (s.modLane l f).jobReads = s.jobReads := by cases l <;> rfl
@[simp] theorem State.jobReads_modSeg (s : State) (l : Lane) (id : Nat) (f : Segment → Segment) :
    (s.modSeg l id f).jobReads = s.jobReads := by cases l <;> rfl
@[simp] theorem flagSeg_jobReads (l : Lane) (id : Nat) (d : BitVec 12) (s : State) :
    (flagSeg l id d s).jobReads = s.jobReads := by cases l <;> rfl
@[simp] theorem State.turns_setLane (s : State) (l : Lane) (x : LaneState) : (s.setLane l x).turns = s.turns := by
  cases l <;> rfl
@[simp] theorem State.turns_modLane (s : State) (l : Lane) (f : LaneState → LaneState) :
    (s.modLane l f).turns = s.turns := by cases l <;> rfl
@[simp] theorem State.turns_modSeg (s : State) (l : Lane) (id : Nat) (f : Segment → Segment) :
    (s.modSeg l id f).turns = s.turns := by cases l <;> rfl
@[simp] theorem flagSeg_turns (l : Lane) (id : Nat) (d : BitVec 12) (s : State) :
    (flagSeg l id d s).turns = s.turns := by cases l <;> rfl
@[simp] theorem State.pending_setLane (s : State) (l : Lane) (x : LaneState) : (s.setLane l x).pending = s.pending := by
  cases l <;> rfl
@[simp] theorem State.pending_modLane (s : State) (l : Lane) (f : LaneState → LaneState) :
    (s.modLane l f).pending = s.pending := by cases l <;> rfl
@[simp] theorem State.pending_modSeg (s : State) (l : Lane) (id : Nat) (f : Segment → Segment) :
    (s.modSeg l id f).pending = s.pending := by cases l <;> rfl
@[simp] theorem flagSeg_pending (l : Lane) (id : Nat) (d : BitVec 12) (s : State) :
    (flagSeg l id d s).pending = s.pending := by cases l <;> rfl

/-! ## A station replaced or changed: every other field -/

@[simp] theorem State.nodeAddr_setStation (s : State) (st : Station) (x : StationState) :
    (s.setStation st x).nodeAddr = s.nodeAddr := by cases st <;> rfl
@[simp] theorem State.nodeAddr_modStation (s : State) (st : Station) (f : StationState → StationState) :
    (s.modStation st f).nodeAddr = s.nodeAddr := by cases st <;> rfl
@[simp] theorem State.north_setStation (s : State) (st : Station) (x : StationState) :
    (s.setStation st x).north = s.north := by cases st <;> rfl
@[simp] theorem State.north_modStation (s : State) (st : Station) (f : StationState → StationState) :
    (s.modStation st f).north = s.north := by cases st <;> rfl
@[simp] theorem State.south_setStation (s : State) (st : Station) (x : StationState) :
    (s.setStation st x).south = s.south := by cases st <;> rfl
@[simp] theorem State.south_modStation (s : State) (st : Station) (f : StationState → StationState) :
    (s.modStation st f).south = s.south := by cases st <;> rfl
@[simp] theorem State.tracker_setStation (s : State) (st : Station) (x : StationState) :
    (s.setStation st x).tracker = s.tracker := by cases st <;> rfl
@[simp] theorem State.tracker_modStation (s : State) (st : Station) (f : StationState → StationState) :
    (s.modStation st f).tracker = s.tracker := by cases st <;> rfl
@[simp] theorem State.setup_setStation (s : State) (st : Station) (x : StationState) :
    (s.setStation st x).setup = s.setup := by cases st <;> rfl
@[simp] theorem State.setup_modStation (s : State) (st : Station) (f : StationState → StationState) :
    (s.modStation st f).setup = s.setup := by cases st <;> rfl
@[simp] theorem State.jobs_setStation (s : State) (st : Station) (x : StationState) :
    (s.setStation st x).jobs = s.jobs := by cases st <;> rfl
@[simp] theorem State.jobs_modStation (s : State) (st : Station) (f : StationState → StationState) :
    (s.modStation st f).jobs = s.jobs := by cases st <;> rfl
@[simp] theorem State.laneA_setStation (s : State) (st : Station) (x : StationState) :
    (s.setStation st x).laneA = s.laneA := by cases st <;> rfl
@[simp] theorem State.laneA_modStation (s : State) (st : Station) (f : StationState → StationState) :
    (s.modStation st f).laneA = s.laneA := by cases st <;> rfl
@[simp] theorem State.laneB_setStation (s : State) (st : Station) (x : StationState) :
    (s.setStation st x).laneB = s.laneB := by cases st <;> rfl
@[simp] theorem State.laneB_modStation (s : State) (st : Station) (f : StationState → StationState) :
    (s.modStation st f).laneB = s.laneB := by cases st <;> rfl
@[simp] theorem State.lastId_setStation (s : State) (st : Station) (x : StationState) :
    (s.setStation st x).lastId = s.lastId := by cases st <;> rfl
@[simp] theorem State.lastId_modStation (s : State) (st : Station) (f : StationState → StationState) :
    (s.modStation st f).lastId = s.lastId := by cases st <;> rfl
@[simp] theorem State.nip_setStation (s : State) (st : Station) (x : StationState) :
    (s.setStation st x).nip = s.nip := by cases st <;> rfl
@[simp] theorem State.nip_modStation (s : State) (st : Station) (f : StationState → StationState) :
    (s.modStation st f).nip = s.nip := by cases st <;> rfl
@[simp] theorem State.web_setStation (s : State) (st : Station) (x : StationState) :
    (s.setStation st x).web = s.web := by cases st <;> rfl
@[simp] theorem State.web_modStation (s : State) (st : Station) (f : StationState → StationState) :
    (s.modStation st f).web = s.web := by cases st <;> rfl
@[simp] theorem State.mgmt_setStation (s : State) (st : Station) (x : StationState) :
    (s.setStation st x).mgmt = s.mgmt := by cases st <;> rfl
@[simp] theorem State.mgmt_modStation (s : State) (st : Station) (f : StationState → StationState) :
    (s.modStation st f).mgmt = s.mgmt := by cases st <;> rfl
@[simp] theorem State.pins_setStation (s : State) (st : Station) (x : StationState) :
    (s.setStation st x).pins = s.pins := by cases st <;> rfl
@[simp] theorem State.pins_modStation (s : State) (st : Station) (f : StationState → StationState) :
    (s.modStation st f).pins = s.pins := by cases st <;> rfl
@[simp] theorem State.nextSeg_setStation (s : State) (st : Station) (x : StationState) :
    (s.setStation st x).nextSeg = s.nextSeg := by cases st <;> rfl
@[simp] theorem State.nextSeg_modStation (s : State) (st : Station) (f : StationState → StationState) :
    (s.modStation st f).nextSeg = s.nextSeg := by cases st <;> rfl
@[simp] theorem State.jobReads_setStation (s : State) (st : Station) (x : StationState) :
    (s.setStation st x).jobReads = s.jobReads := by cases st <;> rfl
@[simp] theorem State.jobReads_modStation (s : State) (st : Station) (f : StationState → StationState) :
    (s.modStation st f).jobReads = s.jobReads := by cases st <;> rfl
@[simp] theorem State.turns_setStation (s : State) (st : Station) (x : StationState) :
    (s.setStation st x).turns = s.turns := by cases st <;> rfl
@[simp] theorem State.turns_modStation (s : State) (st : Station) (f : StationState → StationState) :
    (s.modStation st f).turns = s.turns := by cases st <;> rfl
@[simp] theorem State.pending_setStation (s : State) (st : Station) (x : StationState) :
    (s.setStation st x).pending = s.pending := by cases st <;> rfl
@[simp] theorem State.pending_modStation (s : State) (st : Station) (f : StationState → StationState) :
    (s.modStation st f).pending = s.pending := by cases st <;> rfl

/-! ## The other elementary updates: every field they leave -/

@[simp] theorem raise_nodeAddr (p : Nat) (s : State) : (raise p s).nodeAddr = s.nodeAddr := rfl
@[simp] theorem raise_north (p : Nat) (s : State) : (raise p s).north = s.north := rfl
@[simp] theorem raise_south (p : Nat) (s : State) : (raise p s).south = s.south := rfl
@[simp] theorem raise_tracker (p : Nat) (s : State) : (raise p s).tracker = s.tracker := rfl
@[simp] theorem raise_setup (p : Nat) (s : State) : (raise p s).setup = s.setup := rfl
@[simp] theorem raise_jobs (p : Nat) (s : State) : (raise p s).jobs = s.jobs := rfl
@[simp] theorem raise_laneA (p : Nat) (s : State) : (raise p s).laneA = s.laneA := rfl
@[simp] theorem raise_laneB (p : Nat) (s : State) : (raise p s).laneB = s.laneB := rfl
@[simp] theorem raise_lam (p : Nat) (s : State) : (raise p s).lam = s.lam := rfl
@[simp] theorem raise_trimA (p : Nat) (s : State) : (raise p s).trimA = s.trimA := rfl
@[simp] theorem raise_trimB (p : Nat) (s : State) : (raise p s).trimB = s.trimB := rfl
@[simp] theorem raise_cutA (p : Nat) (s : State) : (raise p s).cutA = s.cutA := rfl
@[simp] theorem raise_cutB (p : Nat) (s : State) : (raise p s).cutB = s.cutB := rfl
@[simp] theorem raise_lastId (p : Nat) (s : State) : (raise p s).lastId = s.lastId := rfl
@[simp] theorem raise_nip (p : Nat) (s : State) : (raise p s).nip = s.nip := rfl
@[simp] theorem raise_web (p : Nat) (s : State) : (raise p s).web = s.web := rfl
@[simp] theorem raise_pins (p : Nat) (s : State) : (raise p s).pins = s.pins := rfl
@[simp] theorem raise_nextSeg (p : Nat) (s : State) : (raise p s).nextSeg = s.nextSeg := rfl
@[simp] theorem raise_jobReads (p : Nat) (s : State) : (raise p s).jobReads = s.jobReads := rfl
@[simp] theorem raise_turns (p : Nat) (s : State) : (raise p s).turns = s.turns := rfl
@[simp] theorem raise_pending (p : Nat) (s : State) : (raise p s).pending = s.pending := rfl

@[simp] theorem State.nodeAddr_dropTurn (s : State) : (s.dropTurn).nodeAddr = s.nodeAddr := rfl
@[simp] theorem State.north_dropTurn (s : State) : (s.dropTurn).north = s.north := rfl
@[simp] theorem State.south_dropTurn (s : State) : (s.dropTurn).south = s.south := rfl
@[simp] theorem State.tracker_dropTurn (s : State) : (s.dropTurn).tracker = s.tracker := rfl
@[simp] theorem State.setup_dropTurn (s : State) : (s.dropTurn).setup = s.setup := rfl
@[simp] theorem State.jobs_dropTurn (s : State) : (s.dropTurn).jobs = s.jobs := rfl
@[simp] theorem State.laneA_dropTurn (s : State) : (s.dropTurn).laneA = s.laneA := rfl
@[simp] theorem State.laneB_dropTurn (s : State) : (s.dropTurn).laneB = s.laneB := rfl
@[simp] theorem State.lam_dropTurn (s : State) : (s.dropTurn).lam = s.lam := rfl
@[simp] theorem State.trimA_dropTurn (s : State) : (s.dropTurn).trimA = s.trimA := rfl
@[simp] theorem State.trimB_dropTurn (s : State) : (s.dropTurn).trimB = s.trimB := rfl
@[simp] theorem State.cutA_dropTurn (s : State) : (s.dropTurn).cutA = s.cutA := rfl
@[simp] theorem State.cutB_dropTurn (s : State) : (s.dropTurn).cutB = s.cutB := rfl
@[simp] theorem State.lastId_dropTurn (s : State) : (s.dropTurn).lastId = s.lastId := rfl
@[simp] theorem State.nip_dropTurn (s : State) : (s.dropTurn).nip = s.nip := rfl
@[simp] theorem State.web_dropTurn (s : State) : (s.dropTurn).web = s.web := rfl
@[simp] theorem State.mgmt_dropTurn (s : State) : (s.dropTurn).mgmt = s.mgmt := rfl
@[simp] theorem State.pins_dropTurn (s : State) : (s.dropTurn).pins = s.pins := rfl
@[simp] theorem State.nextSeg_dropTurn (s : State) : (s.dropTurn).nextSeg = s.nextSeg := rfl
@[simp] theorem State.jobReads_dropTurn (s : State) : (s.dropTurn).jobReads = s.jobReads := rfl
@[simp] theorem State.pending_dropTurn (s : State) : (s.dropTurn).pending = s.pending := rfl

@[simp] theorem State.nodeAddr_modSlot (s : State) (i : Nat) (f : JobRecord → JobRecord) : (s.modSlot i f).nodeAddr = s.nodeAddr := rfl
@[simp] theorem State.north_modSlot (s : State) (i : Nat) (f : JobRecord → JobRecord) : (s.modSlot i f).north = s.north := rfl
@[simp] theorem State.south_modSlot (s : State) (i : Nat) (f : JobRecord → JobRecord) : (s.modSlot i f).south = s.south := rfl
@[simp] theorem State.tracker_modSlot (s : State) (i : Nat) (f : JobRecord → JobRecord) : (s.modSlot i f).tracker = s.tracker := rfl
@[simp] theorem State.setup_modSlot (s : State) (i : Nat) (f : JobRecord → JobRecord) : (s.modSlot i f).setup = s.setup := rfl
@[simp] theorem State.laneA_modSlot (s : State) (i : Nat) (f : JobRecord → JobRecord) : (s.modSlot i f).laneA = s.laneA := rfl
@[simp] theorem State.laneB_modSlot (s : State) (i : Nat) (f : JobRecord → JobRecord) : (s.modSlot i f).laneB = s.laneB := rfl
@[simp] theorem State.lam_modSlot (s : State) (i : Nat) (f : JobRecord → JobRecord) : (s.modSlot i f).lam = s.lam := rfl
@[simp] theorem State.trimA_modSlot (s : State) (i : Nat) (f : JobRecord → JobRecord) : (s.modSlot i f).trimA = s.trimA := rfl
@[simp] theorem State.trimB_modSlot (s : State) (i : Nat) (f : JobRecord → JobRecord) : (s.modSlot i f).trimB = s.trimB := rfl
@[simp] theorem State.cutA_modSlot (s : State) (i : Nat) (f : JobRecord → JobRecord) : (s.modSlot i f).cutA = s.cutA := rfl
@[simp] theorem State.cutB_modSlot (s : State) (i : Nat) (f : JobRecord → JobRecord) : (s.modSlot i f).cutB = s.cutB := rfl
@[simp] theorem State.lastId_modSlot (s : State) (i : Nat) (f : JobRecord → JobRecord) : (s.modSlot i f).lastId = s.lastId := rfl
@[simp] theorem State.nip_modSlot (s : State) (i : Nat) (f : JobRecord → JobRecord) : (s.modSlot i f).nip = s.nip := rfl
@[simp] theorem State.web_modSlot (s : State) (i : Nat) (f : JobRecord → JobRecord) : (s.modSlot i f).web = s.web := rfl
@[simp] theorem State.mgmt_modSlot (s : State) (i : Nat) (f : JobRecord → JobRecord) : (s.modSlot i f).mgmt = s.mgmt := rfl
@[simp] theorem State.pins_modSlot (s : State) (i : Nat) (f : JobRecord → JobRecord) : (s.modSlot i f).pins = s.pins := rfl
@[simp] theorem State.nextSeg_modSlot (s : State) (i : Nat) (f : JobRecord → JobRecord) : (s.modSlot i f).nextSeg = s.nextSeg := rfl
@[simp] theorem State.jobReads_modSlot (s : State) (i : Nat) (f : JobRecord → JobRecord) : (s.modSlot i f).jobReads = s.jobReads := rfl
@[simp] theorem State.turns_modSlot (s : State) (i : Nat) (f : JobRecord → JobRecord) : (s.modSlot i f).turns = s.turns := rfl
@[simp] theorem State.pending_modSlot (s : State) (i : Nat) (f : JobRecord → JobRecord) : (s.modSlot i f).pending = s.pending := rfl

@[simp] theorem refreshPins_nodeAddr (s : State) : (refreshPins s).nodeAddr = s.nodeAddr := rfl
@[simp] theorem refreshPins_north (s : State) : (refreshPins s).north = s.north := rfl
@[simp] theorem refreshPins_south (s : State) : (refreshPins s).south = s.south := rfl
@[simp] theorem refreshPins_tracker (s : State) : (refreshPins s).tracker = s.tracker := rfl
@[simp] theorem refreshPins_setup (s : State) : (refreshPins s).setup = s.setup := rfl
@[simp] theorem refreshPins_jobs (s : State) : (refreshPins s).jobs = s.jobs := rfl
@[simp] theorem refreshPins_laneA (s : State) : (refreshPins s).laneA = s.laneA := rfl
@[simp] theorem refreshPins_laneB (s : State) : (refreshPins s).laneB = s.laneB := rfl
@[simp] theorem refreshPins_lam (s : State) : (refreshPins s).lam = s.lam := rfl
@[simp] theorem refreshPins_trimA (s : State) : (refreshPins s).trimA = s.trimA := rfl
@[simp] theorem refreshPins_trimB (s : State) : (refreshPins s).trimB = s.trimB := rfl
@[simp] theorem refreshPins_cutA (s : State) : (refreshPins s).cutA = s.cutA := rfl
@[simp] theorem refreshPins_cutB (s : State) : (refreshPins s).cutB = s.cutB := rfl
@[simp] theorem refreshPins_lastId (s : State) : (refreshPins s).lastId = s.lastId := rfl
@[simp] theorem refreshPins_nip (s : State) : (refreshPins s).nip = s.nip := rfl
@[simp] theorem refreshPins_web (s : State) : (refreshPins s).web = s.web := rfl
@[simp] theorem refreshPins_mgmt (s : State) : (refreshPins s).mgmt = s.mgmt := rfl
@[simp] theorem refreshPins_nextSeg (s : State) : (refreshPins s).nextSeg = s.nextSeg := rfl
@[simp] theorem refreshPins_jobReads (s : State) : (refreshPins s).jobReads = s.jobReads := rfl
@[simp] theorem refreshPins_turns (s : State) : (refreshPins s).turns = s.turns := rfl
@[simp] theorem refreshPins_pending (s : State) : (refreshPins s).pending = s.pending := rfl

@[simp] theorem placeOwn_nodeAddr (f : Frame) (s : State) : (placeOwn f s).nodeAddr = s.nodeAddr := rfl
@[simp] theorem placeOwn_south (f : Frame) (s : State) : (placeOwn f s).south = s.south := rfl
@[simp] theorem placeOwn_tracker (f : Frame) (s : State) : (placeOwn f s).tracker = s.tracker := rfl
@[simp] theorem placeOwn_setup (f : Frame) (s : State) : (placeOwn f s).setup = s.setup := rfl
@[simp] theorem placeOwn_jobs (f : Frame) (s : State) : (placeOwn f s).jobs = s.jobs := rfl
@[simp] theorem placeOwn_laneA (f : Frame) (s : State) : (placeOwn f s).laneA = s.laneA := rfl
@[simp] theorem placeOwn_laneB (f : Frame) (s : State) : (placeOwn f s).laneB = s.laneB := rfl
@[simp] theorem placeOwn_lam (f : Frame) (s : State) : (placeOwn f s).lam = s.lam := rfl
@[simp] theorem placeOwn_trimA (f : Frame) (s : State) : (placeOwn f s).trimA = s.trimA := rfl
@[simp] theorem placeOwn_trimB (f : Frame) (s : State) : (placeOwn f s).trimB = s.trimB := rfl
@[simp] theorem placeOwn_cutA (f : Frame) (s : State) : (placeOwn f s).cutA = s.cutA := rfl
@[simp] theorem placeOwn_cutB (f : Frame) (s : State) : (placeOwn f s).cutB = s.cutB := rfl
@[simp] theorem placeOwn_lastId (f : Frame) (s : State) : (placeOwn f s).lastId = s.lastId := rfl
@[simp] theorem placeOwn_nip (f : Frame) (s : State) : (placeOwn f s).nip = s.nip := rfl
@[simp] theorem placeOwn_web (f : Frame) (s : State) : (placeOwn f s).web = s.web := rfl
@[simp] theorem placeOwn_mgmt (f : Frame) (s : State) : (placeOwn f s).mgmt = s.mgmt := rfl
@[simp] theorem placeOwn_pins (f : Frame) (s : State) : (placeOwn f s).pins = s.pins := rfl
@[simp] theorem placeOwn_nextSeg (f : Frame) (s : State) : (placeOwn f s).nextSeg = s.nextSeg := rfl
@[simp] theorem placeOwn_jobReads (f : Frame) (s : State) : (placeOwn f s).jobReads = s.jobReads := rfl
@[simp] theorem placeOwn_turns (f : Frame) (s : State) : (placeOwn f s).turns = s.turns := rfl
@[simp] theorem placeOwn_pending (f : Frame) (s : State) : (placeOwn f s).pending = s.pending := rfl

@[simp] theorem dropMarker_nodeAddr (s : State) : (dropMarker s).nodeAddr = s.nodeAddr := by unfold dropMarker; split <;> rfl
@[simp] theorem dropMarker_north (s : State) : (dropMarker s).north = s.north := by unfold dropMarker; split <;> rfl
@[simp] theorem dropMarker_south (s : State) : (dropMarker s).south = s.south := by unfold dropMarker; split <;> rfl
@[simp] theorem dropMarker_tracker (s : State) : (dropMarker s).tracker = s.tracker := by unfold dropMarker; split <;> rfl
@[simp] theorem dropMarker_setup (s : State) : (dropMarker s).setup = s.setup := by unfold dropMarker; split <;> rfl
@[simp] theorem dropMarker_jobs (s : State) : (dropMarker s).jobs = s.jobs := by unfold dropMarker; split <;> rfl
@[simp] theorem dropMarker_laneA (s : State) : (dropMarker s).laneA = s.laneA := by unfold dropMarker; split <;> rfl
@[simp] theorem dropMarker_laneB (s : State) : (dropMarker s).laneB = s.laneB := by unfold dropMarker; split <;> rfl
@[simp] theorem dropMarker_lam (s : State) : (dropMarker s).lam = s.lam := by unfold dropMarker; split <;> rfl
@[simp] theorem dropMarker_trimA (s : State) : (dropMarker s).trimA = s.trimA := by unfold dropMarker; split <;> rfl
@[simp] theorem dropMarker_trimB (s : State) : (dropMarker s).trimB = s.trimB := by unfold dropMarker; split <;> rfl
@[simp] theorem dropMarker_cutA (s : State) : (dropMarker s).cutA = s.cutA := by unfold dropMarker; split <;> rfl
@[simp] theorem dropMarker_cutB (s : State) : (dropMarker s).cutB = s.cutB := by unfold dropMarker; split <;> rfl
@[simp] theorem dropMarker_lastId (s : State) : (dropMarker s).lastId = s.lastId := by unfold dropMarker; split <;> rfl
@[simp] theorem dropMarker_nip (s : State) : (dropMarker s).nip = s.nip := by unfold dropMarker; split <;> rfl
@[simp] theorem dropMarker_web (s : State) : (dropMarker s).web = s.web := by unfold dropMarker; split <;> rfl
@[simp] theorem dropMarker_pins (s : State) : (dropMarker s).pins = s.pins := by unfold dropMarker; split <;> rfl
@[simp] theorem dropMarker_nextSeg (s : State) : (dropMarker s).nextSeg = s.nextSeg := by unfold dropMarker; split <;> rfl
@[simp] theorem dropMarker_jobReads (s : State) : (dropMarker s).jobReads = s.jobReads := by unfold dropMarker; split <;> rfl
@[simp] theorem dropMarker_turns (s : State) : (dropMarker s).turns = s.turns := by unfold dropMarker; split <;> rfl
@[simp] theorem dropMarker_pending (s : State) : (dropMarker s).pending = s.pending := by unfold dropMarker; split <;> rfl

@[simp] theorem nipFinal_nodeAddr (id : BitVec 16) (done : Bool) (s : State) : (nipFinal id done s).nodeAddr = s.nodeAddr := by unfold nipFinal; split <;> (try split) <;> rfl
@[simp] theorem nipFinal_north (id : BitVec 16) (done : Bool) (s : State) : (nipFinal id done s).north = s.north := by unfold nipFinal; split <;> (try split) <;> rfl
@[simp] theorem nipFinal_south (id : BitVec 16) (done : Bool) (s : State) : (nipFinal id done s).south = s.south := by unfold nipFinal; split <;> (try split) <;> rfl
@[simp] theorem nipFinal_tracker (id : BitVec 16) (done : Bool) (s : State) : (nipFinal id done s).tracker = s.tracker := by unfold nipFinal; split <;> (try split) <;> rfl
@[simp] theorem nipFinal_setup (id : BitVec 16) (done : Bool) (s : State) : (nipFinal id done s).setup = s.setup := by unfold nipFinal; split <;> (try split) <;> rfl
@[simp] theorem nipFinal_jobs (id : BitVec 16) (done : Bool) (s : State) : (nipFinal id done s).jobs = s.jobs := by unfold nipFinal; split <;> (try split) <;> rfl
@[simp] theorem nipFinal_laneA (id : BitVec 16) (done : Bool) (s : State) : (nipFinal id done s).laneA = s.laneA := by unfold nipFinal; split <;> (try split) <;> rfl
@[simp] theorem nipFinal_laneB (id : BitVec 16) (done : Bool) (s : State) : (nipFinal id done s).laneB = s.laneB := by unfold nipFinal; split <;> (try split) <;> rfl
@[simp] theorem nipFinal_lam (id : BitVec 16) (done : Bool) (s : State) : (nipFinal id done s).lam = s.lam := by unfold nipFinal; split <;> (try split) <;> rfl
@[simp] theorem nipFinal_trimA (id : BitVec 16) (done : Bool) (s : State) : (nipFinal id done s).trimA = s.trimA := by unfold nipFinal; split <;> (try split) <;> rfl
@[simp] theorem nipFinal_trimB (id : BitVec 16) (done : Bool) (s : State) : (nipFinal id done s).trimB = s.trimB := by unfold nipFinal; split <;> (try split) <;> rfl
@[simp] theorem nipFinal_cutA (id : BitVec 16) (done : Bool) (s : State) : (nipFinal id done s).cutA = s.cutA := by unfold nipFinal; split <;> (try split) <;> rfl
@[simp] theorem nipFinal_cutB (id : BitVec 16) (done : Bool) (s : State) : (nipFinal id done s).cutB = s.cutB := by unfold nipFinal; split <;> (try split) <;> rfl
@[simp] theorem nipFinal_lastId (id : BitVec 16) (done : Bool) (s : State) : (nipFinal id done s).lastId = s.lastId := by unfold nipFinal; split <;> (try split) <;> rfl
@[simp] theorem nipFinal_web (id : BitVec 16) (done : Bool) (s : State) : (nipFinal id done s).web = s.web := by unfold nipFinal; split <;> (try split) <;> rfl
@[simp] theorem nipFinal_mgmt (id : BitVec 16) (done : Bool) (s : State) : (nipFinal id done s).mgmt = s.mgmt := by unfold nipFinal; split <;> (try split) <;> rfl
@[simp] theorem nipFinal_pins (id : BitVec 16) (done : Bool) (s : State) : (nipFinal id done s).pins = s.pins := by unfold nipFinal; split <;> (try split) <;> rfl
@[simp] theorem nipFinal_nextSeg (id : BitVec 16) (done : Bool) (s : State) : (nipFinal id done s).nextSeg = s.nextSeg := by unfold nipFinal; split <;> (try split) <;> rfl
@[simp] theorem nipFinal_jobReads (id : BitVec 16) (done : Bool) (s : State) : (nipFinal id done s).jobReads = s.jobReads := by unfold nipFinal; split <;> (try split) <;> rfl
@[simp] theorem nipFinal_turns (id : BitVec 16) (done : Bool) (s : State) : (nipFinal id done s).turns = s.turns := by unfold nipFinal; split <;> (try split) <;> rfl
@[simp] theorem nipFinal_pending (id : BitVec 16) (done : Bool) (s : State) : (nipFinal id done s).pending = s.pending := by unfold nipFinal; split <;> (try split) <;> rfl

@[simp] theorem dropZones_nodeAddr (l : Lane) (id : Nat) (s : State) : (dropZones l id s).nodeAddr = s.nodeAddr := rfl
@[simp] theorem dropZones_north (l : Lane) (id : Nat) (s : State) : (dropZones l id s).north = s.north := rfl
@[simp] theorem dropZones_south (l : Lane) (id : Nat) (s : State) : (dropZones l id s).south = s.south := rfl
@[simp] theorem dropZones_tracker (l : Lane) (id : Nat) (s : State) : (dropZones l id s).tracker = s.tracker := rfl
@[simp] theorem dropZones_setup (l : Lane) (id : Nat) (s : State) : (dropZones l id s).setup = s.setup := rfl
@[simp] theorem dropZones_jobs (l : Lane) (id : Nat) (s : State) : (dropZones l id s).jobs = s.jobs := rfl
@[simp] theorem dropZones_laneA (l : Lane) (id : Nat) (s : State) : (dropZones l id s).laneA = s.laneA := rfl
@[simp] theorem dropZones_laneB (l : Lane) (id : Nat) (s : State) : (dropZones l id s).laneB = s.laneB := rfl
@[simp] theorem dropZones_lam (l : Lane) (id : Nat) (s : State) : (dropZones l id s).lam = s.lam := rfl
@[simp] theorem dropZones_trimA (l : Lane) (id : Nat) (s : State) : (dropZones l id s).trimA = s.trimA := rfl
@[simp] theorem dropZones_trimB (l : Lane) (id : Nat) (s : State) : (dropZones l id s).trimB = s.trimB := rfl
@[simp] theorem dropZones_cutA (l : Lane) (id : Nat) (s : State) : (dropZones l id s).cutA = s.cutA := rfl
@[simp] theorem dropZones_cutB (l : Lane) (id : Nat) (s : State) : (dropZones l id s).cutB = s.cutB := rfl
@[simp] theorem dropZones_lastId (l : Lane) (id : Nat) (s : State) : (dropZones l id s).lastId = s.lastId := rfl
@[simp] theorem dropZones_web (l : Lane) (id : Nat) (s : State) : (dropZones l id s).web = s.web := rfl
@[simp] theorem dropZones_mgmt (l : Lane) (id : Nat) (s : State) : (dropZones l id s).mgmt = s.mgmt := rfl
@[simp] theorem dropZones_pins (l : Lane) (id : Nat) (s : State) : (dropZones l id s).pins = s.pins := rfl
@[simp] theorem dropZones_nextSeg (l : Lane) (id : Nat) (s : State) : (dropZones l id s).nextSeg = s.nextSeg := rfl
@[simp] theorem dropZones_jobReads (l : Lane) (id : Nat) (s : State) : (dropZones l id s).jobReads = s.jobReads := rfl
@[simp] theorem dropZones_turns (l : Lane) (id : Nat) (s : State) : (dropZones l id s).turns = s.turns := rfl
@[simp] theorem dropZones_pending (l : Lane) (id : Nat) (s : State) : (dropZones l id s).pending = s.pending := rfl

@[simp] theorem passSplices_nodeAddr (s : State) : (passSplices s).nodeAddr = s.nodeAddr := rfl
@[simp] theorem passSplices_north (s : State) : (passSplices s).north = s.north := rfl
@[simp] theorem passSplices_south (s : State) : (passSplices s).south = s.south := rfl
@[simp] theorem passSplices_tracker (s : State) : (passSplices s).tracker = s.tracker := rfl
@[simp] theorem passSplices_setup (s : State) : (passSplices s).setup = s.setup := rfl
@[simp] theorem passSplices_jobs (s : State) : (passSplices s).jobs = s.jobs := rfl
@[simp] theorem passSplices_laneA (s : State) : (passSplices s).laneA = s.laneA := rfl
@[simp] theorem passSplices_laneB (s : State) : (passSplices s).laneB = s.laneB := rfl
@[simp] theorem passSplices_lam (s : State) : (passSplices s).lam = s.lam := rfl
@[simp] theorem passSplices_trimA (s : State) : (passSplices s).trimA = s.trimA := rfl
@[simp] theorem passSplices_trimB (s : State) : (passSplices s).trimB = s.trimB := rfl
@[simp] theorem passSplices_cutA (s : State) : (passSplices s).cutA = s.cutA := rfl
@[simp] theorem passSplices_cutB (s : State) : (passSplices s).cutB = s.cutB := rfl
@[simp] theorem passSplices_lastId (s : State) : (passSplices s).lastId = s.lastId := rfl
@[simp] theorem passSplices_nip (s : State) : (passSplices s).nip = s.nip := rfl
@[simp] theorem passSplices_mgmt (s : State) : (passSplices s).mgmt = s.mgmt := rfl
@[simp] theorem passSplices_pins (s : State) : (passSplices s).pins = s.pins := rfl
@[simp] theorem passSplices_nextSeg (s : State) : (passSplices s).nextSeg = s.nextSeg := rfl
@[simp] theorem passSplices_jobReads (s : State) : (passSplices s).jobReads = s.jobReads := rfl
@[simp] theorem passSplices_turns (s : State) : (passSplices s).turns = s.turns := rfl
@[simp] theorem passSplices_pending (s : State) : (passSplices s).pending = s.pending := rfl

/-! ## What these updates do to the field they change -/

@[simp] theorem raise_flags (p : Nat) (s : State) : (raise p s).mgmt.flags = s.mgmt.flags ||| attnBit p := rfl
@[simp] theorem raise_mask (p : Nat) (s : State) : (raise p s).mgmt.mask = s.mgmt.mask := rfl
@[simp] theorem raise_reports (p : Nat) (s : State) : (raise p s).mgmt.reports = s.mgmt.reports := rfl
@[simp] theorem raise_reportsLost (p : Nat) (s : State) : (raise p s).mgmt.reportsLost = s.mgmt.reportsLost := rfl
@[simp] theorem raise_requestsDropped (p : Nat) (s : State) :
    (raise p s).mgmt.requestsDropped = s.mgmt.requestsDropped := rfl

@[simp] theorem raise_lane (p : Nat) (s : State) (l : Lane) : (raise p s).lane l = s.lane l := by cases l <;> rfl
@[simp] theorem raise_station (p : Nat) (s : State) (st : Station) : (raise p s).station st = s.station st := by
  cases st <;> rfl
@[simp] theorem State.turns_dropTurn (s : State) : s.dropTurn.turns = s.turns.tail := rfl
@[simp] theorem refreshPins_pins (s : State) : (refreshPins s).pins = pinLevels s := rfl
@[simp] theorem passSplices_splices (s : State) :
    (passSplices s).web.splices = s.web.splices.filter (fun x => !precedes x s.tracker.p) := rfl
@[simp] theorem dropZones_zones (l : Lane) (id : Nat) (s : State) :
    (dropZones l id s).nip.zones = s.nip.zones.filter (fun e => !(decide (e.lane = l) && decide (e.seg = id))) := rfl

/-- The levels of the output lines read only the setup, the tracker, the stations, the Nip Planner and the flags. -/
theorem pinLevels_congr (s t : State) (h1 : t.setup = s.setup) (h2 : t.tracker = s.tracker)
    (h3 : ∀ st, t.station st = s.station st) (h4 : t.nip = s.nip) (h5 : t.mgmt.flags = s.mgmt.flags)
    (h6 : t.mgmt.mask = s.mgmt.mask) : pinLevels t = pinLevels s := by
  have a : t.lam = s.lam := h3 .lam
  have b : t.trimA = s.trimA := h3 .trimA
  have c : t.trimB = s.trimB := h3 .trimB
  have d : t.cutA = s.cutA := h3 .cutA
  have e : t.cutB = s.cutB := h3 .cutB
  unfold pinLevels stopLevel stopSources attnLevel liveLost liveEstimated liveFaulted liveTempOut tempOut tempWindow
  rw [h1, h2, a, b, c, d, e, h4, h5, h6]

@[simp] theorem pinLevels_refreshPins (s : State) : pinLevels (refreshPins s) = pinLevels s := rfl

end Sys2Proof.Machine
end

