-- ==== Sys2Proof/Laws/Frame.lean ====
section
/-! SUPPORT. What everything inside an event leaves alone: the node address, the north port, the tracker, the line setup, the
records of lanes and stations, the attention mask, the south forward queue, and the queue of waiting commands. One relation,
`Inside`, and one lemma for each operation of the blocks. -/

namespace Sys2Proof.Machine

/-- A flag in the mask has risen: it is set in `new`, clear in `old`, and selected (R205). -/
def maskedRise (mask old new : BitVec 14) : Bool := decide (mask &&& new &&& ~~~old ≠ 0#14)

@[simp] theorem maskedRise_self (mask a : BitVec 14) : maskedRise mask a a = false := by
  simp only [maskedRise, BitVec.and_assoc, BitVec.and_not_self]
  simp

/-- What rises over two stages rises in one of them, where no flag is cleared. -/
theorem maskedRise_trans (mask a b d : BitVec 14) (h : a ||| b = b) (k : b ||| d = d) :
    maskedRise mask a d = (maskedRise mask a b || maskedRise mask b d) := by
  have e : mask &&& d &&& ~~~a = (mask &&& b &&& ~~~a) ||| (mask &&& d &&& ~~~b) := by
    rw [← k, ← h]
    ext i hi
    simp only [BitVec.getElem_or, BitVec.getElem_and, BitVec.getElem_not]
    cases mask[i] <;> cases a[i] <;> cases b[i] <;> cases d[i] <;> rfl
  simp only [maskedRise, e]
  rw [Bool.eq_iff_iff]
  simp only [decide_eq_true_eq, Bool.or_eq_true, ne_eq, BitVec.or_eq_zero_iff]
  exact not_and_or

/-- The flag an event sets rises in the mask exactly where it was clear and is selected. -/
theorem maskedRise_bit (mask a : BitVec 14) (p : Nat) :
    maskedRise mask a (a ||| attnBit p) = (!attnHas a p && attnHas mask p) := by
  unfold maskedRise attnBit attnHas
  generalize p - 1 = n
  cases h : (!a.getLsbD n && mask.getLsbD n)
  · rw [decide_eq_false_iff_not, not_not]
    ext i hi
    simp only [BitVec.getElem_and, BitVec.getElem_or, BitVec.getElem_not, BitVec.getElem_zero, BitVec.getElem_shiftLeft]
    by_cases e : i = n
    · subst e
      rw [BitVec.getLsbD_eq_getElem hi, BitVec.getLsbD_eq_getElem hi] at h
      cases ha : a[i] <;> cases hm : mask[i] <;> simp_all
    · by_cases lt : i < n
      · simp [lt]
      · have : ¬ (i - n = 0) := by omega
        cases ha : a[i] <;> simp [lt, this]
  · rw [decide_eq_true_iff]
    intro z
    have hn : n < 14 := by
      by_contra hge
      rw [BitVec.getLsbD_of_ge mask n (by omega)] at h
      simp at h
    have := congrArg (fun x => BitVec.getLsbD x n) z
    simp only [BitVec.getLsbD_and, BitVec.getLsbD_or, BitVec.getLsbD_not, BitVec.getLsbD_shiftLeft] at this
    simp_all

/-- `t` is reached from `s` by work inside an event: planning, scheduling, mapping, trimming and flagging. -/
structure Inside (s t : State) : Prop where
  nodeAddr : t.nodeAddr = s.nodeAddr
  north : t.north = s.north
  tracker : t.tracker = s.tracker
  setup : t.setup = s.setup
  jobReads : t.jobReads = s.jobReads
  pending : t.pending = s.pending
  pins : t.pins = s.pins
  mask : t.mgmt.mask = s.mgmt.mask
  dropped : t.mgmt.requestsDropped = s.mgmt.requestsDropped
  flags : s.mgmt.flags ||| t.mgmt.flags = t.mgmt.flags
  marker : t.mgmt.pendingAttn = (s.mgmt.pendingAttn || maskedRise s.mgmt.mask s.mgmt.flags t.mgmt.flags)
  southUp : t.south.up = s.south.up
  southFwd : t.south.fwd = s.south.fwd
  southCrc : t.south.crcErrors = s.south.crcErrors
  laneRecord : ∀ l, (t.lane l).record = (s.lane l).record
  synthetic : ∀ l, (t.lane l).synthetic = (s.lane l).synthetic
  stationRecord : ∀ st, (t.station st).record = (s.station st).record
  jobsLength : t.jobs.length = s.jobs.length
  present : t.web.present = s.web.present
  temp : t.nip.temp = s.nip.temp
  tempValid : t.nip.tempValid = s.nip.tempValid
  validity : t.nip.validity = s.nip.validity
  sensor : t.nip.sensor = s.nip.sensor

theorem Inside.refl (s : State) : Inside s s := by constructor <;> simp

theorem Inside.trans {s t u : State} (h : Inside s t) (k : Inside t u) : Inside s u := by
  constructor
  case flags =>
    have h1 := h.flags
    have h2 := k.flags
    generalize s.mgmt.flags = x at *; generalize t.mgmt.flags = y at *; generalize u.mgmt.flags = z at *
    rw [← h2, ← h1]
    ext i; simp; cases x[i] <;> simp
  case marker =>
    rw [k.marker, h.marker, h.mask, maskedRise_trans _ _ _ _ h.flags k.flags, Bool.or_assoc]
  case laneRecord => exact fun l => (k.laneRecord l).trans (h.laneRecord l)
  case synthetic => exact fun l => (k.synthetic l).trans (h.synthetic l)
  case stationRecord => exact fun st => (k.stationRecord st).trans (h.stationRecord st)
  all_goals first
    | exact k.nodeAddr.trans h.nodeAddr | exact k.north.trans h.north | exact k.tracker.trans h.tracker
    | exact k.setup.trans h.setup | exact k.jobReads.trans h.jobReads | exact k.pending.trans h.pending
    | exact k.pins.trans h.pins | exact k.mask.trans h.mask | exact k.dropped.trans h.dropped
    | exact k.southUp.trans h.southUp | exact k.southFwd.trans h.southFwd | exact k.southCrc.trans h.southCrc
    | exact k.jobsLength.trans h.jobsLength | exact k.present.trans h.present | exact k.temp.trans h.temp
    | exact k.tempValid.trans h.tempValid | exact k.validity.trans h.validity | exact k.sensor.trans h.sensor

/-- A fold of inside steps is inside. -/
theorem inside_foldl {α : Type} (f : State → α → State) (h : ∀ a s, Inside s (f s a)) :
    ∀ (xs : List α) (s : State), Inside s (xs.foldl f s)
  | [], s => Inside.refl s
  | a :: xs, s => (h a s).trans (inside_foldl f h xs (f s a))

/-- An update of the MODEL's fields, the zone list and plan, the outstanding id or the report queue is inside. -/
theorem inside_of_eq {s t : State}
    (h : t = { s with
      nip := t.nip, web := t.web, lastId := t.lastId, nextSeg := t.nextSeg, turns := t.turns,
      mgmt := { s.mgmt with reports := t.mgmt.reports, reportsLost := t.mgmt.reportsLost } })
    (h1 : t.web.present = s.web.present) (h2 : t.nip.temp = s.nip.temp) (h3 : t.nip.tempValid = s.nip.tempValid)
    (h4 : t.nip.validity = s.nip.validity) (h5 : t.nip.sensor = s.nip.sensor) : Inside s t := by
  constructor <;> first
    | exact h1 | exact h2 | exact h3 | exact h4 | exact h5
    | (intro l; rw [h]; cases l <;> rfl)
    | (rw [h]; done)
    | (rw [h]; exact BitVec.or_self)
    | (rw [h]; simp)

/-! ## The leaves -/

theorem inside_raise (p : Nat) (s : State) : Inside s (raise p s) := by
  constructor
  case flags => simp only [raise]; ext i; simp
  case marker => show _ = (_ || maskedRise _ _ (_ ||| attnBit p)); rw [maskedRise_bit]; rfl
  all_goals first | rfl | (intro l; cases l <;> rfl)

theorem inside_modLane (l : Lane) (f : LaneState → LaneState) (s : State) (h : (f (s.lane l)).record = (s.lane l).record)
    (h2 : (f (s.lane l)).synthetic = (s.lane l).synthetic) : Inside s (s.modLane l f) := by
  constructor
  case laneRecord =>
    intro m
    by_cases e : m = l
    · subst e; simpa using h
    · rw [State.lane_modLane_ne s l m f e]
  case synthetic =>
    intro m
    by_cases e : m = l
    · subst e; simpa using h2
    · rw [State.lane_modLane_ne s l m f e]
  all_goals simp

theorem inside_modSeg (l : Lane) (id : Nat) (f : Segment → Segment) (s : State) : Inside s (s.modSeg l id f) :=
  inside_modLane l _ s rfl rfl

theorem inside_flagSeg (l : Lane) (id : Nat) (d : BitVec 12) (s : State) : Inside s (flagSeg l id d s) :=
  inside_modSeg l id _ s

theorem inside_modStation (st : Station) (f : StationState → StationState) (s : State)
    (h : (f (s.station st)).record = (s.station st).record) : Inside s (s.modStation st f) := by
  constructor
  case stationRecord =>
    intro su
    by_cases e : su = st
    · subst e; simpa using h
    · rw [State.station_modStation_ne s st su f e]
  all_goals simp

theorem inside_modSlot (i : Nat) (f : JobRecord → JobRecord) (s : State) : Inside s (s.modSlot i f) := by
  constructor
  case jobsLength => simp [State.modSlot]
  all_goals first | rfl | simp | (intro l; cases l <;> rfl)

theorem inside_dropTurn (s : State) : Inside s s.dropTurn := inside_of_eq rfl rfl rfl rfl rfl rfl

theorem inside_south {s t : State} (h : t = { s with south := t.south, mgmt := t.mgmt })
    (h1 : t.mgmt.mask = s.mgmt.mask) (h2 : t.mgmt.requestsDropped = s.mgmt.requestsDropped)
    (h3 : s.mgmt.flags ||| t.mgmt.flags = t.mgmt.flags)
    (h7 : t.mgmt.pendingAttn = (s.mgmt.pendingAttn || maskedRise s.mgmt.mask s.mgmt.flags t.mgmt.flags))
    (h4 : t.south.up = s.south.up) (h5 : t.south.fwd = s.south.fwd) (h6 : t.south.crcErrors = s.south.crcErrors) : Inside s t := by
  constructor <;> first
    | assumption
    | (intro l; rw [h]; cases l <;> rfl)
    | (rw [h])

theorem inside_dropSouth (k : Nat) (s : State) : Inside s (dropSouth k s) := by
  unfold dropSouth
  split
  · exact Inside.refl s
  · refine Inside.trans (t := { s with south := { s.south with fwdDrops := bumpBy k s.south.fwdDrops } }) ?_ (inside_raise _ _)
    exact inside_south rfl rfl rfl (by simp) (by simp) rfl rfl rfl

theorem inside_sendUrgent (f : Frame) (s : State) : Inside s (sendUrgent f s) := by
  unfold sendUrgent
  split
  · refine inside_south rfl rfl rfl (by simp) (by simp) ?_ ?_ ?_ <;>
      (simp only [SouthPort.start, SouthPort.choose]; split <;> (try split) <;> simp_all)
  · exact inside_dropSouth 1 s

/-! ## Issue (R108, R135) -/

theorem inside_flagEstimated (l : Lane) (act : Action) (s : State) : Inside s (flagEstimated l act s) := by
  unfold flagEstimated
  split
  · split
    · exact inside_flagSeg _ _ _ s
    · exact Inside.refl s
  · exact Inside.refl s

theorem inside_issueCore (st : Station) (act : Action) (delay est : Nat) (s : State) :
    Inside s (issueCore st act delay est s) := by
  unfold issueCore
  refine Inside.trans ?_ (inside_sendUrgent _ _)
  refine Inside.trans (t := { s with lastId := nextId s.lastId }) (inside_of_eq rfl rfl rfl rfl rfl rfl) ?_
  exact inside_modStation st _ _ rfl

theorem inside_flagOwners (d : BitVec 12) (es : List ZoneEntry) (s : State) : Inside s (flagOwners d es s) :=
  inside_foldl (fun acc (e : ZoneEntry) => flagSeg e.lane e.seg d acc) (fun e s => inside_flagSeg e.lane e.seg d s) es s

/-- An update of the Nip Planner that keeps its temperature is inside. -/
theorem inside_nip (s : State) (n : Nip) (h2 : n.temp = s.nip.temp) (h3 : n.tempValid = s.nip.tempValid)
    (h4 : n.validity = s.nip.validity) (h5 : n.sensor = s.nip.sensor) : Inside s { s with nip := n } :=
  inside_of_eq rfl rfl h2 h3 h4 h5

theorem inside_recompute (s : State) : Inside s (recompute s) := by
  unfold recompute
  dsimp only
  refine Inside.trans ?_ (inside_nip _ _ rfl rfl rfl rfl)
  split
  · exact (inside_flagOwners _ _ s).trans (inside_raise _ _)
  · exact Inside.refl s

theorem inside_lateEngage (o : Offer) (n : Nat) (s : State) : Inside s (lateEngage o n s) := by
  unfold lateEngage
  dsimp only
  split
  · exact inside_flagOwners _ _ s
  · exact Inside.refl s

theorem inside_engageTemp (o : Offer) (s : State) : Inside s (engageTemp o s) := by
  unfold engageTemp
  split
  · exact (inside_flagOwners _ _ s).trans (inside_raise _ _)
  · exact Inside.refl s

theorem inside_noteBegun (o : Offer) (s : State) : Inside s (noteBegun o s) := inside_nip s _ rfl rfl rfl rfl

theorem inside_nipIssued (o : Offer) (n : Nat) (id : BitVec 16) (s : State) : Inside s (nipIssued o n id s) := by
  unfold nipIssued
  dsimp only
  have h : Inside s { s with nip := nipRecord o id s.nip } := inside_nip s _ rfl rfl rfl rfl
  refine Inside.trans ?_ (inside_recompute _)
  split
  · exact h.trans ((inside_lateEngage o n _).trans ((inside_engageTemp o _).trans (inside_noteBegun o _)))
  · exact h

theorem inside_lamTest (s : State) : Inside s (lamTest s) := by
  unfold lamTest
  split
  · split
    · exact (inside_issueCore _ _ _ _ s).trans (inside_nipIssued _ _ _ _)
    · exact Inside.refl s
  · exact Inside.refl s

theorem inside_nipChange (s : State) : Inside s (nipChange s) := (inside_recompute s).trans (inside_lamTest _)

theorem inside_nipChangeIf (c : Bool) (s : State) : Inside s (nipChangeIf c s) := by
  unfold nipChangeIf
  split
  · exact inside_nipChange s
  · exact Inside.refl s

theorem inside_dropZones (l : Lane) (id : Nat) (s : State) : Inside s (dropZones l id s) :=
  inside_nip s _ rfl rfl rfl rfl

theorem inside_nipFinal (id : BitVec 16) (done : Bool) (s : State) : Inside s (nipFinal id done s) := by
  unfold nipFinal
  split
  · split
    · exact inside_nip s _ rfl rfl rfl rfl
    · exact Inside.refl s
  · exact Inside.refl s

theorem inside_passZones (s : State) : Inside s (passZones s) := by
  unfold passZones
  dsimp only
  refine Inside.trans ?_ (inside_nipChangeIf _ _)
  have h := inside_flagOwners defLamShort
    ((s.nip.zones.filter (entryPassed (lamPos s))).filter (passedUnlaminated s)) s
  exact h.trans (inside_nip _ _ rfl rfl rfl rfl)

theorem inside_closedTemp (s : State) : Inside s (closedTemp s) := by
  unfold closedTemp
  split
  · exact (inside_flagOwners _ _ s).trans (inside_raise _ _)
  · exact Inside.refl s

/-! ## Trim (R148 to R156) -/

theorem planFinal_record (key : Nat) (done : Bool) (x : LaneState) : (planFinal key done x).record = x.record := by
  unfold planFinal
  dsimp only
  split
  · split <;> rfl
  · rfl

theorem planFinal_synthetic (key : Nat) (done : Bool) (x : LaneState) :
    (planFinal key done x).synthetic = x.synthetic := by
  unfold planFinal
  dsimp only
  split
  · split <;> rfl
  · rfl

theorem inside_testShort (l : Lane) (s : State) : Inside s (testShort l s) := by
  unfold testShort
  dsimp only
  split
  · exact (inside_modLane l _ s rfl rfl).trans (inside_raise _ _)
  · exact inside_modLane l _ s rfl rfl

theorem inside_trimFinal (l : Lane) (key : Nat) (done : Bool) (s : State) : Inside s (trimFinal l key done s) := by
  unfold trimFinal
  dsimp only
  have h := inside_modLane l (fun x =>
    { planFinal key done x with segs := x.segs.map (fun g => watchFinal (s.jobOf g) (trimPos l s) key done g) }) s
    (planFinal_record _ _ _) (planFinal_synthetic _ _ _)
  split
  · exact h.trans (inside_raise _ _)
  · exact h

theorem inside_trimIssued (l : Lane) (key : Nat) (s : State) : Inside s (trimIssued l key s) := inside_modSeg _ _ _ s

/-! ## The Web Map (R74, R78, R87, R90) -/

theorem inside_handReport (r : Report) (s : State) : Inside s (handReport r s) := by
  unfold handReport
  split
  · exact inside_of_eq rfl rfl rfl rfl rfl rfl
  · refine Inside.trans (t := { s with mgmt := { s.mgmt with reportsLost := bump s.mgmt.reportsLost } }) ?_ (inside_raise _ _)
    exact inside_of_eq rfl rfl rfl rfl rfl rfl

theorem inside_drainTest (l : Lane) (s : State) : Inside s (drainTest l s) := by
  unfold drainTest
  split
  · exact inside_modLane l _ s rfl rfl
  · exact Inside.refl s

theorem inside_leaveMap (l : Lane) (c : Cause) (g : Segment) (s : State) : Inside s (leaveMap l c g s) := by
  unfold leaveMap
  dsimp only
  refine Inside.trans ?_ (inside_drainTest l _)
  have h : Inside s (releaseJob g.slot (dropZones l g.id
      (s.modLane l (fun x => { x with segs := x.segs.filter (fun h => h.id ≠ g.id) })))) :=
    ((inside_modLane l _ s rfl rfl).trans (inside_dropZones l g.id _)).trans (inside_modSlot _ _ _)
  split
  · exact h.trans (inside_handReport _ _)
  · exact h

theorem inside_retire (l : Lane) (g : Segment) (s : State) : Inside s (retire l g s) :=
  (inside_leaveMap l _ g s).trans (inside_nipChangeIf _ _)

theorem inside_retireTest (l : Lane) (id : Nat) (s : State) : Inside s (retireTest l id s) := by
  unfold retireTest
  split
  · split
    · exact inside_retire l _ s
    · exact Inside.refl s
  · exact Inside.refl s

theorem inside_closeSeg (l : Lane) (id : Nat) (s : State) : Inside s (closeSeg l id s) :=
  (inside_modSeg l id _ s).trans (inside_retireTest l id _)

theorem inside_mapFinal (l : Lane) (act : Action) (fin : FinalState) (s : State) : Inside s (mapFinal l act fin s) := by
  unfold mapFinal
  split
  · exact (inside_modSeg l _ _ s).trans (inside_retireTest l _ _)
  · exact Inside.refl s

theorem inside_flagOwner (l : Lane) (act : Action) (d : BitVec 12) (s : State) : Inside s (flagOwner l act d s) := by
  unfold flagOwner
  split
  · exact inside_flagSeg _ _ _ s
  · exact Inside.refl s

theorem orphan_record (id : Nat) (x : StationState) : (orphan id x).record = x.record := by
  unfold orphan
  split
  · split <;> rfl
  · rfl

theorem inside_spoil (l : Lane) (c : Cause) (id : Nat) (s : State) : Inside s (spoil l c id s) := by
  unfold spoil
  dsimp only
  have h2 : Inside s (cancelPlanned l id (flagSeg l id defSpoiled s)) :=
    (inside_flagSeg l id _ s).trans (inside_modLane l _ _ rfl rfl)
  have h3 : Inside s (if plannedKnife l id s then trimFinal l id false (cancelPlanned l id (flagSeg l id defSpoiled s))
      else cancelPlanned l id (flagSeg l id defSpoiled s)) := by
    split
    · exact h2.trans (inside_trimFinal _ _ _ _)
    · exact h2
  have h4 := (h3.trans (inside_modStation (cutterOf l) (orphan id) _ (orphan_record _ _))).trans
    (inside_modStation (trimmerOf l) (orphan id) _ (orphan_record _ _))
  split
  · exact h4.trans (inside_leaveMap _ _ _ _)
  · exact h4

theorem inside_spoilLane (l : Lane) (c : Cause) (s : State) : Inside s (spoilLane l c s) :=
  inside_foldl _ (fun id s => inside_spoil l c id s) _ s

theorem inside_disableLane (l : Lane) (s : State) : Inside s (disableLane l s) := inside_modLane l _ s rfl rfl

theorem inside_spoilBoth (c : Cause) (s : State) : Inside s (spoilBoth c s) :=
  (((inside_spoilLane .a c s).trans (inside_spoilLane .b c _)).trans (inside_disableLane .a _)).trans
    (inside_disableLane .b _)

/-! ## The scheduler (R103 to R120) -/

theorem inside_popCut (l : Lane) (s : State) : Inside s (popCut l s) := inside_modLane l _ s rfl rfl

theorem inside_popTrim (l : Lane) (s : State) : Inside s (popTrim l s) := inside_modLane l _ s rfl rfl

theorem inside_issueCut (l : Lane) (act : Action) (s : State) : Inside s (issueCut l act s) := by
  unfold issueCut
  dsimp only
  have h := ((inside_popCut l s).trans (inside_issueCore (cutterOf l) act
    (fireDelay (toGo (cutterOf l) act.target s) s.tracker.speed s.setup.horizon) 0 _)).trans (inside_flagEstimated l act _)
  split
  · split
    · exact h.trans (inside_modSeg _ _ _ _)
    · exact h
  · exact h

theorem inside_skipCut (l : Lane) (act : Action) (s : State) : Inside s (skipCut l act s) :=
  (((inside_popCut l s).trans (inside_flagOwner _ _ _ _)).trans (inside_raise _ _)).trans (inside_mapFinal _ _ _ _)

theorem inside_cancelCut (l : Lane) (act : Action) (s : State) : Inside s (cancelCut l act s) :=
  (((inside_popCut l s).trans (inside_flagOwner _ _ _ _)).trans (inside_raise _ _)).trans (inside_mapFinal _ _ _ _)

theorem inside_cutTestN (l : Lane) : ∀ (n : Nat) (s : State), Inside s (cutTestN l n s)
  | 0, s => Inside.refl s
  | n + 1, s => by
    unfold cutTestN
    split
    · exact Inside.refl s
    · split
      · exact Inside.refl s
      · exact inside_issueCut _ _ s
      · exact (inside_skipCut _ _ s).trans (inside_cutTestN l n _)
      · exact (inside_cancelCut _ _ s).trans (inside_cutTestN l n _)

theorem inside_cutTest (l : Lane) (s : State) : Inside s (cutTest l s) := inside_cutTestN l _ s

theorem inside_issueKnife (l : Lane) (act : Action) (s : State) : Inside s (issueKnife l act s) :=
  (((inside_popTrim l s).trans (inside_issueCore _ _ _ _ _)).trans (inside_flagEstimated _ _ _)).trans
    (inside_trimIssued _ _ _)

theorem inside_knifeFinal (l : Lane) (act : Action) (fin : FinalState) (s : State) : Inside s (knifeFinal l act fin s) :=
  (inside_trimFinal _ _ _ s).trans (inside_mapFinal _ _ _ _)

theorem inside_cancelKnife (l : Lane) (act : Action) (s : State) : Inside s (cancelKnife l act s) :=
  (((inside_popTrim l s).trans (inside_flagOwner _ _ _ _)).trans (inside_raise _ _)).trans (inside_knifeFinal _ _ _ _)

theorem inside_trimTestN (l : Lane) : ∀ (n : Nat) (s : State), Inside s (trimTestN l n s)
  | 0, s => Inside.refl s
  | n + 1, s => by
    unfold trimTestN
    split
    · exact Inside.refl s
    · split
      · exact Inside.refl s
      · exact inside_issueKnife _ _ s
      · exact Inside.refl s
      · exact (inside_cancelKnife _ _ s).trans (inside_trimTestN l n _)

theorem inside_trimTest (l : Lane) (s : State) : Inside s (trimTest l s) := inside_trimTestN l _ s

theorem inside_issueTest (st : Station) (s : State) : Inside s (issueTest st s) := by
  cases st
  · exact inside_lamTest s
  · exact inside_trimTest .a s
  · exact inside_trimTest .b s
  · exact inside_cutTest .a s
  · exact inside_cutTest .b s

theorem inside_issueTests (sts : List Station) (s : State) : Inside s (issueTests sts s) :=
  (inside_dropTurn s).trans (inside_foldl _ (fun st s => inside_issueTest st s) _ _)

theorem inside_handOn (st : Station) (i : Issued) (done : Bool) (s : State) : Inside s (handOn st i done s) := by
  cases st
  · exact inside_nipFinal _ _ s
  · exact inside_knifeFinal _ _ _ s
  · exact inside_knifeFinal _ _ _ s
  · exact inside_mapFinal _ _ _ s
  · exact inside_mapFinal _ _ _ s

theorem inside_endOutstanding (st : Station) (m : StationMode) (s : State) : Inside s (endOutstanding st m s) :=
  inside_modStation st _ s rfl

theorem inside_replyDone (st : Station) (i : Issued) (s : State) : Inside s (replyDone st i s) :=
  ((inside_endOutstanding _ _ s).trans (inside_handOn _ _ _ _)).trans (inside_issueTest _ _)

theorem inside_flagFailed (st : Station) (act : Action) (code : Option Byte) (s : State) :
    Inside s (flagFailed st act code s) := by
  unfold flagFailed
  split
  · exact inside_modSeg _ _ _ s
  · exact Inside.refl s

theorem inside_failOutstanding (st : Station) (i : Issued) (code : Option Byte) (s : State) :
    Inside s (failOutstanding st i code s) :=
  ((((inside_endOutstanding _ _ s).trans (inside_raise _ _)).trans (inside_flagFailed _ _ _ _)).trans
    (inside_handOn _ _ _ _)).trans (inside_issueTest _ _)

theorem inside_staleReply (st : Station) (s : State) : Inside s (staleReply st s) :=
  inside_modStation st (fun x => { x with staleReplies := bump x.staleReplies }) s rfl

theorem inside_takeReply (src : Byte) (id : BitVec 16) (code : Option Byte) (s : State) :
    Inside s (takeReply src id code s) := by
  unfold takeReply
  split
  · exact Inside.refl s
  · split
    · exact inside_staleReply _ s
    · split
      · exact inside_replyDone _ _ s
      · exact inside_failOutstanding _ _ _ s

theorem inside_timeoutExpiry (st : Station) (s : State) : Inside s (timeoutExpiry st s) := by
  unfold timeoutExpiry
  split
  · refine Inside.trans ?_ (inside_failOutstanding _ _ _ _)
    refine Inside.trans (inside_modStation st (fun x => { x with timeouts := bump x.timeouts }) s rfl) ?_
    exact inside_south rfl rfl rfl (by simp [removeAct]) (by simp [removeAct]) rfl rfl rfl
  · exact Inside.refl s

theorem inside_clearStation (st : Station) (s : State) : Inside s (clearStation st s) := by
  unfold clearStation
  split
  · exact (inside_modStation st (fun x => { x with mode := .ready }) s rfl).trans (inside_issueTest _ _)
  · exact Inside.refl s

/-! ## Marks (R50 to R64, R80 to R86) -/

theorem inside_missMarks (l : Lane) (id k : Nat) (s : State) : Inside s (missMarks l id k s) := by
  unfold missMarks
  split
  · exact Inside.refl s
  · exact ((inside_flagSeg _ _ _ s).trans (inside_modLane l _ _ rfl rfl)).trans (inside_raise _ _)

theorem inside_expireN (l : Lane) : ∀ (n : Nat) (s : State), Inside s (expireN l n s)
  | 0, s => Inside.refl s
  | n + 1, s => by
    unfold expireN
    split
    · exact Inside.refl s
    · split
      · exact Inside.refl s
      · split
        · split
          · exact ((inside_missMarks _ _ _ s).trans (inside_modSeg _ _ _ _)).trans (inside_expireN l n _)
          · refine Inside.trans ?_ (inside_closeSeg _ _ _)
            split
            · exact inside_missMarks _ _ _ s
            · exact Inside.refl s
        · exact Inside.refl s

theorem inside_expireWindows (l : Lane) (s : State) : Inside s (expireWindows l s) := inside_expireN l 17 s

theorem inside_recomputeWork (l : Lane) (g : Segment) (s : State) : Inside s (recomputeWork l g s) := by
  refine Inside.trans (Inside.trans ?_ (inside_recompute _)) (inside_issueTests _ _)
  exact (inside_modLane l (fun x => { x with cutQueue := retarget g x.cutQueue }) s rfl rfl).trans
    (inside_nip _ _ rfl rfl rfl rfl)

theorem inside_takeMatch (l : Lane) (p : Word32) (g : Segment) (m : NextMark) (s : State) :
    Inside s (takeMatch l p g m s) := by
  unfold takeMatch
  dsimp only
  have h := ((inside_modSeg l g.id
      (reanchored (s.lane l).record.gain (markOffset (s.jobOf g) m) p) s).trans
      (inside_modLane l (fun y =>
      { y with stretch := matchedLaneStretch (s.lane l).record.gain (markOffset (s.jobOf g) m) p g y.stretch }) _ rfl rfl)).trans
      (inside_recomputeWork l
      (reanchored (s.lane l).record.gain (markOffset (s.jobOf g) m) p g) _)
  split
  · exact h.trans (inside_modSeg _ _ _ _)
  · exact h.trans (inside_closeSeg _ _ _)

theorem inside_bumpStray (l : Lane) (s : State) : Inside s (bumpStray l s) := inside_modLane l _ s rfl rfl

theorem inside_bumpRefused (l : Lane) (s : State) : Inside s (bumpRefused l s) := inside_modLane l _ s rfl rfl

theorem inside_refusedCue (l : Lane) (s : State) : Inside s (raise prioCueRefused (bumpRefused l s)) :=
  (inside_bumpRefused l s).trans (inside_raise _ _)

theorem inside_takeInnerMark (l : Lane) (shape : MarkShape) (p : Word32) (s : State) :
    Inside s (takeInnerMark l shape p s) := by
  unfold takeInnerMark
  split
  · exact inside_bumpStray l s
  · split
    · exact inside_bumpStray l s
    · split
      · exact inside_takeMatch _ _ _ _ s
      · exact inside_bumpStray l s

theorem addToLane_record (g : Segment) (job : JobDef) (m : Bool) (t : Word32) (x : LaneState) :
    (addToLane g job m t x).record = x.record := by
  unfold addToLane
  dsimp only
  split <;> rfl

theorem addToLane_synthetic (g : Segment) (job : JobDef) (m : Bool) (t : Word32) (x : LaneState) :
    (addToLane g job m t x).synthetic = x.synthetic := by
  unfold addToLane
  dsimp only
  split <;> rfl

theorem inside_register (l : Lane) (tag : Byte) (slot : Nat) (p : Word32) (r : JobRecord) (s : State) :
    Inside s (register l tag slot p r s) := by
  unfold register
  dsimp only
  refine Inside.trans ?_ (inside_issueTests _ _)
  have h1 := (inside_modSlot slot takeCopy s).trans
    (inside_modLane l (addToLane (newSegment l tag slot p r.defn (takeCopy r).registered s) r.defn
      (trimMisses l r.defn s) (knifeTarget l s)) _ (addToLane_record _ _ _ _ _) (addToLane_synthetic _ _ _ _ _))
  generalize (s.modSlot slot takeCopy).modLane l (addToLane (newSegment l tag slot p r.defn (takeCopy r).registered s) r.defn
      (trimMisses l r.defn s) (knifeTarget l s)) = s1 at h1 ⊢
  have h2 : Inside s (if trimLost l r.defn s then raise prioTrimShort s1 else s1) := by
    split
    · exact h1.trans (inside_raise _ _)
    · exact h1
  generalize (if trimLost l r.defn s then raise prioTrimShort s1 else s1) = s2 at h2 ⊢
  have h3 : Inside s { s2 with nextSeg := s2.nextSeg + 1 } := h2.trans (inside_of_eq rfl rfl rfl rfl rfl rfl)
  split
  · refine Inside.trans ?_ (inside_recompute _)
    exact h3.trans (inside_nip _ _ rfl rfl rfl rfl)
  · exact h3

theorem inside_acceptCue (l : Lane) (tag : Byte) (p : Word32) (s : State) : Inside s (acceptCue l tag p s) := by
  unfold acceptCue
  split
  · split
    · split
      · exact inside_register _ _ _ _ _ s
      · exact (inside_modLane l _ s rfl rfl).trans (inside_raise _ _)
    · exact inside_refusedCue l s
  · exact inside_refusedCue l s
  · exact inside_refusedCue l s
  · exact inside_refusedCue l s

theorem inside_closeByCue (l : Lane) (g : Segment) (s : State) : Inside s (closeByCue l g s) := by
  unfold closeByCue
  split
  · exact (inside_missMarks _ _ _ s).trans (inside_closeSeg _ _ _)
  · exact Inside.refl s

theorem inside_takeCue (l : Lane) (tag : Byte) (p : Word32) (s : State) : Inside s (takeCue l tag p s) := by
  unfold takeCue
  split
  · exact inside_refusedCue l s
  · split
    · exact inside_acceptCue _ _ _ s
    · split
      · dsimp only
        split
        · exact (inside_closeByCue _ _ s).trans (inside_acceptCue _ _ _ _)
        · exact (inside_closeByCue _ _ s).trans (inside_bumpStray _ _)
      · exact inside_bumpStray l s

theorem inside_takeMark (l : Lane) (shape : MarkShape) (tag : Byte) (p : Word32) (s : State) :
    Inside s (takeMark l shape tag p s) := by
  unfold takeMark
  split
  · exact Inside.refl s
  · exact inside_bumpRefused l s
  · exact inside_takeCue _ _ _ s
  · exact inside_takeInnerMark _ _ _ s
  · exact inside_takeInnerMark _ _ _ s

/-! ## Web events and the advance of P (R38, R169, R170, R174) -/

/-- An update of the Web Event Unit that keeps the presence state is inside. -/
theorem inside_web (s : State) (x : WebUnit) (h : x.present = s.web.present) : Inside s { s with web := x } :=
  inside_of_eq rfl h rfl rfl rfl rfl

theorem inside_webBreak (s : State) : Inside s (webBreak s) := by
  unfold webBreak
  dsimp only
  have h := (inside_web s { s.web with broken := true, absence := 0 } rfl).trans (inside_spoilBoth .webBreak _)
  refine Inside.trans ?_ (inside_raise _ _)
  refine Inside.trans ?_ (inside_nipChange _)
  generalize spoilBoth .webBreak { s with web := { s.web with broken := true, absence := 0 } } = s1 at h ⊢
  exact h.trans (inside_web s1 _ rfl)

theorem inside_takeAbsence (d : Nat) (s : State) : Inside s (takeAbsence d s) := by
  unfold takeAbsence
  split
  · exact Inside.refl s
  · dsimp only
    have h := inside_web s { s.web with absence := s.web.absence + d } rfl
    split
    · exact h.trans (inside_webBreak _)
    · exact h

theorem inside_passSplices (s : State) : Inside s (passSplices s) := inside_web s _ rfl

theorem inside_runTaker (d : Nat) (t : Taker) (s : State) : Inside s (runTaker d t s) := by
  cases t
  · exact inside_expireWindows _ s
  · exact inside_testShort _ s
  · exact inside_issueTest _ s
  · exact inside_passZones s
  · exact inside_takeAbsence d s
  · exact inside_passSplices s

/-- Whatever takes an advance of P leaves the tracker and the rest of `Inside` alone (R38). -/
theorem inside_takeAdvance (d : Nat) (s : State) : Inside s (takeAdvance d s) :=
  (inside_dropTurn s).trans (inside_foldl _ (fun t s => inside_runTaker d t s) _ _)

/-- The tracker after a move of P: P alone has changed (R38). -/
theorem movePos_tracker (p : Word32) (s : State) : (movePos p s).tracker = { s.tracker with p := p } := by
  unfold movePos
  dsimp only
  split
  · rfl
  · rw [(inside_takeAdvance _ _).tracker]

end Sys2Proof.Machine
end

