-- ==== Sys2Proof/Laws/Event.lean ====
section
/-! SUPPORT. What the end of an event can do (R190, R205, R208), and what a request's answer carries (R196). -/

namespace Sys2Proof.Machine

/-! ## Frames placed in the own normal queue -/

/-- The arbiter keeps everything that was queued or in transmission, in transmission or queued. -/
theorem northStart_carries (p : NorthPort) (f : Frame) (h : p.tx = some f ∨ f ∈ p.own) :
    p.start.tx = some f ∨ f ∈ p.start.own := by
  unfold NorthPort.start
  split
  case isTrue c =>
    have ht : p.tx = none := by simp at c; exact c.2
    rw [ht] at h
    simp at h
    unfold NorthPort.choose
    split
    · simp_all; rcases h with h | h <;> simp [h]
    · split <;> simp_all
      rcases h with h | h <;> simp [h]
    · simp_all
    · simp_all
  case isFalse => exact h

theorem northStart_fwd (p : NorthPort) : p.start.fwd <:+ p.fwd := by
  unfold NorthPort.start
  split
  · unfold NorthPort.choose
    split
    · simp_all
    · split
      · exact List.suffix_refl _
      · rename_i h _; simp only [h]; exact List.suffix_cons _ _
    · rename_i h; simp only [h]; exact List.suffix_cons _ _
    · exact List.suffix_refl _
  · exact List.suffix_refl _

theorem northStart_own (p : NorthPort) : p.start.own <:+ p.own := by
  unfold NorthPort.start
  split
  · unfold NorthPort.choose
    split
    case h_1 f rest h _ => rw [h]; exact List.suffix_cons _ _
    case h_2 f rest g more h _ =>
      split
      · rw [h]; exact List.suffix_cons _ _
      · exact List.suffix_refl _
    · exact List.suffix_refl _
    · exact List.suffix_refl _
  · exact List.suffix_refl _

theorem northStart_keeps (p : NorthPort) :
    p.start.up = p.up ∧ p.start.crcErrors = p.crcErrors ∧ p.start.fwdDrops = p.fwdDrops := by
  unfold NorthPort.start
  split
  · unfold NorthPort.choose
    split <;> (try split) <;> exact ⟨rfl, rfl, rfl⟩
  · exact ⟨rfl, rfl, rfl⟩

theorem northStart_busy (p : NorthPort) (h : p.tx ≠ none) : p.start = p := by
  unfold NorthPort.start
  cases hp : p.tx with
  | none => exact absurd hp h
  | some f => simp

theorem placedOwn_keeps : ∀ (fs : List Frame) (p : NorthPort),
    (placedOwn p fs).up = p.up ∧ (placedOwn p fs).crcErrors = p.crcErrors ∧ (placedOwn p fs).fwdDrops = p.fwdDrops ∧
      (placedOwn p fs).fwd <:+ p.fwd
  | [], p => ⟨rfl, rfl, rfl, List.suffix_refl _⟩
  | f :: fs, p => by
    have h := placedOwn_keeps fs (NorthPort.start { p with own := p.own ++ [f] })
    have k := northStart_keeps { p with own := p.own ++ [f] }
    exact ⟨h.1.trans k.1, h.2.1.trans k.2.1, h.2.2.1.trans k.2.2,
      h.2.2.2.trans (northStart_fwd { p with own := p.own ++ [f] })⟩

theorem placedOwn_carries : ∀ (fs : List Frame) (p : NorthPort) (g : Frame), p.tx = some g ∨ g ∈ p.own ∨ g ∈ fs →
    (placedOwn p fs).tx = some g ∨ g ∈ (placedOwn p fs).own
  | [], p, g, h => by simpa [placedOwn] using h
  | f :: fs, p, g, h => by
    apply placedOwn_carries fs
    have k : ∀ (x : p.tx = some g ∨ g ∈ p.own ++ [f]), _ :=
      fun x => northStart_carries { p with own := p.own ++ [f] } g x
    rcases h with h | h | h
    · rcases k (.inl h) with h | h <;> simp [h]
    · rcases k (.inr (by simp [h])) with h | h <;> simp [h]
    · rcases List.mem_cons.mp h with h | h
      · rcases k (.inr (by simp [h])) with h | h <;> simp [h]
      · exact .inr (.inr h)

theorem placedOwn_busy : ∀ (fs : List Frame) (p : NorthPort), p.tx ≠ none →
    placedOwn p fs = { p with own := p.own ++ fs }
  | [], p, _ => by simp [placedOwn]
  | f :: fs, p, h => by
    show placedOwn (NorthPort.start { p with own := p.own ++ [f] }) fs = _
    rw [northStart_busy { p with own := p.own ++ [f] } h, placedOwn_busy fs { p with own := p.own ++ [f] } h]
    simp

theorem placedOwn_append (p : NorthPort) (xs ys : List Frame) :
    placedOwn p (xs ++ ys) = placedOwn (placedOwn p xs) ys := List.foldl_append

/-- A placed frame is in transmission or waits in the own normal queue. -/
theorem carries_placeOwn (f : Frame) (s : State) : Carries (placeOwn f s) f :=
  northStart_carries _ f (.inr (by simp))

/-! ## The end of an event -/

theorem room_placeOwn (f : Frame) (s : State) (h : 2 ≤ ownRoom s) : 0 < ownRoom (placeOwn f s) := by
  have hu : s.north.up = true := by
    unfold ownRoom at h
    split at h
    · assumption
    · omega
  have h1 : 2 ≤ 8 - s.north.own.length := by simpa [ownRoom, hu] using h
  have h2 := (northStart_own { s.north with own := s.north.own ++ [f] }).length_le
  have h3 := (northStart_keeps { s.north with own := s.north.own ++ [f] }).1
  simp only [List.length_append, List.length_singleton] at h2
  show 0 < (if (NorthPort.start { s.north with own := s.north.own ++ [f] }).up then _ else 0)
  rw [h3, if_pos hu]
  have : (placeOwn f s).north.own.length ≤ s.north.own.length + 1 := h2
  omega

/-- The frame a report moves as carries the report record of section 9.2. -/
theorem reportFrame_eq (s : State) (r : Report) : ownFrame kindReport (reportPayload r) s = reportFrame s r := by
  simp only [reportPayload, reportFrame, ownFrame, kindReport]
  cases r.lane <;> cases r.cause <;> rfl

/-- The reports that move: the oldest ones, while two places are free. -/
theorem moveReports_spec : ∀ (n : Nat) (s : State), s.mgmt.reports.length ≤ n → ∃ k,
    moveReports n s =
      { s with
        north := placedOwn s.north ((s.mgmt.reports.take k).map (reportFrame s))
        mgmt := { s.mgmt with reports := s.mgmt.reports.drop k } } ∧
    (k < s.mgmt.reports.length → ownRoom (moveReports n s) < 2) ∧ (0 < k → 0 < ownRoom (moveReports n s))
  | 0, s, h => ⟨0, rfl, fun k => absurd k (by omega), fun k => absurd k (by omega)⟩
  | n + 1, s, h => by
    unfold moveReports
    split
    · rename_i c
      cases hr : s.mgmt.reports with
      | nil => exact absurd hr c.1
      | cons r rest =>
        have hm : moveReport s =
            placeOwn (reportFrame s r) { s with mgmt := { s.mgmt with reports := rest } } := by
          unfold moveReport
          rw [hr]
          show placeOwn (ownFrame kindReport (reportPayload r) s) _ = _
          rw [reportFrame_eq]
        obtain ⟨k, e, k1, k2⟩ := moveReports_spec n (moveReport s) (by rw [hm]; rw [hr] at h; simpa using h)
        refine ⟨k + 1, ?_, ?_, ?_⟩
        · rw [e, hm]; rfl
        · intro hk
          apply k1
          rw [hm]
          simpa using hk
        · intro _
          rcases Nat.eq_zero_or_pos k with z | z
          · rw [e, z, hm]
            exact room_placeOwn (reportFrame s r) { s with mgmt := { s.mgmt with reports := rest } } c.2
          · exact k2 z
    · rename_i c
      refine ⟨0, rfl, fun k => ?_, fun k => absurd k (by omega)⟩
      by_contra g
      exact c ⟨by intro z; rw [z] at k; simp at k, by omega⟩

/-- The highest pending priority is one more than the least bit both set and in the mask, or 0 (R205). -/
theorem highestPending_find (m : Mgmt) :
    be8 (highestPending m) =
      [match (List.range 14).find? (fun i => m.flags.getLsbD i && m.mask.getLsbD i) with
        | some i => BitVec.ofNat 8 (i + 1)
        | none => 0#8] := by
  have h : ∀ f : BitVec 14, ∀ n prio, be8 (firstPrioFrom f n (prio + 1)) =
      [match (List.range' prio n).find? (fun i => f.getLsbD i) with
        | some i => BitVec.ofNat 8 (i + 1)
        | none => 0#8] := by
    intro f n
    induction n with
    | zero => intro prio; rfl
    | succ n ih =>
      intro prio
      rw [firstPrioFrom, List.range'_succ, List.find?_cons]
      unfold attnHas
      rw [Nat.add_sub_cancel]
      cases hb : f.getLsbD prio
      · simpa using ih (prio + 1)
      · rfl
  have g := h (m.flags &&& m.mask) 14 0
  rw [← List.range_eq_range'] at g
  simpa [highestPending, BitVec.getLsbD_and] using g

/-- The ATTN frame the model places is that of R205 as a statement writes it. -/
theorem attnFrame_eq (u : State) :
    attnFrame u =
      { dst := 0#8, src := u.nodeAddr, kind := 0x42#8, payload := be16 u.mgmt.flags.toNat ++ be8 (highestPending u.mgmt) } := by
  unfold attnFrame
  exact congrArg
    (fun b => ({ dst := 0#8, src := u.nodeAddr, kind := 0x42#8, payload := be16 u.mgmt.flags.toNat ++ b } : Frame))
    (highestPending_find u.mgmt).symm

/-- The state before the reports move: the marker dropped where nothing is selected, the ATTN frame placed where it is due. -/
theorem placeAttn_spec (u : State) :
    placeAttn (dropMarker u) =
      { u with
        north := placedOwn u.north (if attnDue u then [attnFrame u] else [])
        mgmt :=
          { u.mgmt with
            pendingAttn :=
              u.mgmt.pendingAttn && decide (u.mgmt.flags &&& u.mgmt.mask ≠ 0#14) && !attnDue u } } := by
  have hw : (!attnWaits u) = u.north.own.all (fun f => decide (f.kind ≠ 0x42#8)) := by
    unfold attnWaits kindAttn
    induction u.north.own with
    | nil => rfl
    | cons f fs ih => rw [List.any_cons, List.all_cons, ← ih]; simp
  unfold dropMarker
  split
  · rename_i z
    simp [placeAttn, attnDue, z, placedOwn]
  · rename_i z
    have hd : (u.mgmt.pendingAttn && decide (0 < ownRoom u) && !attnWaits u) = attnDue u := by
      simp [attnDue, z, hw]
    unfold placeAttn
    rw [hd]
    split
    · rename_i c
      simp only [c, Bool.not_true, Bool.and_false, attnFrame_eq]
      rfl
    · rename_i c
      have c' : attnDue u = false := by simpa using c
      simp [z, c', placedOwn]

/-- What the filling of the own normal queue can do (R208). -/
theorem fillOwn_spec (u : State) : ∃ k,
    fillOwn u =
      { u with
        north := placedOwn u.north
          ((if attnDue u then [attnFrame u] else []) ++ (u.mgmt.reports.take k).map (reportFrame u))
        mgmt :=
          { u.mgmt with
            pendingAttn := u.mgmt.pendingAttn && decide (u.mgmt.flags &&& u.mgmt.mask ≠ 0#14) && !attnDue u
            reports := u.mgmt.reports.drop k } } ∧
    (k < u.mgmt.reports.length → ownRoom (fillOwn u) < 2) ∧ (0 < k → 0 < ownRoom (fillOwn u)) := by
  unfold fillOwn
  obtain ⟨k, e, k1, k2⟩ := moveReports_spec _ (placeAttn (dropMarker u)) (Nat.le_refl _)
  refine ⟨k, ?_, ?_, k2⟩
  · simp only
    rw [e, placeAttn_spec, placedOwn_append]
    rfl
  · intro h
    apply k1
    rw [placeAttn_spec]
    exact h

/-- The end of an event (R177, R205, R206, R208). -/
theorem endOfEvent_finish (u : State) : EndOfEvent u (finish u) := by
  obtain ⟨k, e, k1, k2⟩ := fillOwn_spec u
  have hn : (finish u).north = placedOwn u.north
      ((if attnDue u then [attnFrame u] else []) ++ (u.mgmt.reports.take k).map (reportFrame u)) := by
    show (fillOwn u).north = _
    rw [e]
  have hm : (finish u).mgmt = (fillOwn u).mgmt := rfl
  constructor
  case rest =>
    show { fillOwn u with pins := pinLevels (fillOwn u) } = { u with
      north := (fillOwn u).north
      mgmt := { u.mgmt with pendingAttn := (fillOwn u).mgmt.pendingAttn, reports := (fillOwn u).mgmt.reports }
      pins := pinLevels (fillOwn u) }
    generalize pinLevels (fillOwn u) = p
    rw [e]
  case marker => rw [hm, e]
  case placed => exact ⟨k, by rw [hm, e], hn, k1, k2⟩
  case carried =>
    intro f h
    unfold Carries
    rw [hn]
    exact placedOwn_carries _ _ _ (by rcases h with h | h <;> simp [h])
  case busy =>
    intro h
    rw [hn, placedOwn_busy _ _ h]
    exact ⟨rfl, List.prefix_append _ _⟩

/-- The end of an event loses no own frame. -/
theorem carries_finish (u : State) (f : Frame) (h : Carries u f) : Carries (finish u) f := (endOfEvent_finish u).carried f h

/-- The end of an event leaves a transmission under way alone. -/
theorem finish_tx (u : State) (h : u.north.tx ≠ none) : (finish u).north.tx = u.north.tx := by
  rw [((endOfEvent_finish u).busy h).1]

theorem finish_pins (u : State) : (finish u).pins = pinLevels (finish u) := rfl

namespace EndOfEvent

variable {u t : State} (h : EndOfEvent u t)
include h

theorem nodeAddr : t.nodeAddr = u.nodeAddr := by rw [h.rest]
theorem south : t.south = u.south := by rw [h.rest]
theorem tracker : t.tracker = u.tracker := by rw [h.rest]
theorem setup : t.setup = u.setup := by rw [h.rest]
theorem jobs : t.jobs = u.jobs := by rw [h.rest]
theorem laneA : t.laneA = u.laneA := by rw [h.rest]
theorem laneB : t.laneB = u.laneB := by rw [h.rest]
theorem lane (l : Lane) : t.lane l = u.lane l := by cases l; exact h.laneA; exact h.laneB
theorem station (st : Station) : t.station st = u.station st := by rw [h.rest]; cases st <;> rfl
theorem lastId : t.lastId = u.lastId := by rw [h.rest]
theorem nip : t.nip = u.nip := by rw [h.rest]
theorem web : t.web = u.web := by rw [h.rest]
theorem nextSeg : t.nextSeg = u.nextSeg := by rw [h.rest]
theorem jobReads : t.jobReads = u.jobReads := by rw [h.rest]
theorem turns : t.turns = u.turns := by rw [h.rest]
theorem pending : t.pending = u.pending := by rw [h.rest]
theorem flags : t.mgmt.flags = u.mgmt.flags := by rw [h.rest]
theorem mask : t.mgmt.mask = u.mgmt.mask := by rw [h.rest]
theorem reportsLost : t.mgmt.reportsLost = u.mgmt.reportsLost := by rw [h.rest]
theorem requestsDropped : t.mgmt.requestsDropped = u.mgmt.requestsDropped := by rw [h.rest]
theorem up : t.north.up = u.north.up := by obtain ⟨n, _, e, _⟩ := h.placed; rw [e]; exact (placedOwn_keeps _ _).1
theorem crcErrors : t.north.crcErrors = u.north.crcErrors := by
  obtain ⟨n, _, e, _⟩ := h.placed; rw [e]; exact (placedOwn_keeps _ _).2.1
theorem fwdDrops : t.north.fwdDrops = u.north.fwdDrops := by
  obtain ⟨n, _, e, _⟩ := h.placed; rw [e]; exact (placedOwn_keeps _ _).2.2.1
theorem forward : t.north.fwd <:+ u.north.fwd := by
  obtain ⟨n, _, e, _⟩ := h.placed; rw [e]; exact (placedOwn_keeps _ _).2.2.2
theorem reports : t.mgmt.reports <:+ u.mgmt.reports := by
  obtain ⟨n, e, _⟩ := h.placed; rw [e]; exact List.drop_suffix _ _
theorem pins : t.pins = pinLevels t := by
  have e := congrArg State.pins h.rest
  exact e

end EndOfEvent

/-! ## Requests (R196) -/

/-- A request that finds a free place is executed and answered. -/
theorem serve_room (code token : Byte) (reply : State → Reply) (s : State) (h : 0 < ownRoom s) :
    serve code token reply s = finish (answer code token (reply s)) := by
  unfold serve
  rw [if_neg (Nat.pos_iff_ne_zero.mp h)]

/-- A request that finds no free place is counted and not executed. -/
theorem serve_full (code token : Byte) (reply : State → Reply) (s : State) (h : ownRoom s = 0) :
    serve code token reply s = finish (dropRequest s) := by
  unfold serve
  rw [if_pos h]

/-- The answer of a request is the state its execution leaves, with its RESP placed and then the end of the event. -/
theorem answer_finish (code token : Byte) (r : Reply) :
    Answered r.state (respFrame code token r r.state) (finish (answer code token r)) := endOfEvent_finish _

/-- An answered request's RESP is in transmission or waits. -/
theorem Answered.carries {u t : State} {f : Frame} (h : Answered u f t) : Carries t f :=
  h.carried f (carries_placeOwn f u)

/-- The RESP a reply builds is that of R196 as a statement names it. -/
theorem respFrame_eq (code token : Byte) (r : Reply) (s : State) :
    respFrame code token r s = respTo s code token (resultByte r.result) r.field r.body := rfl

end Sys2Proof.Machine
end

