-- ==== Sys2Proof/Laws/Lines.lean ====
section
/-! SUPPORT. The output lines: the sources of the stop lines bit by bit, and the levels the lines show (R175 to R177, R206). -/

namespace Sys2Proof.Machine

/-- A live condition as one bit of the sources. -/
theorem liveBit (c : Bool) (k i : Nat) (hk : k < 24) :
    (if c = true then 1#24 <<< k else 0#24).getLsbD i = (c && decide (i = k)) := by
  cases c
  · simp
  · simp only [if_true, BitVec.getLsbD_shiftLeft, Bool.true_and]
    rcases Nat.lt_trichotomy i k with h | h | h
    · simp [h]; omega
    · subst h; simp [hk]
    · have : ¬ i < k := by omega
      have n : ¬ i = k := by omega
      simp [this, n, BitVec.getLsbD_one]; omega

/-- ANY_STATION_FAULTED is that some station is FAULTED (R122). -/
theorem liveFaulted_iff (s : State) : liveFaulted s = true ↔ ∃ st, (s.station st).mode = .faulted := by
  simp only [liveFaulted, Bool.or_eq_true, decide_eq_true_eq]
  constructor
  · rintro ((((h | h) | h) | h) | h)
    exacts [⟨.lam, h⟩, ⟨.trimA, h⟩, ⟨.trimB, h⟩, ⟨.cutA, h⟩, ⟨.cutB, h⟩]
  · rintro ⟨st, h⟩
    cases st <;> simp only [State.station] at h <;> simp [h]

/-- LAM_TEMP_OUT of a configured LAM with a window set and the temperature out of it (R143, R145). -/
theorem liveTempOut_iff (s : State) : liveTempOut s = true ↔ ∃ r, s.lam.record = some r ∧ r.enabled = true ∧ 0 < r.tMin ∧
    (s.nip.tempValid = false ∨ s.nip.temp < r.tMin ∨ r.tMax < s.nip.temp) := by
  unfold liveTempOut tempOut tempWindow StationState.configured
  cases s.lam.record with
  | none => simp
  | some r => simp [or_assoc]

/-- Source n of R176's table is bit n − 1 of the sources. -/
theorem stopSources_bit (s : State) (n : Nat) (h : 1 ≤ n) : (stopSources s).getLsbD (n - 1) = true ↔ SourceTrue s n := by
  have flagged : s.mgmt.flags.getLsbD (n - 1) = true → n ≤ 14 := fun f => by have := BitVec.lt_of_getLsbD f; omega
  have e : ∀ k, n - 1 = k ↔ n = k + 1 := by omega
  unfold stopSources SourceTrue
  rw [BitVec.getLsbD_or, BitVec.getLsbD_or, BitVec.getLsbD_or, BitVec.getLsbD_or, liveBit _ 14 _ (by decide),
    liveBit _ 15 _ (by decide), liveBit _ 16 _ (by decide), liveBit _ 17 _ (by decide)]
  simp only [BitVec.truncate_eq_setWidth, BitVec.getLsbD_setWidth, Bool.or_eq_true, Bool.and_eq_true, decide_eq_true_eq, e,
    liveFaulted_iff, liveTempOut_iff, liveLost, liveEstimated]
  constructor
  · rintro ((((⟨_, f⟩ | ⟨f, rfl⟩) | ⟨f, rfl⟩) | ⟨f, rfl⟩) | ⟨f, rfl⟩)
    · exact .inl ⟨h, flagged f, f⟩
    · exact .inr (.inl ⟨rfl, f⟩)
    · exact .inr (.inr (.inl ⟨rfl, f⟩))
    · exact .inr (.inr (.inr (.inl ⟨rfl, f⟩)))
    · exact .inr (.inr (.inr (.inr ⟨rfl, f⟩)))
  · rintro (⟨_, k, f⟩ | ⟨rfl, f⟩ | ⟨rfl, f⟩ | ⟨rfl, f⟩ | ⟨rfl, f⟩)
    · exact .inl (.inl (.inl (.inl ⟨by omega, f⟩)))
    · exact .inl (.inl (.inl (.inr ⟨f, rfl⟩)))
    · exact .inl (.inl (.inr ⟨f, rfl⟩))
    · exact .inl (.inr ⟨f, rfl⟩)
    · exact .inr ⟨f, rfl⟩

/-- A stop line is active where its mask selects a true source. -/
theorem lineActive_iff (mask : BitVec 24) (s : State) : LineActive mask s ↔ mask &&& stopSources s ≠ 0#24 := by
  constructor
  · rintro ⟨n, m, t⟩ z
    have p : 1 ≤ n := by unfold SourceTrue at t; omega
    have := congrArg (fun v => v.getLsbD (n - 1)) z
    simp [m, (stopSources_bit s n p).mpr t] at this
  · intro z
    by_contra a
    apply z
    apply BitVec.eq_of_getLsbD_eq
    intro i _
    by_contra b
    simp at b
    exact a ⟨i + 1, b.1, (stopSources_bit s (i + 1) (by omega)).mp b.2⟩

/-- The level of a stop line is the one R175 gives. -/
theorem stopShows_stopLevel (mode : StopMode) (mask : BitVec 24) (s : State) : StopShows mode mask s (stopLevel mode mask s) := by
  constructor <;> cases mode <;> simp [stopLevel, lineActive_iff]

/-- Output lines that have the levels the part gives them show those of R175, R176 and R206. -/
theorem linesShown_of_pins (s : State) (h : s.pins = pinLevels s) : LinesShown s where
  stop0 := by rw [h]; exact stopShows_stopLevel _ _ _
  stop1 := by rw [h]; exact stopShows_stopLevel _ _ _
  attnN := by rw [h]; rfl
end Sys2Proof.Machine
end

