-- ==== Sys2Proof/Laws/Plan.lean ====
section
/-! SUPPORT. What the operations of the nip plan do to stretches of web that lie ahead of one position, pu by pu (R127 to R130). -/

namespace Sys2Proof.Machine

/-- How far a position lies beyond `o`. -/
def beyond (o a : Word32) : Nat := (a - o).toNat

/-- A stretch lies ahead of `o`, within the reach of a signed difference, and has a length. -/
def Stretch.Ahead (o : Word32) (s : Stretch) : Prop := beyond o s.a < beyond o s.b ∧ beyond o s.b < 2147483648

/-- Stretches in web order with a length of web between each and the next. -/
def Apart (o : Word32) (xs : List Stretch) : Prop :=
  (∀ s ∈ xs, s.Ahead o) ∧ xs.Pairwise (fun s t => beyond o s.b < beyond o t.a)

theorem covers_iff {o a b : Word32} {x : Nat} : Covers o a b x ↔ beyond o a ≤ x ∧ x < beyond o b := Iff.rfl

theorem inPlan_cons {o : Word32} {s : Stretch} {xs : List Stretch} {x : Nat} :
    InPlan o (s :: xs) x ↔ Covers o s.a s.b x ∨ InPlan o xs x := by simp [InPlan]

theorem inPlan_append {o : Word32} {xs ys : List Stretch} {x : Nat} :
    InPlan o (xs ++ ys) x ↔ InPlan o xs x ∨ InPlan o ys x := by simp [InPlan, or_and_right, exists_or]

theorem inPlan_nil {o : Word32} {x : Nat} : InPlan o [] x ↔ False := by simp [InPlan]

/-! ## Comparisons -/

theorem precedes_beyond (o : Word32) {a b : Word32} (ha : beyond o a < 2147483648) (hb : beyond o b < 2147483648) :
    precedes a b = true ↔ beyond o a < beyond o b := by
  have e : b - a = (b - o) - (a - o) := by bv_omega
  unfold beyond at *
  simp only [precedes, sdiff, decide_eq_true_eq, e]
  generalize a - o = p at *
  generalize b - o = q at *
  rw [BitVec.toInt_eq_toNat_cond, BitVec.toNat_sub]
  split <;> omega

theorem later_beyond (o : Word32) {a b : Word32} (ha : beyond o a < 2147483648) (hb : beyond o b < 2147483648) :
    beyond o (later a b) = max (beyond o a) (beyond o b) := by
  have h := precedes_beyond o ha hb
  unfold later
  split <;> rename_i k
  · have := h.mp k
    omega
  · have := mt h.mpr k
    omega

theorem earlier_beyond (o : Word32) {a b : Word32} (ha : beyond o a < 2147483648) (hb : beyond o b < 2147483648) :
    beyond o (earlier a b) = min (beyond o a) (beyond o b) := by
  have h := precedes_beyond o hb ha
  unfold earlier
  split <;> rename_i k
  · have := h.mp k
    omega
  · have := mt h.mpr k
    omega

theorem Stretch.Ahead.start {o : Word32} {s : Stretch} (h : s.Ahead o) : beyond o s.a < 2147483648 := h.1.trans h.2

theorem beyond_sub {o a b : Word32} (h : beyond o a ≤ beyond o b) : (b - a).toNat = beyond o b - beyond o a := by
  have e : b - a = (b - o) - (a - o) := by bv_omega
  unfold beyond at *
  rw [e, BitVec.toNat_sub]
  omega

/-- Two stretches overlap where some pu of web lies in both. -/
theorem overlaps_iff {o : Word32} {s t : Stretch} (hs : s.Ahead o) (ht : t.Ahead o) :
    s.overlaps t = true ↔ ∃ x, Covers o s.a s.b x ∧ Covers o t.a t.b x := by
  have hl : beyond o (later s.a t.a) < 2147483648 := by
    rw [later_beyond o hs.start ht.start]; exact max_lt hs.start ht.start
  have he : beyond o (earlier s.b t.b) < 2147483648 := by
    rw [earlier_beyond o hs.2 ht.2]; exact min_lt_of_left_lt hs.2
  rw [Stretch.overlaps, precedes_beyond o hl he, later_beyond o hs.start ht.start, earlier_beyond o hs.2 ht.2]
  simp only [covers_iff]
  have := hs.1
  have := ht.1
  exact ⟨fun h => ⟨max (beyond o s.a) (beyond o t.a), by omega⟩, fun ⟨x, h⟩ => by omega⟩

/-- A stretch touches an opening where it covers a pu in the opening or next to it. -/
theorem touches_iff {o : Word32} {s t : Stretch} (hs : s.Ahead o) (ha : beyond o t.a ≤ beyond o t.b)
    (hb : beyond o t.b < 2147483648) :
    t.touches s = true ↔ ∃ x, Covers o s.a s.b x ∧ beyond o t.a ≤ x + 1 ∧ x ≤ beyond o t.b := by
  have h1 := precedes_beyond o hb hs.start
  have h2 := precedes_beyond o hs.2 (ha.trans_lt hb)
  simp only [Stretch.touches, Bool.and_eq_true, Bool.not_eq_true', ← Bool.not_eq_true, h1, h2, covers_iff]
  have := hs.1
  exact ⟨fun h => ⟨max (beyond o s.a) (beyond o t.a - 1), by omega⟩, fun ⟨x, h⟩ => by omega⟩

/-! ## The union (R127) -/

theorem mem_insertStretch {s t : Stretch} {xs : List Stretch} : t ∈ insertStretch s xs ↔ t = s ∨ t ∈ xs := by
  induction xs with
  | nil => simp [insertStretch]
  | cons y ys ih =>
    unfold insertStretch
    split <;> simp only [List.mem_cons, ih]
    exact or_left_comm

theorem insertStretch_sorted {o : Word32} {s : Stretch} {xs : List Stretch} (hs : s.Ahead o) (hx : ∀ t ∈ xs, t.Ahead o)
    (h : xs.Pairwise (fun y z => beyond o y.a ≤ beyond o z.a)) :
    (insertStretch s xs).Pairwise (fun y z => beyond o y.a ≤ beyond o z.a) := by
  induction xs with
  | nil => simp [insertStretch]
  | cons y ys ih =>
    have hp := precedes_beyond o hs.start (hx y (by simp)).start
    obtain ⟨h1, h2⟩ := List.pairwise_cons.mp h
    unfold insertStretch
    split <;> rename_i k
    · have := hp.mp k
      refine List.pairwise_cons.mpr ⟨fun z hz => ?_, h⟩
      rcases List.mem_cons.mp hz with rfl | hz
      · omega
      · have := h1 z hz
        omega
    · have := mt hp.mpr k
      refine List.pairwise_cons.mpr ⟨fun z hz => ?_, ih (fun t ht => hx t (by simp [ht])) h2⟩
      rcases mem_insertStretch.mp hz with rfl | hz
      · omega
      · exact h1 z hz

/-- Sorting keeps the stretches and orders them by start. -/
theorem sortStretches_spec {o : Word32} {xs : List Stretch} (hx : ∀ t ∈ xs, t.Ahead o) :
    (∀ t, t ∈ sortStretches xs ↔ t ∈ xs) ∧ (sortStretches xs).Pairwise (fun y z => beyond o y.a ≤ beyond o z.a) := by
  suffices h : ∀ acc : List Stretch, (∀ t ∈ acc, t.Ahead o) → acc.Pairwise (fun y z => beyond o y.a ≤ beyond o z.a) →
      (∀ t, t ∈ xs.foldl (fun acc s => insertStretch s acc) acc ↔ t ∈ acc ∨ t ∈ xs) ∧
        (xs.foldl (fun acc s => insertStretch s acc) acc).Pairwise (fun y z => beyond o y.a ≤ beyond o z.a) by
    simpa [sortStretches] using h [] (by simp) List.Pairwise.nil
  induction xs with
  | nil => simp
  | cons s xs ih =>
    intro acc ha hp
    have hs := hx s (by simp)
    obtain ⟨k1, k2⟩ := ih (fun t ht => hx t (by simp [ht])) (insertStretch s acc)
      (fun t ht => by rcases mem_insertStretch.mp ht with rfl | ht; exacts [hs, ha t ht]) (insertStretch_sorted hs ha hp)
    refine ⟨fun t => ?_, k2⟩
    rw [List.foldl_cons, k1, mem_insertStretch, List.mem_cons, or_assoc]
    exact or_left_comm

/-- Merging ordered stretches covers what they cover, and leaves a length of web between each and the next. -/
theorem mergeFrom_spec {o : Word32} {cur : Stretch} {xs : List Stretch} (hc : cur.Ahead o) (hx : ∀ t ∈ xs, t.Ahead o)
    (h : (cur :: xs).Pairwise (fun y z => beyond o y.a ≤ beyond o z.a)) :
    Apart o (mergeFrom cur xs) ∧ (∀ t ∈ mergeFrom cur xs, beyond o cur.a ≤ beyond o t.a) ∧
      ∀ x, InPlan o (mergeFrom cur xs) x ↔ InPlan o (cur :: xs) x := by
  induction xs generalizing cur with
  | nil => simp [mergeFrom, Apart, hc]
  | cons t rest ih =>
    have ht := hx t (by simp)
    have hr : ∀ y ∈ rest, y.Ahead o := fun y hy => hx y (by simp [hy])
    obtain ⟨h1, h2⟩ := List.pairwise_cons.mp h
    have hp := precedes_beyond o hc.2 ht.start
    have hct := h1 t (by simp)
    unfold mergeFrom
    split <;> rename_i k
    · have k := hp.mp k
      obtain ⟨a, b, c⟩ := ih ht hr h2
      refine ⟨⟨fun y hy => ?_, List.pairwise_cons.mpr ⟨fun y hy => ?_, a.2⟩⟩, fun y hy => ?_, fun x => ?_⟩
      · rcases List.mem_cons.mp hy with rfl | hy
        exacts [hc, a.1 y hy]
      · have := b y hy
        omega
      · rcases List.mem_cons.mp hy with rfl | hy
        · exact le_rfl
        · have := b y hy
          omega
      · rw [inPlan_cons, c, inPlan_cons (s := cur)]
    · have k := mt hp.mpr k
      have hl := later_beyond o hc.2 ht.2
      have := hc.1
      have := hc.2
      have := ht.1
      have := ht.2
      obtain ⟨a, b, c⟩ := ih (cur := ⟨cur.a, later cur.b t.b⟩)
        (by constructor <;> simp only [hl] <;> omega) hr
        (List.pairwise_cons.mpr ⟨fun y hy => h1 y (by simp [hy]), (List.pairwise_cons.mp h2).2⟩)
      refine ⟨a, b, fun x => ?_⟩
      rw [c, inPlan_cons, inPlan_cons, inPlan_cons, ← or_assoc]
      refine or_congr_left ?_
      simp only [covers_iff, hl]
      omega

/-- The union covers what its members cover, as stretches with a length of web between each and the next. -/
theorem unionOf_spec {o : Word32} {xs : List Stretch} (hx : ∀ t ∈ xs, t.Ahead o) :
    Apart o (unionOf xs) ∧ ∀ x, InPlan o (unionOf xs) x ↔ InPlan o xs x := by
  obtain ⟨h1, h2⟩ := sortStretches_spec hx
  have e : ∀ x, InPlan o (sortStretches xs) x ↔ InPlan o xs x := fun x => by simp [InPlan, h1]
  unfold unionOf
  split <;> rename_i hs
  · simpa [hs, Apart, inPlan_nil] using e
  · rename_i s rest
    have ha : ∀ t ∈ s :: rest, t.Ahead o := fun t ht => hx t ((h1 t).mp (hs ▸ ht))
    obtain ⟨a, -, c⟩ := mergeFrom_spec (ha s (by simp)) (fun t ht => ha t (by simp [ht])) (hs ▸ h2)
    exact ⟨a, fun x => by rw [c, ← hs, e]⟩

/-! ## The difference (R127) -/

/-- A stretch cut out of another leaves what it does not cover, within the other's ends. -/
theorem cutOut_spec {o : Word32} {s t : Stretch} (hs : s.Ahead o) (ht : t.Ahead o) :
    Apart o (cutOut t s) ∧ (∀ y ∈ cutOut t s, beyond o s.a ≤ beyond o y.a ∧ beyond o y.b ≤ beyond o s.b) ∧
      ∀ x, InPlan o (cutOut t s) x ↔ Covers o s.a s.b x ∧ ¬Covers o t.a t.b x := by
  have h0 := overlaps_iff hs ht
  have h1 := precedes_beyond o hs.start ht.start
  have h2 := precedes_beyond o ht.2 hs.2
  have := hs.1
  have := hs.2
  have := ht.1
  have := ht.2
  unfold cutOut
  split <;> rename_i k
  · obtain ⟨z, hz⟩ := h0.mp k
    simp only [covers_iff] at hz
    split <;> rename_i ka <;> split <;> rename_i kb <;> simp only [h1, h2] at ka kb <;>
      refine ⟨⟨?_, ?_⟩, ?_, fun x => ?_⟩ <;>
      simp [Stretch.Ahead, inPlan_cons, inPlan_nil, covers_iff] <;> omega
  · refine ⟨⟨by simpa using hs, by simp⟩, by simp, fun x => ?_⟩
    have := not_exists.mp (mt h0.mpr k) x
    simp only [inPlan_cons, inPlan_nil, or_false]
    exact ⟨fun k => ⟨k, fun q => this ⟨k, q⟩⟩, And.left⟩

/-- A stretch cut out of each of a list. -/
theorem flatMap_cutOut_spec {o : Word32} {t : Stretch} {xs : List Stretch} (hx : Apart o xs) (ht : t.Ahead o) :
    Apart o (xs.flatMap (cutOut t)) ∧ (∀ y ∈ xs.flatMap (cutOut t), ∃ s ∈ xs, beyond o s.a ≤ beyond o y.a) ∧
      ∀ x, InPlan o (xs.flatMap (cutOut t)) x ↔ InPlan o xs x ∧ ¬Covers o t.a t.b x := by
  induction xs with
  | nil => simp [Apart, inPlan_nil]
  | cons s xs ih =>
    obtain ⟨h1, h2⟩ := List.pairwise_cons.mp hx.2
    obtain ⟨a, b, c⟩ := cutOut_spec (hx.1 s (by simp)) ht
    obtain ⟨a', b', c'⟩ := ih ⟨fun y hy => hx.1 y (by simp [hy]), h2⟩
    rw [List.flatMap_cons]
    refine ⟨⟨fun y hy => ?_, List.pairwise_append.mpr ⟨a.2, a'.2, fun y hy z hz => ?_⟩⟩, fun y hy => ?_, fun x => ?_⟩
    · rcases List.mem_append.mp hy with hy | hy
      exacts [a.1 y hy, a'.1 y hy]
    · obtain ⟨w, hw, hwz⟩ := b' z hz
      have := h1 w hw
      have := (b y hy).2
      omega
    · rcases List.mem_append.mp hy with hy | hy
      · exact ⟨s, by simp, (b y hy).1⟩
      · obtain ⟨w, hw, hwz⟩ := b' y hy
        exact ⟨w, by simp [hw], hwz⟩
    · rw [inPlan_append, c, c', inPlan_cons, or_and_right]

/-- The difference covers what the first covers and the second does not. -/
theorem differenceOf_spec {o : Word32} {r xs : List Stretch} (hr : Apart o r) (hx : ∀ t ∈ xs, t.Ahead o) :
    Apart o (differenceOf r xs) ∧ ∀ x, InPlan o (differenceOf r xs) x ↔ InPlan o r x ∧ ¬InPlan o xs x := by
  unfold differenceOf
  induction xs generalizing r with
  | nil => simp [hr, inPlan_nil]
  | cons t xs ih =>
    obtain ⟨a, -, c⟩ := flatMap_cutOut_spec hr (hx t (by simp))
    obtain ⟨a', c'⟩ := ih a (fun y hy => hx y (by simp [hy]))
    refine ⟨a', fun x => ?_⟩
    rw [List.foldl_cons, c', c, inPlan_cons, not_or, and_assoc]

/-! ## Bridging (R130) -/

/-- An opening between two neighbours of a list of stretches, shorter than BRIDGE and with no touch of the forbidden set, covers a
pu of web. -/
def Opens (o : Word32) (bridge : Nat) (x : Forbidden) (xs : List Stretch) (p : Nat) : Prop :=
  ∃ before s t rest, xs = before ++ s :: t :: rest ∧ beyond o t.a < beyond o s.b + bridge ∧
    x.touches ⟨s.b, t.a⟩ = false ∧ Covers o s.b t.a p

theorem opens_cons {o : Word32} {bridge : Nat} {x : Forbidden} {s t : Stretch} {xs : List Stretch} {p : Nat} :
    Opens o bridge x (s :: t :: xs) p ↔
      (beyond o t.a < beyond o s.b + bridge ∧ x.touches ⟨s.b, t.a⟩ = false ∧ Covers o s.b t.a p) ∨
        Opens o bridge x (t :: xs) p := by
  constructor
  · rintro ⟨before, y, z, rest, e, h⟩
    cases before with
    | nil => simp at e; obtain ⟨rfl, rfl, rfl⟩ := e; exact .inl h
    | cons b bs => exact .inr ⟨bs, y, z, rest, by simp at e; exact e.2, h⟩
  · rintro (h | ⟨before, y, z, rest, e, h⟩)
    · exact ⟨[], s, t, xs, rfl, h⟩
    · exact ⟨s :: before, y, z, rest, by rw [e]; rfl, h⟩

theorem opens_start {o : Word32} {bridge : Nat} {x : Forbidden} {s : Stretch} {xs : List Stretch} {p : Nat} (a : Word32) :
    Opens o bridge x (⟨a, s.b⟩ :: xs) p ↔ Opens o bridge x (s :: xs) p := by
  cases xs with
  | nil =>
    constructor <;> rintro ⟨before, y, z, rest, e, -⟩ <;> cases before <;> simp at e
  | cons t xs => rw [opens_cons, opens_cons]

/-- Bridging adds the short openings that touch nothing forbidden, and leaves a length of web between each stretch and the next. -/
theorem bridgeFrom_spec {o : Word32} (bridge : Nat) (x : Forbidden) {cur : Stretch} {xs : List Stretch}
    (h : Apart o (cur :: xs)) :
    Apart o (bridgeFrom bridge x cur xs) ∧ (∀ t ∈ bridgeFrom bridge x cur xs, beyond o cur.a ≤ beyond o t.a) ∧
      ∀ p, InPlan o (bridgeFrom bridge x cur xs) p ↔ InPlan o (cur :: xs) p ∨ Opens o bridge x (cur :: xs) p := by
  induction xs generalizing cur with
  | nil =>
    refine ⟨h, by simp [bridgeFrom], fun p => ⟨.inl, fun k => k.elim id ?_⟩⟩
    rintro ⟨before, y, z, rest, e, -⟩
    cases before <;> simp at e
  | cons t rest ih =>
    obtain ⟨h1, h2⟩ := List.pairwise_cons.mp h.2
    have hc := h.1 cur (by simp)
    have ht := h.1 t (by simp)
    have hct := h1 t (by simp)
    have := hc.1
    have := ht.1
    have := ht.2
    have e := beyond_sub (o := o) hct.le
    unfold bridgeFrom
    split <;> rename_i k
    · obtain ⟨k, kx⟩ := k
      obtain ⟨a, b, c⟩ := ih (cur := ⟨cur.a, t.b⟩)
        ⟨fun y hy => by
            rcases List.mem_cons.mp hy with rfl | hy
            · exact ⟨by show beyond o cur.a < beyond o t.b; omega, ht.2⟩
            · exact h.1 y (by simp [hy]),
          List.pairwise_cons.mpr (List.pairwise_cons.mp h2)⟩
      refine ⟨a, b, fun p => ?_⟩
      rw [c, opens_start, opens_cons, inPlan_cons, inPlan_cons, inPlan_cons]
      have k' : beyond o t.a < beyond o cur.b + bridge := by omega
      simp only [k', kx, true_and, covers_iff]
      have : (beyond o cur.a ≤ p ∧ p < beyond o t.b) ↔
          (beyond o cur.a ≤ p ∧ p < beyond o cur.b) ∨ (beyond o cur.b ≤ p ∧ p < beyond o t.a) ∨
            (beyond o t.a ≤ p ∧ p < beyond o t.b) := by omega
      rw [this]
      exact iff_of_eq (by ac_rfl)
    · obtain ⟨a, b, c⟩ := ih (cur := t) ⟨fun y hy => h.1 y (by simp [hy]), h2⟩
      refine ⟨⟨fun y hy => ?_, List.pairwise_cons.mpr ⟨fun y hy => ?_, a.2⟩⟩, fun y hy => ?_, fun p => ?_⟩
      · rcases List.mem_cons.mp hy with rfl | hy
        exacts [hc, a.1 y hy]
      · have := b y hy
        omega
      · rcases List.mem_cons.mp hy with rfl | hy
        · exact le_rfl
        · have := b y hy
          omega
      · rw [inPlan_cons, c, opens_cons, inPlan_cons (s := cur)]
        have : ¬(beyond o t.a < beyond o cur.b + bridge ∧ x.touches ⟨cur.b, t.a⟩ = false ∧ Covers o cur.b t.a p) := by
          rintro ⟨k1, k2, -⟩
          exact k ⟨by omega, k2⟩
        simp only [this, false_or, or_assoc]

theorem bridged_spec {o : Word32} (bridge : Nat) (x : Forbidden) {xs : List Stretch} (h : Apart o xs) :
    Apart o (bridged bridge x xs) ∧
      ∀ p, InPlan o (bridged bridge x xs) p ↔ InPlan o xs p ∨ Opens o bridge x xs p := by
  cases xs with
  | nil => exact ⟨h, fun p => by simp [bridged, Opens]⟩
  | cons s xs => exact ⟨(bridgeFrom_spec bridge x h).1, (bridgeFrom_spec bridge x h).2.2⟩

/-! ## The sets of a plan (R129) -/

theorem inPlan_intervalsOf {o : Word32} {m : ZoneMode} {zones : List ZoneEntry} {x : Nat} :
    InPlan o (intervalsOf m zones) x ↔ InZone o m zones x := by
  simp only [InPlan, InZone, intervalsOf, List.mem_map, List.mem_filter, decide_eq_true_eq]
  constructor
  · rintro ⟨y, ⟨e, ⟨he, hm⟩, rfl⟩, h⟩
    exact ⟨e, he, hm, h⟩
  · rintro ⟨e, he, hm, h⟩
    exact ⟨e.stretch, ⟨e, ⟨he, hm⟩, rfl⟩, h⟩

theorem intervalsOf_ahead {o : Word32} {zones : List ZoneEntry} (h : ZonesAhead o zones) (m : ZoneMode) :
    ∀ t ∈ intervalsOf m zones, t.Ahead o := by
  simp only [intervalsOf, List.mem_map, List.mem_filter]
  rintro t ⟨e, ⟨he, -⟩, rfl⟩
  exact h e he

/-- The required set covers what the REQUIRED entries cover (R129, step 1). -/
theorem requiredSet_spec {o : Word32} {zones : List ZoneEntry} (h : ZonesAhead o zones) :
    Apart o (requiredSet zones) ∧ ∀ x, InPlan o (requiredSet zones) x ↔ InZone o .required zones x := by
  obtain ⟨a, b⟩ := unionOf_spec (intervalsOf_ahead h .required)
  exact ⟨a, fun x => (b x).trans inPlan_intervalsOf⟩

/-- The closed set before bridging covers what the policy wants closed (R129, step 3). -/
theorem closedSet_spec {o : Word32} {zones : List ZoneEntry} (h : ZonesAhead o zones) (ban : Bool) (policy : Policy) :
    Apart o (closedSet ban policy zones) ∧
      ∀ x, InPlan o (closedSet ban policy zones) x ↔ Wanted o ban policy zones x := by
  obtain ⟨ra, rb⟩ := requiredSet_spec h
  cases ban with
  | true => simp [closedSet, policyInForce, forbiddenSet, Wanted, Apart, inPlan_nil]
  | false =>
    cases policy with
    | requireWins => exact ⟨ra, fun x => by simp [closedSet, policyInForce, Wanted, rb]⟩
    | forbidWins =>
      obtain ⟨xa, xb⟩ := unionOf_spec (intervalsOf_ahead h .forbidden)
      obtain ⟨a, b⟩ := differenceOf_spec ra xa.1
      refine ⟨a, fun x => (b x).trans ?_⟩
      rw [rb, xb, inPlan_intervalsOf]
      simp [Wanted]

/-- The forbidden set touches an opening where some FORBIDDEN entry does (R127, R130). -/
theorem forbiddenSet_touches {o : Word32} {zones : List ZoneEntry} (h : ZonesAhead o zones) {a b : Word32}
    (hab : beyond o a ≤ beyond o b) (hb : beyond o b < 2147483648) :
    (forbiddenSet false zones).touches ⟨a, b⟩ = false ↔
      ∀ e ∈ zones, e.mode = .forbidden → beyond o e.b < beyond o a ∨ beyond o b < beyond o e.a := by
  have hi := intervalsOf_ahead h .forbidden
  obtain ⟨xa, xb⟩ := unionOf_spec hi
  have k : (forbiddenSet false zones).touches ⟨a, b⟩ = true ↔
      ∃ x, InZone o .forbidden zones x ∧ beyond o a ≤ x + 1 ∧ x ≤ beyond o b := by
    simp only [forbiddenSet, Forbidden.touches, Bool.false_eq_true, if_false, List.any_eq_true, ← inPlan_intervalsOf, ← xb]
    constructor
    · rintro ⟨s, hs, e⟩
      obtain ⟨x, hx, h⟩ := (touches_iff (xa.1 s hs) hab hb).mp e
      exact ⟨x, ⟨s, hs, hx⟩, h⟩
    · rintro ⟨x, ⟨s, hs, hx⟩, h⟩
      exact ⟨s, hs, (touches_iff (xa.1 s hs) hab hb).mpr ⟨x, hx, h⟩⟩
  rw [← Bool.not_eq_true, k]
  constructor
  · intro n e he hm
    have ha := h e he
    by_contra c
    refine n ⟨max (beyond o e.a) (beyond o a - 1), ⟨e, he, hm, ?_⟩, ?_⟩
    · simp only [covers_iff, beyond] at *
      omega
    · simp only [beyond] at *
      omega
  · rintro n ⟨x, ⟨e, he, hm, hx⟩, h⟩
    have := n e he hm
    simp only [covers_iff] at hx
    omega

/-- The openings between neighbours of a list of stretches, said by the pus of web next to them. -/
theorem opens_iff {o : Word32} {bridge : Nat} {x : Forbidden} {xs : List Stretch} {p : Nat} (h : Apart o xs) :
    Opens o bridge x xs p ↔
      ∃ s ∈ xs, ∃ t ∈ xs, (∀ y, beyond o s.b ≤ y → y < beyond o t.a → ¬InPlan o xs y) ∧
        beyond o t.a < beyond o s.b + bridge ∧ x.touches ⟨s.b, t.a⟩ = false ∧ Covers o s.b t.a p := by
  constructor
  · rintro ⟨before, s, t, rest, rfl, k⟩
    refine ⟨s, by simp, t, by simp, fun y h1 h2 hy => ?_, k⟩
    obtain ⟨hb, hr, -⟩ := List.pairwise_append.mp h.2
    obtain ⟨w, hw, hc⟩ := hy
    have ha := (h.1 w hw).1
    have hs := (h.1 s (by simp)).1
    have ht := (h.1 t (by simp)).1
    simp only [covers_iff] at hc
    rcases List.mem_append.mp hw with hw | hw
    · have := (List.pairwise_append.mp h.2).2.2 w hw s (by simp)
      omega
    · rcases List.mem_cons.mp hw with rfl | hw
      · omega
      · rcases List.mem_cons.mp hw with rfl | hw
        · omega
        · have := (List.pairwise_cons.mp (List.pairwise_cons.mp hr).2).1 w hw
          omega
  · rintro ⟨s, hs, t, ht, hn, k1, k2, k3⟩
    obtain ⟨before, tail, rfl⟩ := List.append_of_mem hs
    obtain ⟨hb, hr, hbr⟩ := List.pairwise_append.mp h.2
    have hs' := (h.1 s hs).1
    have ht' := (h.1 t ht).1
    have hp := k3
    simp only [covers_iff] at hp
    have htt : t ∈ tail := by
      rcases List.mem_append.mp ht with ht | ht
      · have := hbr t ht s (by simp)
        omega
      · rcases List.mem_cons.mp ht with rfl | ht
        · omega
        · exact ht
    cases tail with
    | nil => simp at htt
    | cons q rest =>
      rcases List.mem_cons.mp htt with rfl | htt
      · exact ⟨before, s, t, rest, rfl, k1, k2, k3⟩
      · have h1 := (List.pairwise_cons.mp hr).1 q (by simp)
        have h2 := (List.pairwise_cons.mp (List.pairwise_cons.mp hr).2).1 t htt
        have h3 := (h.1 q (by simp)).1
        exact absurd ⟨q, by simp, le_rfl, h3⟩ (hn (beyond o q.a) (by omega) (by omega))

/-- The openings bridged in the closed set are those of R130 pu by pu. -/
theorem opens_closedSet {o : Word32} {zones : List ZoneEntry} (h : ZonesAhead o zones) (ban : Bool) (policy : Policy)
    (bridge p : Nat) :
    Opens o bridge (forbiddenSet ban zones) (closedSet ban policy zones) p ↔ BridgedAt o ban policy bridge zones p := by
  obtain ⟨a, b⟩ := closedSet_spec h ban policy
  rw [opens_iff a]
  cases ban with
  | true => simp [forbiddenSet, Forbidden.touches, BridgedAt, Wanted]
  | false =>
    constructor
    · rintro ⟨s, hs, t, ht, hn, k1, k2, k3⟩
      have hs' := (a.1 s hs).1
      have ht' := (a.1 t ht)
      simp only [covers_iff] at k3
      rw [forbiddenSet_touches h (by omega) ht'.start] at k2
      have ht' := ht'.1
      have e : beyond o s.b - 1 + 1 = beyond o s.b := by omega
      refine ⟨beyond o s.b - 1, beyond o t.a, by omega, by omega, by omega, (b _).mp ⟨s, hs, ?_⟩, (b _).mp ⟨t, ht, ?_⟩,
        fun y h1 h2 hy => hn y (by omega) h2 ((b y).mpr hy), by rw [e]; exact k2⟩ <;> rw [covers_iff] <;> omega
    · rintro ⟨u, v, h1, h2, h3, hu, hv, hn, hf⟩
      obtain ⟨s, hs, hsu⟩ := (b u).mpr hu
      obtain ⟨t, ht, htv⟩ := (b v).mpr hv
      rw [covers_iff] at hsu htv
      have es : beyond o s.b = u + 1 := by
        by_contra c
        exact hn (u + 1) (by omega) (by omega) ((b _).mp ⟨s, hs, by rw [covers_iff]; omega⟩)
      have et : beyond o t.a = v := by
        by_contra c
        exact hn (v - 1) (by omega) (by omega) ((b _).mp ⟨t, ht, by rw [covers_iff]; omega⟩)
      refine ⟨s, hs, t, ht, fun y k1 k2 hy => hn y (by omega) (by omega) ((b y).mp hy), by omega, ?_, ?_⟩
      · rw [forbiddenSet_touches h (by omega) (a.1 t ht).start, es, et]
        exact hf
      · rw [covers_iff]
        omega

end Sys2Proof.Machine
end

