-- ==== Sys2Proof/Laws/Segments.lean ====
section
/-! SUPPORT. What the issue tests, the final states and the recomputations can do to a lane: no segment is created or moved, only
a CLOSED one leaves, one that stays keeps its identity, its anchor and its expectation, and a queue gives up only its heads. -/

namespace Sys2Proof.Machine

/-- `h` is the segment `g` after final states, flags and reports of lateness: its identity, anchor, expectation and state as they
were, its flags and tallies none the fewer. -/
structure Grown (g h : Segment) : Prop where
  same : h =
    { g with
      flags := h.flags, unfinished := h.unfinished, cutsDone := h.cutsDone, cutsLate := h.cutsLate,
      cutsMissed := h.cutsMissed, lateness := h.lateness, trimShort := h.trimShort, watch := h.watch }
  flags : h.flags &&& g.flags = g.flags
  cutsDone : g.cutsDone ≤ h.cutsDone
  cutsMissed : g.cutsMissed ≤ h.cutsMissed

theorem Grown.refl (g : Segment) : Grown g g := ⟨rfl, BitVec.and_self, Nat.le_refl _, Nat.le_refl _⟩

theorem flags_grow {a b c : BitVec 12} (h : b &&& a = a) (k : c &&& b = b) : c &&& a = a := by
  rw [← h, ← BitVec.and_assoc, k]

theorem flags_or (a b : BitVec 12) : (a ||| b) &&& a = a := by
  ext i hi
  simp only [BitVec.getElem_and, BitVec.getElem_or]
  cases a[i] <;> simp

theorem Grown.trans {g h i : Segment} (a : Grown g h) (b : Grown h i) : Grown g i where
  same := by
    have h1 := a.same
    have h2 := b.same
    generalize i.flags = x1 at h2 ⊢
    generalize i.unfinished = x2 at h2 ⊢
    generalize i.cutsDone = x3 at h2 ⊢
    generalize i.cutsLate = x4 at h2 ⊢
    generalize i.cutsMissed = x5 at h2 ⊢
    generalize i.lateness = x6 at h2 ⊢
    generalize i.trimShort = x7 at h2 ⊢
    generalize i.watch = x8 at h2 ⊢
    rw [h2, h1]
  flags := flags_grow a.flags b.flags
  cutsDone := a.cutsDone.trans b.cutsDone
  cutsMissed := a.cutsMissed.trans b.cutsMissed

namespace Grown

variable {g h : Segment} (a : Grown g h)
include a

theorem id : h.id = g.id := by rw [a.same]
theorem tag : h.tag = g.tag := by rw [a.same]
theorem slot : h.slot = g.slot := by rw [a.same]
theorem ordinal : h.ordinal = g.ordinal := by rw [a.same]
theorem pCue : h.pCue = g.pCue := by rw [a.same]
theorem anchorP : h.anchorP = g.anchorP := by rw [a.same]
theorem anchorX : h.anchorX = g.anchorX := by rw [a.same]
theorem stretch : h.stretch = g.stretch := by rw [a.same]
theorem state : h.state = g.state := by rw [a.same]
theorem next : h.next = g.next := by rw [a.same]
theorem faultCode : h.faultCode = g.faultCode := by rw [a.same]

end Grown

theorem grown_flag (d : BitVec 12) (g : Segment) : Grown g (g.flag d) :=
  ⟨rfl, flags_or _ _, Nat.le_refl _, Nat.le_refl _⟩

theorem grown_tally (cut : Bool) (fin : FinalState) (g : Segment) : Grown g (tally cut fin g) := by
  refine ⟨rfl, BitVec.and_self, ?_, ?_⟩ <;> (simp only [tally]; split <;> omega)

theorem grown_noteLate (n : Nat) (g : Segment) : Grown g (noteLate n g) :=
  ⟨rfl, flags_or _ _, Nat.le_refl _, Nat.le_refl _⟩

theorem grown_watchFinal (job : JobDef) (p : Word32) (key : Nat) (done : Bool) (g : Segment) :
    Grown g (watchFinal job p key done g) := by
  unfold watchFinal
  split
  · split
    · exact ⟨rfl, BitVec.and_self, Nat.le_refl _, Nat.le_refl _⟩
    · exact ⟨rfl, flags_or _ _, Nat.le_refl _, Nat.le_refl _⟩
  · exact Grown.refl g

/-- What happens to a lane inside the issue tests and final states. -/
structure MapAfter (l : Lane) (s t : State) : Prop where
  segs : ∃ (p : Segment → Bool) (f : Segment → Segment),
    (t.lane l).segs = ((s.lane l).segs.filter p).map f ∧ (∀ h, Grown h (f h)) ∧
      ∀ h ∈ (s.lane l).segs, p h = false → ∃ c ∈ (s.lane l).segs, c.id = h.id ∧ c.state = .closed
  stretch : (t.lane l).stretch = (s.lane l).stretch
  cutQueue : (t.lane l).cutQueue <:+ (s.lane l).cutQueue
  trimQueue : (t.lane l).trimQueue <:+ (s.lane l).trimQueue
  mode : (t.lane l).mode = (s.lane l).mode ∨ (s.lane l).mode = .draining ∧ (t.lane l).mode = .disabled

variable {l : Lane} {s t u : State}

/-- A lane with the same segments, stretch and mode, and queues that gave up at most their heads. -/
theorem mapAfter_of (h1 : (t.lane l).segs = (s.lane l).segs) (h2 : (t.lane l).stretch = (s.lane l).stretch)
    (h3 : (t.lane l).cutQueue <:+ (s.lane l).cutQueue) (h4 : (t.lane l).trimQueue <:+ (s.lane l).trimQueue)
    (h5 : (t.lane l).mode = (s.lane l).mode) : MapAfter l s t :=
  ⟨⟨fun _ => true, id, by simp [h1], Grown.refl, by simp⟩, h2, h3, h4, .inl h5⟩

/-- A lane left alone. -/
theorem mapAfter_eq (h : t.lane l = s.lane l) : MapAfter l s t := by
  apply mapAfter_of <;> rw [h]

theorem MapAfter.refl (l : Lane) (s : State) : MapAfter l s s := mapAfter_eq rfl

theorem filter_map_filter_map (p q : Segment → Bool) (f g : Segment → Segment) (xs : List Segment) :
    (((xs.filter p).map f).filter q).map g = (xs.filter (fun h => p h && q (f h))).map (fun h => g (f h)) := by
  induction xs with
  | nil => rfl
  | cons x xs ih => cases hp : p x <;> cases hq : q (f x) <;> simp [hp, hq, ih]

theorem MapAfter.trans (h : MapAfter l s t) (k : MapAfter l t u) : MapAfter l s u where
  segs := by
    obtain ⟨p, f, e1, g1, c1⟩ := h.segs
    obtain ⟨q, g, e2, g2, c2⟩ := k.segs
    refine ⟨fun h => p h && q (f h), fun h => g (f h), by rw [e2, e1, filter_map_filter_map],
      fun x => (g1 x).trans (g2 _), fun x hx hpq => ?_⟩
    cases hp : p x
    · exact c1 x hx hp
    · have hq : q (f x) = false := by simpa [hp] using hpq
      have hf : f x ∈ (t.lane l).segs := by
        rw [e1]
        exact List.mem_map.mpr ⟨x, List.mem_filter.mpr ⟨hx, hp⟩, rfl⟩
      obtain ⟨c, hc, hid, hcl⟩ := c2 _ hf hq
      rw [e1] at hc
      obtain ⟨y, hy, rfl⟩ := List.mem_map.mp hc
      exact ⟨y, (List.mem_filter.mp hy).1, by rw [← (g1 y).id, hid, (g1 x).id], by rw [← (g1 y).state, hcl]⟩
  stretch := k.stretch.trans h.stretch
  cutQueue := k.cutQueue.trans h.cutQueue
  trimQueue := k.trimQueue.trans h.trimQueue
  mode := by
    rcases h.mode with a | ⟨a, b⟩ <;> rcases k.mode with c | ⟨c, d⟩
    · exact .inl (c.trans a)
    · exact .inr ⟨a.symm.trans c, d⟩
    · exact .inr ⟨a, c.trans b⟩
    · exact .inr ⟨a, d⟩

theorem mapAfter_foldl {α : Type} (f : State → α → State) (h : ∀ a s, MapAfter l s (f s a)) :
    ∀ (xs : List α) (s : State), MapAfter l s (xs.foldl f s)
  | [], s => MapAfter.refl l s
  | a :: xs, s => (h a s).trans (mapAfter_foldl f h xs (f s a))

/-! ## Consequences -/

/-- A segment whose serial stands only under OPEN segments stays, grown. -/
theorem MapAfter.stays (h : MapAfter l s t) {g : Segment} (hg : g ∈ (s.lane l).segs) (ho : OpenUnder g.id (s.lane l)) :
    ∃ g' ∈ (t.lane l).segs, Grown g g' := by
  obtain ⟨p, f, e, gr, c⟩ := h.segs
  cases hp : p g
  · obtain ⟨x, hx, hid, hcl⟩ := c g hg hp
    rw [ho x hx hid] at hcl
    cases hcl
  · exact ⟨f g, by rw [e]; exact List.mem_map.mpr ⟨g, List.mem_filter.mpr ⟨hg, hp⟩, rfl⟩, gr g⟩

/-- A serial that stands only under OPEN segments goes on doing so. -/
theorem MapAfter.openUnder (h : MapAfter l s t) {k : Nat} (ho : OpenUnder k (s.lane l)) : OpenUnder k (t.lane l) := by
  obtain ⟨p, f, e, gr, -⟩ := h.segs
  intro g hg hid
  rw [e] at hg
  obtain ⟨x, hx, rfl⟩ := List.mem_map.mp hg
  rw [(gr x).state]
  exact ho x (List.mem_filter.mp hx).1 (by rw [← (gr x).id, hid])

/-- The newest segment, where its serial stands only under OPEN segments, stays the newest, grown. -/
theorem MapAfter.newest (h : MapAfter l s t) {older : List Segment} {g : Segment} (hs : (s.lane l).segs = older ++ [g])
    (ho : OpenUnder g.id (s.lane l)) : ∃ older' g', (t.lane l).segs = older' ++ [g'] ∧ Grown g g' ∧
      ∀ x ∈ older', ∃ y ∈ older, Grown y x := by
  obtain ⟨p, f, e, gr, c⟩ := h.segs
  have hg : g ∈ (s.lane l).segs := by rw [hs]; simp
  cases hp : p g
  · obtain ⟨x, hx, hid, hcl⟩ := c g hg hp
    rw [ho x hx hid] at hcl
    cases hcl
  · refine ⟨(older.filter p).map f, f g, ?_, gr g, ?_⟩
    · rw [e, hs, List.filter_append]
      simp [hp]
    · intro x hx
      obtain ⟨y, hy, rfl⟩ := List.mem_map.mp hx
      exact ⟨y, (List.mem_filter.mp hy).1, gr y⟩

/-- An empty map stays empty. -/
theorem MapAfter.empty (h : MapAfter l s t) (hs : (s.lane l).segs = []) : (t.lane l).segs = [] := by
  obtain ⟨p, f, e, -, -⟩ := h.segs
  rw [e, hs]
  rfl

/-! ## The operations -/

theorem mapAfter_modLane (l m : Lane) (f : LaneState → LaneState) (s : State)
    (h : MapAfter m s (s.setLane m (f (s.lane m)))) : MapAfter l s (s.modLane m f) := by
  by_cases e : l = m
  · subst e; exact h
  · exact mapAfter_eq (State.lane_modLane_ne s m l f e)

theorem mapAfter_modSeg (l m : Lane) (id : Nat) (f : Segment → Segment) (hf : ∀ g, Grown g (f g)) (s : State) :
    MapAfter l s (s.modSeg m id f) := by
  apply mapAfter_modLane
  refine ⟨⟨fun _ => true, fun g => if g.id = id then f g else g, ?_, ?_, by simp⟩, ?_, ?_, ?_, .inl ?_⟩
  · simp
  · intro g
    show Grown g (if g.id = id then f g else g)
    split
    · exact hf g
    · exact Grown.refl g
  all_goals simp

theorem mapAfter_flagSeg (l m : Lane) (id : Nat) (d : BitVec 12) (s : State) : MapAfter l s (flagSeg m id d s) :=
  mapAfter_modSeg l m id _ (grown_flag d) s

theorem mapAfter_raise (l : Lane) (p : Nat) (s : State) : MapAfter l s (raise p s) := mapAfter_eq (by cases l <;> rfl)

theorem mapAfter_modStation (l : Lane) (st : Station) (f : StationState → StationState) (s : State) :
    MapAfter l s (s.modStation st f) := mapAfter_eq (by simp)

theorem mapAfter_sendUrgent (l : Lane) (f : Frame) (s : State) : MapAfter l s (sendUrgent f s) := by
  apply mapAfter_eq
  unfold sendUrgent dropSouth
  split
  · cases l <;> rfl
  · split <;> cases l <;> rfl

theorem mapAfter_issueCore (l : Lane) (st : Station) (act : Action) (delay est : Nat) (s : State) :
    MapAfter l s (issueCore st act delay est s) := by
  refine MapAfter.trans ?_ (mapAfter_sendUrgent l _ _)
  exact mapAfter_eq (by cases l <;> simp)

theorem mapAfter_flagEstimated (l m : Lane) (act : Action) (s : State) : MapAfter l s (flagEstimated m act s) := by
  unfold flagEstimated
  split
  · split
    · exact mapAfter_flagSeg l m _ _ s
    · exact MapAfter.refl l s
  · exact MapAfter.refl l s

theorem mapAfter_flagOwners (l : Lane) (d : BitVec 12) (es : List ZoneEntry) (s : State) :
    MapAfter l s (flagOwners d es s) :=
  mapAfter_foldl (fun acc e => flagSeg e.lane e.seg d acc) (fun e s => mapAfter_flagSeg l e.lane e.seg d s) es s

theorem mapAfter_nip (l : Lane) (s : State) (n : Nip) : MapAfter l s { s with nip := n } :=
  mapAfter_eq (by cases l <;> rfl)

theorem mapAfter_recompute (l : Lane) (s : State) : MapAfter l s (recompute s) := by
  unfold recompute
  refine MapAfter.trans ?_ (mapAfter_nip l _ _)
  split
  · exact (mapAfter_flagOwners l _ _ s).trans (mapAfter_raise l _ _)
  · exact MapAfter.refl l s

theorem mapAfter_lateEngage (l : Lane) (o : Offer) (n : Nat) (s : State) : MapAfter l s (lateEngage o n s) := by
  unfold lateEngage
  simp only
  split
  · exact mapAfter_flagOwners l _ _ s
  · exact MapAfter.refl l s

theorem mapAfter_engageTemp (l : Lane) (o : Offer) (s : State) : MapAfter l s (engageTemp o s) := by
  unfold engageTemp
  split
  · exact (mapAfter_flagOwners l _ _ s).trans (mapAfter_raise l _ _)
  · exact MapAfter.refl l s

theorem mapAfter_nipIssued (l : Lane) (o : Offer) (n : Nat) (id : BitVec 16) (s : State) :
    MapAfter l s (nipIssued o n id s) := by
  unfold nipIssued
  refine (mapAfter_nip l s (nipRecord o id s.nip)).trans (MapAfter.trans ?_ (mapAfter_recompute l _))
  split
  · exact (mapAfter_lateEngage l o n _).trans ((mapAfter_engageTemp l o _).trans (mapAfter_nip l _ _))
  · exact MapAfter.refl l _

theorem mapAfter_lamTest (l : Lane) (s : State) : MapAfter l s (lamTest s) := by
  unfold lamTest
  split
  · split
    · exact (mapAfter_issueCore l .lam _ _ 0 s).trans (mapAfter_nipIssued l _ _ _ _)
    · exact MapAfter.refl l s
  · exact MapAfter.refl l s

theorem mapAfter_nipChange (l : Lane) (s : State) : MapAfter l s (nipChange s) :=
  (mapAfter_recompute l s).trans (mapAfter_lamTest l _)

theorem mapAfter_nipChangeIf (l : Lane) (c : Bool) (s : State) : MapAfter l s (nipChangeIf c s) := by
  unfold nipChangeIf
  split
  · exact mapAfter_nipChange l s
  · exact MapAfter.refl l s

theorem mapAfter_nipFinal (l : Lane) (id : BitVec 16) (done : Bool) (s : State) : MapAfter l s (nipFinal id done s) := by
  unfold nipFinal
  split
  · split
    · exact mapAfter_nip l s _
    · exact MapAfter.refl l s
  · exact MapAfter.refl l s

theorem mapAfter_handReport (l : Lane) (r : Report) (s : State) : MapAfter l s (handReport r s) := by
  unfold handReport
  split <;> exact mapAfter_eq (by cases l <;> rfl)

theorem mapAfter_drainTest (l m : Lane) (s : State) : MapAfter l s (drainTest m s) := by
  unfold drainTest
  split
  · rename_i h
    apply mapAfter_modLane
    refine ⟨⟨fun _ => true, id, by simp, Grown.refl, by simp⟩, ?_, ?_, ?_, .inr ⟨h.1, ?_⟩⟩ <;> simp
  · exact MapAfter.refl l s

/-- A CLOSED segment of a map leaves it. -/
theorem mapAfter_leaveMap (l m : Lane) (c : Cause) (g : Segment) (s : State) (hg : g ∈ (s.lane m).segs)
    (hc : g.state = .closed) : MapAfter l s (leaveMap m c g s) := by
  unfold leaveMap
  refine MapAfter.trans ?_ (mapAfter_drainTest l m _)
  have h1 : MapAfter l s (s.modLane m (fun x => { x with segs := x.segs.filter (fun h => h.id ≠ g.id) })) := by
    apply mapAfter_modLane
    refine ⟨⟨fun h => decide (h.id ≠ g.id), id, by simp, Grown.refl, ?_⟩, ?_, ?_, ?_, .inl ?_⟩
    · intro h _ hp
      exact ⟨g, hg, by simpa using (Eq.symm (by simpa using hp)), hc⟩
    all_goals simp
  have h2 : ∀ v : State, MapAfter l v (releaseJob g.slot (dropZones m g.id v)) :=
    fun v => mapAfter_eq (by cases l <;> rfl)
  split
  · exact (h1.trans (h2 _)).trans (mapAfter_handReport l _ _)
  · exact h1.trans (h2 _)

theorem seg?_mem {l : Lane} {id : Nat} {s : State} {g : Segment} (h : s.seg? l id = some g) :
    g ∈ (s.lane l).segs ∧ g.id = id :=
  ⟨List.mem_of_find?_eq_some h, by simpa using List.find?_some h⟩

theorem mapAfter_retire (l m : Lane) (g : Segment) (s : State) (hg : g ∈ (s.lane m).segs) (hc : g.state = .closed) :
    MapAfter l s (retire m g s) := (mapAfter_leaveMap l m _ g s hg hc).trans (mapAfter_nipChangeIf l _ _)

theorem mapAfter_retireTest (l m : Lane) (id : Nat) (s : State) : MapAfter l s (retireTest m id s) := by
  unfold retireTest
  split
  · rename_i g h
    split
    · rename_i hr
      exact mapAfter_retire l m g s (seg?_mem h).1 (by simp [retirable] at hr; exact hr.1)
    · exact MapAfter.refl l s
  · exact MapAfter.refl l s

theorem mapAfter_mapFinal (l m : Lane) (act : Action) (fin : FinalState) (s : State) :
    MapAfter l s (mapFinal m act fin s) := by
  unfold mapFinal
  split
  · exact (mapAfter_modSeg l m _ _ (grown_tally _ _) s).trans (mapAfter_retireTest l m _ _)
  · exact MapAfter.refl l s

theorem mapAfter_flagOwner (l m : Lane) (act : Action) (d : BitVec 12) (s : State) :
    MapAfter l s (flagOwner m act d s) := by
  unfold flagOwner
  split
  · exact mapAfter_flagSeg l m _ _ s
  · exact MapAfter.refl l s

theorem mapAfter_popCut (l m : Lane) (s : State) : MapAfter l s (popCut m s) :=
  mapAfter_modLane l m _ s (mapAfter_of (by simp) (by simp) (by simp [List.tail_suffix]) (by simp) (by simp))

theorem mapAfter_popTrim (l m : Lane) (s : State) : MapAfter l s (popTrim m s) :=
  mapAfter_modLane l m _ s (mapAfter_of (by simp) (by simp) (by simp) (by simp [List.tail_suffix]) (by simp))

theorem mapAfter_issueCut (l m : Lane) (act : Action) (s : State) : MapAfter l s (issueCut m act s) := by
  unfold issueCut
  have h := ((mapAfter_popCut l m s).trans (mapAfter_issueCore l (cutterOf m) act
    (fireDelay (toGo (cutterOf m) act.target s) s.tracker.speed s.setup.horizon) 0 _)).trans (mapAfter_flagEstimated l m act _)
  simp only
  split
  · split
    · exact h.trans (mapAfter_modSeg l m _ _ (grown_noteLate _) _)
    · exact h
  · exact h

theorem mapAfter_skipCut (l m : Lane) (act : Action) (s : State) : MapAfter l s (skipCut m act s) :=
  (((mapAfter_popCut l m s).trans (mapAfter_flagOwner l m _ _ _)).trans (mapAfter_raise l _ _)).trans
    (mapAfter_mapFinal l m _ _ _)

theorem mapAfter_cancelCut (l m : Lane) (act : Action) (s : State) : MapAfter l s (cancelCut m act s) :=
  (((mapAfter_popCut l m s).trans (mapAfter_flagOwner l m _ _ _)).trans (mapAfter_raise l _ _)).trans
    (mapAfter_mapFinal l m _ _ _)

theorem mapAfter_cutTestN (l m : Lane) : ∀ (n : Nat) (s : State), MapAfter l s (cutTestN m n s)
  | 0, s => MapAfter.refl l s
  | n + 1, s => by
    unfold cutTestN
    split
    · exact MapAfter.refl l s
    · split
      · exact MapAfter.refl l s
      · exact mapAfter_issueCut l m _ s
      · exact (mapAfter_skipCut l m _ s).trans (mapAfter_cutTestN l m n _)
      · exact (mapAfter_cancelCut l m _ s).trans (mapAfter_cutTestN l m n _)

theorem mapAfter_cutTest (l m : Lane) (s : State) : MapAfter l s (cutTest m s) := mapAfter_cutTestN l m _ s

theorem planFinal_kept (key : Nat) (done : Bool) (x : LaneState) :
    (planFinal key done x).stretch = x.stretch ∧ (planFinal key done x).cutQueue = x.cutQueue ∧
      (planFinal key done x).trimQueue = x.trimQueue ∧ (planFinal key done x).mode = x.mode := by
  unfold planFinal
  simp only
  split
  · split <;> exact ⟨rfl, rfl, rfl, rfl⟩
  · exact ⟨rfl, rfl, rfl, rfl⟩

theorem mapAfter_trimFinal (l m : Lane) (key : Nat) (done : Bool) (s : State) :
    MapAfter l s (trimFinal m key done s) := by
  unfold trimFinal
  have h : MapAfter l s (s.modLane m (fun x =>
      { planFinal key done x with segs := x.segs.map (fun g => watchFinal (s.jobOf g) (trimPos m s) key done g) })) := by
    apply mapAfter_modLane
    have k := planFinal_kept key done (s.lane m)
    refine ⟨⟨fun _ => true, fun g => watchFinal (s.jobOf g) (trimPos m s) key done g, by simp,
      fun g => grown_watchFinal _ _ _ _ g, by simp⟩, ?_, ?_, ?_, .inl ?_⟩ <;> simp [k]
  simp only
  split
  · exact h.trans (mapAfter_raise l _ _)
  · exact h

theorem mapAfter_trimIssued (l m : Lane) (key : Nat) (s : State) : MapAfter l s (trimIssued m key s) := by
  apply mapAfter_modSeg
  intro g
  split
  · exact ⟨rfl, BitVec.and_self, Nat.le_refl _, Nat.le_refl _⟩
  · exact Grown.refl g

theorem mapAfter_issueKnife (l m : Lane) (act : Action) (s : State) : MapAfter l s (issueKnife m act s) :=
  (((mapAfter_popTrim l m s).trans (mapAfter_issueCore l _ _ _ _ _)).trans (mapAfter_flagEstimated l m act _)).trans
    (mapAfter_trimIssued l m _ _)

theorem mapAfter_knifeFinal (l m : Lane) (act : Action) (fin : FinalState) (s : State) :
    MapAfter l s (knifeFinal m act fin s) := (mapAfter_trimFinal l m _ _ s).trans (mapAfter_mapFinal l m _ _ _)

theorem mapAfter_cancelKnife (l m : Lane) (act : Action) (s : State) : MapAfter l s (cancelKnife m act s) :=
  (((mapAfter_popTrim l m s).trans (mapAfter_flagOwner l m _ _ _)).trans (mapAfter_raise l _ _)).trans
    (mapAfter_knifeFinal l m _ _ _)

theorem mapAfter_trimTestN (l m : Lane) : ∀ (n : Nat) (s : State), MapAfter l s (trimTestN m n s)
  | 0, s => MapAfter.refl l s
  | n + 1, s => by
    unfold trimTestN
    split
    · exact MapAfter.refl l s
    · split
      · exact MapAfter.refl l s
      · exact mapAfter_issueKnife l m _ s
      · exact MapAfter.refl l s
      · exact (mapAfter_cancelKnife l m _ s).trans (mapAfter_trimTestN l m n _)

theorem mapAfter_trimTest (l m : Lane) (s : State) : MapAfter l s (trimTest m s) := mapAfter_trimTestN l m _ s

theorem mapAfter_issueTest (l : Lane) (st : Station) (s : State) : MapAfter l s (issueTest st s) := by
  cases st
  · exact mapAfter_lamTest l s
  · exact mapAfter_trimTest l .a s
  · exact mapAfter_trimTest l .b s
  · exact mapAfter_cutTest l .a s
  · exact mapAfter_cutTest l .b s

theorem mapAfter_issueTests (l : Lane) (sts : List Station) (s : State) : MapAfter l s (issueTests sts s) :=
  MapAfter.trans (mapAfter_eq (by cases l <;> rfl)) (mapAfter_foldl _ (fun st s => mapAfter_issueTest l st s) _ _)

theorem mapAfter_handOn (l : Lane) (st : Station) (i : Issued) (done : Bool) (s : State) :
    MapAfter l s (handOn st i done s) := by
  cases st
  · exact mapAfter_nipFinal l _ _ s
  · exact mapAfter_knifeFinal l .a _ _ s
  · exact mapAfter_knifeFinal l .b _ _ s
  · exact mapAfter_mapFinal l .a _ _ s
  · exact mapAfter_mapFinal l .b _ _ s

end Sys2Proof.Machine
end

