-- ==== Sys2Proof/Tests/Slice0.lean ====
section
/-! SUPPORT. Tests of the model: the well-formedness checks, one step on small states with the results the spec's own worked
examples give, and for each statement with hypotheses a state and operands that meet them. -/

open Sys2Proof Sys2Proof.Machine

-- One test after another: elaborated side by side, they wait on one another's kernel checks, a thread each.
set_option Elab.async false

namespace Sys2Proof.Tests

/-! ## Well-formedness: each check refuses an ill-formed command -/

theorem test_wf_enum_payload : Instr.wellFormed (.enum 63#8 0#8 (List.replicate 201 0#8)) = false := by decide +kernel
theorem test_wf_roll_width_zero : Instr.wellFormed (.rollDescriptor .vinyl 0#16 1#16 0#16 true) = false := by decide
theorem test_wf_roll_width_high : Instr.wellFormed (.rollDescriptor .vinyl 32001#16 1#16 0#16 true) = false := by decide
theorem test_wf_roll_width_ends :
    Instr.wellFormed (.rollDescriptor .vinyl 1#16 1#16 0#16 true) = true ∧
      Instr.wellFormed (.rollDescriptor .vinyl 32000#16 1#16 0#16 true) = true := by decide
theorem test_wf_head_lam : Instr.wellFormed (.headCancelled .lam) = false := by decide
theorem test_wf_retirement_place : Instr.wellFormed (.segmentRetirement .a 16) = false := by decide
theorem test_wf_request_body : Instr.wellFormed (.writeJob 0#8 (List.replicate 199 0#8)) = false := by decide +kernel
theorem test_wf_unknown_code : Instr.wellFormed (.unknownRequest 0x31#8 0#8 []) = false := by decide
theorem test_wf_unknown_body : Instr.wellFormed (.unknownRequest 0x99#8 0#8 (List.replicate 199 0#8)) = false := by
  decide +kernel
theorem test_wf_unknown : Instr.wellFormed (.unknownRequest 0x99#8 0#8 []) = true := by decide

/-! ## Small states -/

/-- The state a command leaves; reset where it did not answer one. -/
def after (c : Instr) (s : State) : State :=
  match exec c s with
  | .next t => t
  | .fault _ => State.reset
  | .refused _ => State.reset

/-- A 32-bit quantity. -/
def w (n : Nat) : Word32 := BitVec.ofNat 32 n

/-- A station record that is present and enabled. -/
def record (addr : Byte) (dist latency tol : Nat) : StationRecord :=
  { enabled := true, addr := addr, dist := dist, latency := latency, tol := tol, timeout := 500, knifeSpeed := 4000,
    settle := 150, table := [], tMin := 0, tMax := 0 }

/-- A READY station. -/
def readyAt (addr : Byte) (dist latency tol : Nat) : StationState :=
  { StationState.reset with record := some (record addr dist latency tol), mode := .ready }

/-- The job of the spec's registration examples (sections 3.4 and 4.5). -/
def job : JobDef :=
  { tag := 17#8, lane := .any, copies := 5, lNom := 1200000, tail := true, cuts := [0, 600000, 1200000],
    zones := [{ x1 := 0, x2 := 1200000, mode := .required }], trim := some (100, 15800), pitches := [600000], notify := false }

/-- The tracker of the small states: TRACKING at 1,000,000 pu and 1 m/s. -/
def tracker : Tracker :=
  { Tracker.reset with
    mode := .tracking, p := w 1000000, pEnc := w 1000000, speed := 25600, reference := some { count := w 5000, stamp := w 0 },
    sampleTimer := some 5 }

/-- A line in service: node address 1, five READY stations, both lanes RUNNING and empty, the job in slot 0. -/
def line : State :=
  { State.reset with
    nodeAddr := 1#8, tracker := tracker, jobs := some (freshRecord job) :: List.replicate 63 none,
    lam := readyAt 4#8 200000 20000 500, trimA := readyAt 5#8 500000 8000 300, trimB := readyAt 6#8 500000 8000 300,
    cutA := readyAt 7#8 900000 10000 300, cutB := readyAt 8#8 900000 10000 300,
    nip := { Nip.reset with commanded := .opened, decided := some (w 0) },
    laneA := { LaneState.reset (LaneRecord.default .a) with mode := .running },
    laneB := { LaneState.reset (LaneRecord.default .b) with mode := .running } }

/-- A segment of the job, OPEN at its first pitch mark. -/
def copy : Segment :=
  { id := 0, tag := 17#8, slot := 0, ordinal := 1, pCue := w 1000000, anchorP := w 1000000, anchorX := 0, stretch := 0,
    state := .opened, next := some (.pitch 0), flags := 0#12, unfinished := 3, cutsDone := 0, cutsLate := 0, cutsMissed := 0,
    lateness := 0, trimShort := 0, faultCode := none, cause := none,
    watch := { watched := none, state := .ended, moving := false } }

/-- A segment of the job, CLOSED with nothing left to do. -/
def closedCopy : Segment := { copy with state := .closed, next := none, unfinished := 0 }

/-- A cut of that segment. -/
def cut : Action := { kind := .cut, owner := some 0, key := 0, offset := 0, target := w 100000, near := 0, far := 0 }

/-- A knife move of that segment. -/
def move : Action := { kind := .move, owner := some 0, key := 0, offset := 0, target := w 500000, near := 100, far := 15800 }

/-- A frame of a kind the part does not know. -/
def other : Frame := { dst := 9#8, src := 0#8, kind := 0x77#8, payload := [] }

/-- The line with one open copy on lane A, its cut queued. -/
def working : State :=
  { line with laneA := { line.laneA with segs := [copy], cutQueue := [cut] }, nextSeg := 1 }

/-- The line with its tracker moved to a position. -/
def lineAt (p : Nat) (s : State) : State := { s with tracker := { s.tracker with p := w p, pEnc := w p } }

/-- The line with a station BUSY with an action, this many ms of its timeout left. -/
def busyFor (n : Nat) (st : Station) (act : Action) (s : State) : State :=
  s.modStation st (fun x =>
    { x with mode := .busy, outstanding := some { act := act, id := 41#16, orphan := false, timeout := n } })

/-- The line with a station BUSY with an action. -/
def busyWith (st : Station) (act : Action) (s : State) : State := busyFor 500 st act s

/-! ## Steps the spec's worked examples give -/

/-- Section 2.2, Accumulation, Reverse Debt and Speed: a state with K = 641,843 and F = 40,000. -/
def fine : State :=
  { State.reset with
    setup := { LineSetup.default with k := 641843 }
    tracker :=
      { Tracker.reset with
        mode := .tracking, p := w 3000000, pEnc := w 3000000, frac := 40000, speed := 25600,
        reference := some { count := w 1000, stamp := w 0 }, sampleTimer := some 5 } }

/-- Section 2.3, Estimate and Resynchronisation: ESTIMATED at tick 20. -/
def estimating : State :=
  { State.reset with
    tracker :=
      { Tracker.reset with
        mode := .estimated, p := w 5002000, pEnc := w 5000000, speed := 25600, estAdvance := 2000, estTime := 20,
        reference := some { count := w 500000, stamp := w 80000000 } } }

/-- A synthetic mark at a position. -/
def mark (l : Lane) (shape : Nat) (tag p : Nat) : Instr :=
  .injectMark 1#8 (be8 (laneCode l) ++ be8 shape ++ be8 tag ++ be8 0 ++ be32 p)

/-- The newest segment of lane A. -/
def newestA (s : State) : Segment := (newest s.laneA).getD copy

theorem test_posSample_accumulates :
    (after (.posSample (w 1010) (w 1000)) fine).tracker.p = w 3000098 ∧
      (after (.posSample (w 1010) (w 1000)) fine).tracker.frac = 35902 ∧
      (after (.posSample (w 1010) (w 1000)) fine).tracker.speed = 25467 := by decide

theorem test_posSample_resynchronises :
    (after (.posSample (w 500180) (w 80025000)) estimating).tracker.mode = .holding ∧
      (after (.posSample (w 500180) (w 80025000)) estimating).tracker.p = w 5002000 ∧
      (after (.posSample (w 500180) (w 80025000)) estimating).tracker.pEnc = w 5001800 ∧
      (after (.posSample (w 500180) (w 80025000)) estimating).tracker.speed = 23808 := by decide

theorem test_estimateTick_advances :
    (after .estimateTick { estimating with tracker := { estimating.tracker with p := w 5001900, estAdvance := 1900 } }).tracker.p =
      w 5002000 := by decide

/-- Section 2.5, Mark Conversion: the first two marks of the table. -/
theorem test_markConversion_positions :
    markPos (w 2000000) 20 641843 = w 1999804 ∧ markPos (w 2000000) (-3) 641843 = w 2000029 := by decide

/-- Section 2.5: the third mark is out of range. -/
theorem test_markConversion_out_of_range :
    (after (.markConversion .a .pitch 0#8 (w 934000))
      { line with tracker := { tracker with reference := some { count := w 1000500, stamp := w 0 } } }).tracker.outOfRange = 1 := by
  decide +kernel

/-- Section 4.5, One Registration: the map, the queues, the record and the knife move issued at once. -/
theorem test_injectMark_registers :
    ((after (mark .a 1 17 1000000) line).laneA.segs.map (fun g => (g.ordinal, g.pCue, g.unfinished, g.state)) =
        [(1, w 1000000, 4, .opened)]) ∧
      (after (mark .a 1 17 1000000) line).laneA.cutQueue.map (fun a => a.target) = [w 1000000, w 1600000, w 2200000] ∧
      (after (mark .a 1 17 1000000) line).nip.zones.map (fun e => (e.a, e.b)) = [(w 1000000, w 2200000)] ∧
      (after (mark .a 1 17 1000000) line).trimA.mode = .busy := by decide +kernel

/-- Section 3.5, A Lane Through Three Cues, event 1. -/
theorem test_injectMark_reanchors :
    (newestA (after (mark .a 2 0 1600300) working)).stretch = 125 ∧
      (newestA (after (mark .a 2 0 1600300) working)).coord 1200000 = w 2200375 ∧
      (after (mark .a 2 0 1600300) working).laneA.stretch = 125 := by decide +kernel

/-- Section 3.5, event 3: P at 2,202,500 has passed the window of the tail expected at 2,200,375. -/
theorem test_windowExpiry_closes :
    (newestA (after (.windowExpiry .a)
      (lineAt 2202500
        { working with
          laneA :=
            { working.laneA with
              segs := [{ copy with anchorP := w 1600300, anchorX := 600000, stretch := 125, next := some .tail }] } }))).state =
      .closed := by decide +kernel

/-- Section 3.6, Stretch Across Four Marks, PITCH 1: s_meas −4,700 and s_seg −4,325. -/
theorem test_stretch_update :
    measuredStretch 100000 99530 = -4700 ∧ newStretch (-4200) (-4700) 4 = -4325 := by decide

/-- Section 5.3, Lead, Fire Delay and Lateness. -/
theorem test_actionIssue_timing :
    lead 25600 12000 = 1200 ∧ isDue 250 25600 2000 = false ∧ isDue 150 25600 2000 = true ∧ fireDelay 150 25600 2000 = 1500 := by
  decide

/-- Section 5.4, A Busy Cutter: the cut at 2,200,000 is issued at 3,098,800 with timeout 502 ms. -/
theorem test_actionIssue_on_time :
    (after (.actionIssue .cutB)
      (lineAt 3098800 { line with laneB := { line.laneB with cutQueue := [{ cut with target := w 2200000 }] } })).cutB.outstanding.map
        (fun i => i.timeout) = some 502 := by decide +kernel

/-- Section 5.4: a second cut with r = −350 behind a BUSY cutter is skipped. -/
theorem test_cutSkipped_late :
    (after (.cutSkipped .b)
      (lineAt 3100350
        (busyWith .cutB cut
          { line with laneB := { line.laneB with cutQueue := [{ cut with target := w 2201000 }] } }))).laneB.cutQueue = [] := by
  decide +kernel

/-- Section 5.5: a reply with another id is stale. -/
theorem test_actDone_stale : (after (.actDone 8#8 7#16) (busyWith .cutB cut line)).cutB.staleReplies = 1 := by decide +kernel

/-- Section 5.4: ACT_DONE of id 41 frees the cutter. -/
theorem test_actDone_frees : (after (.actDone 8#8 41#16) (busyWith .cutB cut line)).cutB.mode = .ready := by decide +kernel

/-- R115: ACT_FAULT faults the station. -/
theorem test_actFault_faults : (after (.actFault 8#8 41#16 4#8) (busyWith .cutB cut line)).cutB.mode = .faulted := by
  decide +kernel

/-- R116: expiry faults the station; with 2 ms left there is none. -/
theorem test_actTimeout_faults :
    [1, 2].map (fun n => (after (.actTimeoutExpiry .cutB) (busyFor n .cutB cut line)).cutB.timeouts) = [1, 0] := by
  decide +kernel

/-- The state after a step. -/
def stepped (s : State) : State :=
  match step s with
  | .next t => t
  | _ => s

/-- R39 at TS = 1: a tick runs the restarted timer out; the sample first, then the expiry; the expiry first, then the sample; and
the expiry alone, with no command waiting. -/
theorem test_sampleTimerExpiry_orders :
    let sample := Instr.posSample (w 5010) (w 1000)
    let s := stepped (after (.posSample (w 5000) (w 0)) { line with setup := { line.setup with ts := 1 } })
    let first := after .sampleTimerExpiry (after sample s)
    let second := after sample (after .sampleTimerExpiry s)
    s.tracker.mode = .tracking ∧ first.tracker.mode = .tracking ∧ second.tracker.mode = .tracking ∧
      first.tracker.p = w 1000100 ∧ second.tracker.p = w 1000100 ∧
      attnHas first.mgmt.flags prioTrackEstimated = false ∧ attnHas second.mgmt.flags prioTrackEstimated = true ∧
      (stepped s).tracker.mode = .estimated ∧ (stepped s).tracker.estTime = 0 := by decide +kernel

/-- An entry of the zone list. -/
def entry (l : Lane) (seg : Nat) (m : ZoneMode) (a b : Nat) : ZoneEntry :=
  { lane := l, seg := seg, number := 0, mode := m, x1 := 0, x2 := 0, a := w a, b := w b }

/-- Section 6.2, Bridging and Policy: the three plans of the example. -/
theorem test_plan_bridged :
    planOf false .forbidWins 15000 [entry .a 1 .required 1000000 1300000, entry .b 2 .required 1310000 1500000] =
      [⟨w 1000000, w 1500000⟩] := by decide

theorem test_plan_forbid_wins :
    planOf false .forbidWins 15000
      [entry .a 1 .required 1000000 1300000, entry .b 2 .required 1310000 1500000, entry .a 3 .forbidden 1305000 1312000] =
      [⟨w 1000000, w 1300000⟩, ⟨w 1312000, w 1500000⟩] := by decide

theorem test_plan_require_wins :
    planOf false .requireWins 15000
      [entry .a 1 .required 1000000 1300000, entry .b 2 .required 1310000 1500000, entry .a 3 .forbidden 1305000 1312000] =
      [⟨w 1000000, w 1300000⟩, ⟨w 1310000, w 1500000⟩] := by decide

/-- Section 6.3, Two Lanes Through the Nip: at 1,700,100 λ has passed 1,500,000. -/
theorem test_zonePassing_removes :
    (after .zonePassing
      (lineAt 1700100 { line with nip := { line.nip with zones := [entry .b 2 .required 1310000 1500000] } })).nip.zones = [] := by
  decide +kernel

/-- Two open copies, of lane A and of lane B; their entries with the nip commanded OPEN at h, the ENGAGE of lane B's offered; this
much of lane A's ENGAGE noted. -/
def betweenStretches (p a b h : Nat) (begun : List ZoneKey) : State :=
  { lineAt p working with
    laneB := { line.laneB with segs := [{ copy with id := 1 }] }
    nip :=
      { working.nip with
        zones := [entry .a 0 .required a b, entry .b 1 .required 1312000 1500000], decided := some (w h), begun := begun
        plan := [⟨w a, w b⟩, ⟨w 1312000, w 1500000⟩]
        offer := some { kind := .engage, target := w 1312000, wanted := w 1312000, corrective := false } }
    lam := { line.lam with mode := .faulted } }

/-- Section 6.3, Two Lanes Through the Nip, P = 1,500,100: lane A's entry, laid by its own ENGAGE, passes while a later stretch's
is offered, and the table has no LAM_SHORT for it. R139: an entry re-anchored wholly behind λ has had no ENGAGE and is flagged. -/
theorem test_zonePassing_flags :
    (newestA (after .zonePassing (betweenStretches 1500100 1000000 1300000 1300000
        [(entry .a 0 .required 1000000 1300000).key]))).flags = 0#12 ∧
      (newestA (after .zonePassing (betweenStretches 1500100 1280000 1290000 1300000 []))).flags = defLamShort := by
  decide +kernel

/-- Section 6.4, Temperature: raw codes 65, 120 and 150. -/
theorem test_status_converts :
    [65, 120, 150].map (convertTemp
      [(20, 200), (60, 450), (100, 700), (140, 950), (170, 1150), (200, 1400), (220, 1600), (240, 1800), (255, 1950)]) =
      [481, 825, 1016] := by decide

/-- Section 7.2, Needs on Lane B: J2 and J3. -/
theorem test_trim_needs :
    trimNeed (LaneRecord.default .b) { job with trim := some (0, 16400) } = .pair 16000 32000 ∧
      trimNeed (LaneRecord.default .b) { job with trim := some (16100, 16500) } = .parked := by decide

/-- Section 7.3, Plan and Estimates on Lane B: 8,150 ms without from-positions, 200 ms from (16,200, 31,800). -/
theorem test_move_estimates :
    moveEstimate (record 6#8 0 0 0) { move with near := 16200, far := 31800 } none = 8150 ∧
      moveEstimate (record 6#8 0 0 0) { move with near := 16000, far := 32000 } (some (16200, 31800)) = 200 := by decide

/-- Section 8.4, A Splice, Then a Break: the splice lies at P + 300,000. -/
theorem test_posSampleFlags_splice :
    (after (.posSampleFlags true true)
      (lineAt 2150000 { line with setup := { line.setup with spliceDist := 300000 } })).web.splices = [w 2450000] := by
  decide +kernel

/-- Section 8.4: the break at an accumulator of 5,000. -/
theorem test_webBreak_declared :
    (after .webBreak { working with web := { WebUnit.reset with present := false, absence := 5000 } }).web.broken = true := by
  decide +kernel

/-- R181: the CRC of the bytes 31h to 39h. -/
theorem test_frame_crc : crc16 [0x31#8, 0x32#8, 0x33#8, 0x34#8, 0x35#8, 0x36#8, 0x37#8, 0x38#8, 0x39#8] = 0x29B1#16 := by
  decide +kernel

/-- Section 9.3, Enumerating the Chain: next 1 is taken and 2 forwarded. -/
theorem test_enum_forwards :
    (after (.enum 63#8 0#8 [1#8]) State.reset).nodeAddr = 1#8 ∧
      (after (.enum 63#8 0#8 [1#8]) State.reset).south.tx.map (fun f => f.payload) = some [2#8] := by decide +kernel

/-- Section 10.4, A Burst of Reports: with five own frames and four reports appended, an ATTN and one report move in. -/
theorem test_report_burst :
    (finish
      { State.reset with
        north := { NorthPort.reset true with tx := some other, own := List.replicate 5 other }
        mgmt :=
          { Mgmt.reset with
            flags := attnBit prioWebBreak, pendingAttn := true,
            reports := List.replicate 4 (reportOf .a .webBreak copy) } }).north.own.length = 7 := by decide +kernel

/-- R200 and R202: the lengths of the responses. -/
theorem test_response_lengths : (statusPart0 line).length = 61 ∧ (statusPart1 line).length = 60 := by decide +kernel

theorem test_step_takes_front :
    (match step { line with pending := [.clearFlags 0#8 [0xFF#8, 0xFF#8], .coldReset] } with
      | .next t => t.pending
      | .fault _ => []
      | .refused _ => []) = [.coldReset] := by decide +kernel

/-- No row of the table gives a word bits. -/
theorem test_decode_none : decodeTableWord 16 0 = none := by decide

/-! ## For each statement with hypotheses, a state and operands that meet them, clause by clause

Where a statement's hypotheses are an equation on the state alone, the theorem gives that equation; boundary values stand where a
clause has a range. -/

/-- A line with nothing waiting and every timer two ticks from its end, then one. -/
def timed (n : Nat) : State :=
  { line with
    tracker := { tracker with sampleTimer := some n }, nip := { line.nip with validity := some n, tempValid := true } }

/-- The cutter BUSY with this many ticks left. -/
def waiting (n : Nat) : State := busyFor n .cutA cut line

theorem test_meets_IdleStepCountsDown :
    ((timed 2).pending = [] ∧ (timed 2).nip.validity = some 2 ∧ (timed 2).tracker.sampleTimer = some 2 ∧ 2 ≤ 2) ∧
      ((timed 1).pending = [] ∧ (timed 1).nip.validity = some 1 ∧ (timed 1).tracker.sampleTimer = some 1 ∧ 1 ≤ 1) ∧
      ((timed 0).pending = [] ∧ (timed 0).tracker.sampleTimer = some 0) ∧ (timed 1).turn.expiryAtOnce = false ∧
      { timed 1 with turns := [{ unitFirst := false, expiryAtOnce := true, takers := [], ticks := [] }] }.turn.expiryAtOnce =
        true := by
  decide

theorem test_meets_IdleStepCountsDown_station :
    [1, 2].all (fun n =>
      decide ((waiting n).pending = []) && decide (((waiting n).station .cutA).mode = .busy) &&
        decide (((waiting n).station .cutA).outstanding =
          some { act := cut, id := 41#16, orphan := false, timeout := n })) = true := by decide

theorem test_meets_IdleStepCountsDown_estimate :
    estimating.pending = [] ∧ estimating.tracker.sampleTimer = none ∧ estimating.tracker.mode = .estimated ∧
      estimating.tracker.estAdvance + (estimating.tracker.estFrac + estimating.tracker.speed) / 256 ≤
        estimating.setup.estLimit ∧ estimating.tracker.estTime < 999 ∧ State.reset.tracker.mode ≠ .estimated := by decide

theorem test_meets_PortLinkChanges_down : line.north.up = true ∧ line.south.up = true := by decide

/-- A line whose ports are DOWN, with an ATTN pending. -/
def dark : State :=
  { line with
    north := { line.north with up := false }, south := { line.south with up := false },
    mgmt := { line.mgmt with pendingAttn := true, flags := attnBit prioWebBreak } }

theorem test_meets_PortLinkChanges_up :
    dark.south.up = false ∧ dark.north.up = false ∧ dark.mgmt.pendingAttn = true ∧
      dark.mgmt.flags &&& dark.mgmt.mask ≠ 0#14 ∧ dark.north.own = [] ∧ dark.north.fwd = [] ∧ dark.north.tx = none := by
  decide

/-- A line whose south port transmits. -/
def sending : State :=
  { line with
    south := { line.south with tx := some other, urgent := [other], fwd := [other] }
    north := { line.north with tx := some other, own := [other], fwd := [other], run := 4 } }

theorem test_meets_PortArbitration_south : sending.south.tx = some other ∧ sending.south.up = true := by decide

theorem test_meets_PortArbitration_own :
    sending.north.tx = some other ∧ sending.north.up = true ∧ sending.north.own = [other] ∧
      (sending.north.fwd = [] ∨ sending.north.run = 4) := by decide

theorem test_meets_PortArbitration_forward :
    ∃ s : State, s.north.tx = some other ∧ s.north.up = true ∧ s.north.own = [other] ∧ s.north.fwd = [other] ∧
      s.north.run ≠ 4 :=
  ⟨{ sending with north := { sending.north with run := 3 } }, by decide⟩

theorem test_meets_PortArbitration_empty_own :
    ∃ s : State, s.north.tx = some other ∧ s.north.up = true ∧ s.north.own = [] ∧ s.north.fwd = [other] :=
  ⟨{ sending with north := { sending.north with own := [] } }, by decide⟩

/-- The four ways a frame is dropped: 5 bytes, LEN 201, a byte too many, a bad CHK. -/
theorem test_meets_BadFrameIsCounted :
    [0#8, 0#8, 0#8, 0#8, 0#8].length < 6 ∧ 200 < byteAt [0#8, 0#8, 0#8, 201#8, 0#8, 0#8] 3 ∧
      [0#8, 0#8, 0#8, 0#8, 0#8, 0#8, 0#8].length ≠ 6 + byteAt [0#8, 0#8, 0#8, 0#8, 0#8, 0#8, 0#8] 3 ∧
      (crc16 [0#8, 0#8, 0#8, 0#8]).toNat ≠ field16 [0#8, 0#8, 0#8, 0#8, 0#8, 0#8] 4 ∧ line.north.up = true ∧
      line.south.up = true := by decide +kernel

theorem test_meets_FrameBytesRoundTrip :
    ({ other with payload := List.replicate 200 7#8 } : Frame).payload.length ≤ 200 ∧
      readFrame other.wire = some other := by decide +kernel

/-- An ENUM of 200 bytes, a REQ of 198, a frame and a REQ of 1 byte for the part, one for another node, a broadcast LINE RESET. -/
theorem test_meets_NorthFrameRouted :
    line.north.up = true ∧ (List.replicate 200 0#8).length ≤ 200 ∧ (List.replicate 198 0#8).length ≤ 198 ∧
      other.payload.length ≤ 200 ∧ other.kind ≠ 0x01#8 ∧ { other with dst := 1#8 }.dst = line.nodeAddr ∧ other.kind ≠ 0x40#8 ∧
      ([0x31#8] : List Byte).length < 2 ∧ other.dst ≠ line.nodeAddr ∧ other.dst ≠ 63#8 ∧ line.nodeAddr ≠ 63#8 ∧
      (1#8).toNat ≤ 1 := by decide +kernel

/-- Broadcast LINE RESETs that are not valid: KEEP_TABLES 2, and no body. -/
theorem test_meets_NorthFrameRouted_invalid :
    ¬(∃ token keep : Byte, [0x60#8, 7#8, 2#8] = [0x60#8, token, keep] ∧ keep.toNat ≤ 1) ∧
      ¬(∃ token keep : Byte, [0x60#8, 7#8] = [0x60#8, token, keep] ∧ keep.toNat ≤ 1) := by
  refine ⟨?_, ?_⟩
  · rintro ⟨t, k, h, hk⟩
    simp only [List.cons.injEq, and_true, true_and] at h
    rw [← h.2] at hk
    exact absurd hk (by decide)
  · rintro ⟨t, k, h, -⟩
    simp at h

theorem test_meets_SouthFrameDispatched :
    line.south.up = true ∧ 1 ≤ (1#16).toNat ∧ (32000#16).toNat ≤ 32000 ∧ line.turn.unitFirst = false ∧
      { line with turns := [{ unitFirst := true, expiryAtOnce := false, takers := [], ticks := [] }] }.turn.unitFirst = true ∧
      1#8 = line.nodeAddr ∧ 1 ≤ (1#8).toNat ∧ (1#8).toNat ≤ 62 ∧
      62#8 = { line with nodeAddr := 62#8 }.nodeAddr ∧ (62#8).toNat ≤ 62 := by decide

/-- Frames of the right LEN with a coded field of no defined value: lane 2, shape 0 and 4; media 0 and 6, width 0 and 32,001,
laminate 2; and a nip sensor of 2. -/
theorem test_meets_SouthFrameDispatched_codes :
    [[2#8, 1#8], [0#8, 0#8], [1#8, 4#8]].all (fun p =>
        decide (1 < byteAt p 0) || decide (byteAt p 1 = 0) || decide (3 < byteAt p 1)) = true ∧
      [[0#8, 0#8, 1#8, 0#8, 0#8, 0#8, 0#8, 1#8], [6#8, 0#8, 1#8, 0#8, 0#8, 0#8, 0#8, 1#8],
          [5#8, 0#8, 0#8, 0#8, 0#8, 0#8, 0#8, 1#8], [5#8, 0x7D#8, 1#8, 0#8, 0#8, 0#8, 0#8, 1#8],
          [5#8, 0#8, 1#8, 0#8, 0#8, 0#8, 0#8, 2#8]].all (fun p =>
        decide (p.length = 8) && (decide (byteAt p 0 = 0) || decide (5 < byteAt p 0) || decide (field16 p 1 = 0) ||
          decide (32000 < field16 p 1) || decide (1 < byteAt p 7))) = true ∧
      1 < byteAt [0#8, 2#8] 1 := by decide +kernel

/-- Frames that are forwarded only: an unknown kind, a POS of 8 bytes, a STATUS for another node and for a part without address;
and a STATUS of 3 bytes for the part, which is discarded. -/
theorem test_meets_SouthFrameDispatched_others :
    (other.kind ∉ [0x10#8, 0x11#8, 0x12#8, 0x20#8, 0x31#8, 0x32#8] ∧ other.payload.length ≤ 200) ∧
      ({ other with kind := 0x10#8, payload := List.replicate 8 0#8 } : Frame).payload.length ≠ 9 ∧
      ({ other with kind := 0x20#8 } : Frame).dst ≠ line.nodeAddr ∧ State.reset.nodeAddr.toNat < 1 ∧
      ({ other with kind := 0x20#8, dst := 1#8, payload := List.replicate 3 0#8 } : Frame).dst = line.nodeAddr ∧
      1 ≤ line.nodeAddr.toNat ∧ line.nodeAddr.toNat ≤ 62 ∧ (List.replicate 3 (0#8 : Byte)).length ≠ 2 := by decide

theorem test_meets_EnumAssignsAddress :
    line.north.up = true ∧ ([] : List Byte).length ≠ 1 ∧ [1#8, 2#8].length ≠ 1 ∧ 1 ≤ (1#8).toNat ∧ (62#8).toNat ≤ 62 ∧
      63 ≤ (63#8).toNat ∧ (0#8 : Byte) = 0#8 := by decide

/-- A delta of MAX_STEP, one of −2,000 at REV_LIMIT 2,000, and one of MAX_STEP + 1. -/
theorem test_meets_SampleInTracking :
    line.tracker.mode = .tracking ∧ line.tracker.reference = some { count := w 5000, stamp := w 0 } ∧
      (sdiff (w 70535) (w 5000)).natAbs ≤ 65535 ∧ ¬sdiff (w 70535) (w 5000) < 0 ∧
      (sdiff (w 3000) (w 5000)).natAbs ≤ 65535 ∧ sdiff (w 3000) (w 5000) < 0 ∧
      line.tracker.debt + (sdiff (w 3000) (w 5000)).natAbs ≤ line.setup.revLimit := by decide

/-- A jump of MAX_STEP + 1 as the first, second and third in a row; a reverse delta that takes the debt to REV_LIMIT + 1. -/
theorem test_meets_PositionIsLost :
    line.tracker.mode = .tracking ∧ line.tracker.reference = some { count := w 5000, stamp := w 0 } ∧
      65535 < (sdiff (w 70536) (w 5000)).natAbs ∧ line.tracker.jumpRun < 2 ∧ { tracker with jumpRun := 1 }.jumpRun < 2 ∧
      2 ≤ { tracker with jumpRun := 2 }.jumpRun ∧ (sdiff (w 2999) (w 5000)).natAbs ≤ 65535 ∧ sdiff (w 2999) (w 5000) < 0 ∧
      line.setup.revLimit < line.tracker.debt + (sdiff (w 2999) (w 5000)).natAbs := by decide

/-- An estimate 1 pu beyond EST_LIMIT at the next tick, and one at its 999th millisecond. -/
theorem test_meets_PositionIsLost_estimate :
    estimating.tracker.mode = .estimated ∧
      estimating.setup.estLimit <
        { estimating.tracker with estAdvance := 49901 }.estAdvance + (estimating.tracker.estFrac + estimating.tracker.speed) / 256 ∧
      999 ≤ { estimating.tracker with estTime := 999 }.estTime := by decide

/-- The line with an open copy, its zone in the list, the nip CLOSED, and seven own frames waiting. -/
def laminating : State :=
  { working with
    nip :=
      { working.nip with
        zones := [{ lane := .a, seg := 0, number := 0, mode := .required, x1 := 0, x2 := 1200000, a := w 1000000, b := w 2200000 }]
        plan := [⟨w 1000000, w 2200000⟩], commanded := .closed }
    north := { line.north with tx := some other, own := List.replicate 7 other } }

theorem test_meets_PositionIsLost_release :
    laminating.nip.zones ≠ [] ∧ (∀ e ∈ laminating.nip.zones, inMap (laminating.lane e.lane) e.seg = true) ∧
      laminating.nip.commanded = .closed ∧ laminating.lam.mode = .ready ∧
      (laminating.laneA.segs ++ laminating.laneB.segs).length + laminating.mgmt.reports.length ≤ 16 ∧ ownRoom laminating < 2 ∧
      { laminating with tracker := { tracker with mode := .estimated } }.tracker.mode = .estimated := by decide

theorem test_meets_PositionIsLost_reports :
    ∀ l, (laminating.lane l).trimQueue = [] ∧ ((laminating.lane l).segs.map (fun g => g.id)).Nodup := by
  intro l; cases l <;> decide

theorem test_meets_SampleOutsideTracking :
    State.reset.tracker.mode = .noDatum ∧ { tracker with mode := .lost }.mode = .lost := by decide

/-- The gaps of R33 and R34 at their ends: P_enc at P, ahead by EST_LIMIT, beyond it, behind by it, and beyond it. -/
theorem test_meets_SampleOutsideTracking_gaps :
    estimating.tracker.mode = .estimated ∧ estimating.tracker.reference = some { count := w 500000, stamp := w 80000000 } ∧
      (sdiff (w 500200) (w 500000)).natAbs ≤ 65535 ∧ ¬sdiff (w 500200) (w 500000) < 0 ∧
      [500200, 505200, 505201, 500000].map (fun c =>
        sdiff (settleSample (w c) (w 80025000) { count := w 500000, stamp := w 80000000 } 655360 estimating.tracker).pEnc
          estimating.tracker.p) = [0, 50000, 50010, -2000] ∧
      estimating.setup.estLimit = 50000 ∧
      { estimating with tracker := { estimating.tracker with mode := .holding } }.tracker.mode = .holding := by
  decide +kernel

/-- Behind by exactly EST_LIMIT, and by more. -/
theorem test_meets_SampleOutsideTracking_behind :
    [5050000, 5050001].map (fun p =>
      sdiff (settleSample (w 500000) (w 80025000) { count := w 500000, stamp := w 80000000 } 655360
        { estimating.tracker with p := w p }).pEnc (w p)) = [-50000, -50001] := by decide +kernel

theorem test_meets_TrackerTimersRun :
    (timed 0).tracker.sampleTimer = some 0 ∧ 1 ≤ (timed 0).setup.ts ∧ (timed 1).tracker.sampleTimer ≠ some 0 ∧
      estimating.tracker.sampleTimer = none ∧ estimating.tracker.mode = .estimated ∧
      estimating.tracker.estAdvance + (estimating.tracker.estFrac + estimating.tracker.speed) / 256 ≤
        estimating.setup.estLimit ∧
      { estimating.tracker with estTime := 998 }.estTime < 999 ∧ 999 ≤ { estimating.tracker with estTime := 999 }.estTime ∧
      line.tracker.mode ≠ .estimated := by decide

/-- A sample and the expiry together: in TRACKING, a gap of EST_LIMIT and one of 10 pu more; in HOLDING, P_enc behind P by
EST_LIMIT and by 1 pu more. -/
theorem test_meets_TrackerTimersRun_orders :
    let s := timed 0
    let r : Reference := { count := w 5000, stamp := w 0 }
    let gap := fun (c p : Nat) =>
      sdiff (settleSample (w c) (w 1000) r s.setup.k { s.tracker with mode := .holding, p := w p }).pEnc (w p)
    s.tracker.mode = .tracking ∧ s.tracker.reference = some r ∧ s.tracker.p = w 1000000 ∧ s.setup.estLimit = 50000 ∧
      (sdiff (w 10001) (w 5000)).natAbs ≤ 65535 ∧ ¬sdiff (w 10000) (w 5000) < 0 ∧ gap 10000 1000000 = 50000 ∧
      gap 10001 1000000 = 50010 ∧ gap 5000 1050000 = -50000 ∧ gap 5000 1050001 = -50001 := by decide +kernel

/-- The line with its media absent and 5 pu short of a break at an advance of 10. -/
def fading (n : Nat) : State := { line with web := { WebUnit.reset with present := false, absence := n } }

theorem planAgrees_fading (n : Nat) : PlanAgrees (fading n) := by
  constructor
  · rfl
  · intro e h; cases h
  · intro l _; cases l <;> rfl
  · intro l g h; cases l <;> cases h

theorem test_meets_AdvanceIsTakenByAll :
    PlanAgrees (fading 4989) ∧ PlanAgrees (fading 4990) ∧
      ∃ t u, exec (.posSample (w 5001) (w 1000)) (fading 4989) = .next t ∧ t.tracker.p ≠ (fading 4989).tracker.p ∧
        t.web.broken = false ∧ exec (.posSample (w 5001) (w 1000)) (fading 4990) = .next u ∧
        u.tracker.p ≠ (fading 4990).tracker.p ∧ u.web.broken = true :=
  ⟨planAgrees_fading _, planAgrees_fading _, _, _, rfl, by decide +kernel, by decide +kernel, rfl, by decide +kernel,
    by decide +kernel⟩

theorem test_meets_AdvanceIsTakenByAll_present : line.web.present = true ∧ { line.web with broken := true }.broken = true := by
  decide

theorem test_meets_CueRegistersSegment :
    ∃ (c : Word32) (r : Reference) (j : JobRecord),
      line.tracker.mode ≠ .noDatum ∧ line.tracker.mode ≠ .lost ∧ line.tracker.debt = 0 ∧ line.tracker.reference = some r ∧
        (sdiff r.count c).natAbs ≤ 65535 ∧ (line.lane .a).mode = .running ∧ line.holding 17#8 = some 0 ∧
        line.slot 0 = some j ∧ laneAdmits j.defn.lane .a = true ∧ j.state = .loaded ∧ roomFor .a j.defn line ∧
        (∀ h ∈ (line.lane .a).segs, h.id < line.nextSeg) ∧ newest (line.lane .a) = none ∧ (line.lane .a).segs = [] :=
  ⟨w 5000, { count := w 5000, stamp := w 0 }, freshRecord job, by unfold roomFor; decide +kernel⟩

/-- A splice at either end of the span and one a pu beyond it; a lane whose far edge clamps the far offset, and one that clamps
nothing. -/
theorem test_meets_CueRegistersSegment_flags :
    (let at' := fun (x : Nat) (far : Nat) =>
      match exec (.markConversion .a .cue 17#8 (w 5000))
          { line with
            web := { line.web with splices := [w x] }
            laneA := { line.laneA with record := { line.laneA.record with farEdge := far } } } with
      | .next t => (newest t.laneA).map (fun g => (g.flags &&& defSpliced, g.flags &&& defTrimClamped))
      | _ => none
     at' 1000000 15800 = some (defSpliced, 0#12) ∧ at' 999999 15799 = some (0#12, defTrimClamped) ∧
       at' 2200000 15800 = some (defSpliced, 0#12) ∧ at' 2200001 15800 = some (0#12, 0#12)) := by decide +kernel

/-- A second cue with the first copy CLOSED and its tail behind. -/
def second : State :=
  lineAt 2203000
    { line with
      laneA := { line.laneA with segs := [{ closedCopy with unfinished := 2 }] }, nextSeg := 1,
      jobs := some { freshRecord job with remaining := 4, registered := 1, inUse := 1 } :: List.replicate 63 none }

theorem test_meets_CueRegistersSegment_behind :
    newest (second.lane .a) = some { closedCopy with unfinished := 2 } ∧
      (reaches (markPos second.tracker.pEnc 0 second.setup.k)
        (expectedTail (second.jobOf closedCopy) { closedCopy with unfinished := 2 } - pu (second.lane .a).record.markTol) = true ∧
      precedes closedCopy.pCue (markPos second.tracker.pEnc 0 second.setup.k) = true) ∧
      (∀ h ∈ (second.lane .a).segs, h.id < second.nextSeg) ∧ roomFor .a job second := by
  unfold roomFor
  decide +kernel

/-- A job shorter than the widest MARK_TOL, so that a cue at the newest segment's own cue lies at or after its tail. -/
def short (g : Segment) : State :=
  { line with
    jobs := some (freshRecord { job with lNom := 40000, cuts := [40000], zones := [], pitches := [] }) :: List.replicate 63 none
    laneA := { line.laneA with segs := [g], record := { line.laneA.record with markTol := 50000 } }, nextSeg := 1 }

/-- An OPEN newest segment whose tail lies behind: a pitch and the tail are missed. -/
def passing : State := lineAt 2203000 working

theorem test_meets_CueClosesOpenSegment :
    (passing.tracker.mode ≠ .noDatum ∧ passing.tracker.mode ≠ .lost ∧ passing.tracker.debt = 0 ∧
        passing.tracker.reference = some { count := w 5000, stamp := w 0 } ∧ (sdiff (w 5000) (w 5000)).natAbs ≤ 65535 ∧
        (passing.lane .a).mode = .running ∧ (passing.lane .a).segs = [] ++ [copy] ∧ copy.state = .opened ∧
        copy.next = some (.pitch 0) ∧ 0 < copy.unfinished) ∧
      markPos passing.tracker.pEnc (sdiff (w 5000) (w 5000)) passing.setup.k = w 2203000 ∧
      reaches (w 2203000) (expectedTail (passing.jobOf copy) copy - pu (passing.lane .a).record.markTol) = true ∧
      precedes copy.pCue (w 2203000) = true ∧ passing.holding 30#8 = none ∧ passing.holding 17#8 = some 0 ∧
      passing.slot 0 = some (freshRecord job) ∧ laneAdmits job.lane .a = true ∧ roomFor .a job passing ∧
      (∀ h ∈ (passing.lane .a).segs, h.id < passing.nextSeg) := by
  unfold roomFor
  decide +kernel

/-- The segment's own tail alone missing, and no mark missing; a cue at the segment's own cue. -/
theorem test_meets_CueClosesOpenSegment_ends :
    { copy with next := some .tail }.next = some .tail ∧ { job with tail := false }.tail = false ∧
      (reaches (w 1000000) (expectedTail ((short copy).jobOf copy) copy - pu ((short copy).lane .a).record.markTol) = true ∧
        precedes copy.pCue (w 1000000) = false ∧ ((short copy).lane .a).segs = [] ++ [copy]) ∧
      ¬roomFor .a job { passing with laneA := { passing.laneA with cutQueue := List.replicate 30 cut } } ∧
      laneAdmits { job with lane := .b }.lane .a = false := by
  unfold roomFor
  decide +kernel

/-- An OPEN newest segment with no work left, its tail behind: it retires in its closing, and the cue registers, is refused, or
finds a full map but for the place it leaves. -/
def finished (older : List Segment) : State :=
  { passing with laneA := { passing.laneA with segs := older ++ [{ copy with unfinished := 0 }], cutQueue := [] } }

theorem test_meets_CueClosesOpenSegment_retires :
    ((finished []).lane .a).segs = [] ++ [{ copy with unfinished := 0 }] ∧ (finished []).holding 30#8 = none ∧
      (finished []).holding 17#8 = some 0 ∧ (finished []).slot 0 = some (freshRecord job) ∧ roomFor .a job (finished []) ∧
      ((after (.markConversion .a .cue 17#8 (w 5000)) (finished [])).laneA.segs.map (fun g => (g.id, g.state)) = [(1, .opened)]) ∧
      ((after (.markConversion .a .cue 30#8 (w 5000)) (finished [])).laneA.segs = []) ∧
      ¬roomFor .a job { finished [] with laneA := { (finished []).laneA with cutQueue := List.replicate 30 cut } } ∧
      (let s := short { copy with unfinished := 0 }
       reaches (w 1000000) (expectedTail (s.jobOf copy) copy - pu (s.lane .a).record.markTol) = true ∧
        (s.lane .a).segs = [] ++ [{ copy with unfinished := 0 }] ∧
        (after (.markConversion .a .cue 17#8 (w 5000)) s).laneA.strayMarks = 1) := by
  unfold roomFor
  decide +kernel

/-- A registration with the cutter and the trim station BUSY and LAM FAULTED; and one with LAM and the trim station OFFLINE. -/
def registering : State :=
  { busyWith .trimA move (busyWith .cutA { cut with owner := none } line) with lam := { line.lam with mode := .faulted } }

def bare : State := { registering with lam := StationState.reset, trimA := StationState.reset }

theorem test_meets_RegistrationPlansWork :
    [registering, bare].all (fun s =>
      decide (s.tracker.mode = .tracking) && decide (s.tracker.debt = 0) &&
        decide (s.tracker.reference = some { count := w 5000, stamp := w 0 }) && decide ((s.lane .a).mode = .running) &&
        decide (s.holding 17#8 = some 0) && decide (s.slot 0 = some (freshRecord job)) && hasRoom .a job s &&
        decide (newest (s.lane .a) = none) && decide ((s.station (cutterOf .a)).mode = .busy) &&
        (job.cuts.all (fun x => decide (-toGo (cutterOf .a) (webCoord (w 1000000) 0 0 x) s ≤
          ((recordOr (s.station (cutterOf .a))).tol : Int)) &&
            decide ((sdiff (webCoord (w 1000000) 0 0 x) s.tracker.p).natAbs < 1073741824))) &&
        decide (s.lam.mode ≠ .ready)) = true ∧
      markPos registering.tracker.pEnc (sdiff (w 5000) (w 5000)) registering.setup.k = w 1000000 ∧
      (registering.station (trimmerOf .a)).mode = .busy ∧ registering.lam.configured = true ∧
      knifeNeeded .a job registering = true ∧ (bare.station (trimmerOf .a)).configured = false ∧ bare.lam.configured = false ∧
      knifeNeeded .a job bare = false ∧ job.trim ≠ none ∧ (∃ z ∈ job.zones, z.mode = .required) := by
  decide +kernel

/-- A hit at a configured trim station: the knife plan is the job's need already; and a CLOSED segment behind. -/
theorem test_meets_RegistrationPlansWork_hit :
    knifeNeeded .a job { registering with laneA := { registering.laneA with knifePlan := .pair 100 15800 } } = false ∧
      newest (second.lane .a) = some { closedCopy with unfinished := 2 } := by decide +kernel

/-- What a registration on lane A opens: the watched action, the watch's state, the trim short length, and the last target in the
trim queue. -/
def opens (s : State) : Option (Option Nat × WatchState × Nat × Option Word32) :=
  let t := after (.markConversion .a .cue 17#8 (w 5000)) s
  (newest t.laneA).map (fun g =>
    (g.watch.watched, g.watch.state, g.trimShort, t.laneA.trimQueue.getLast?.map (fun a => a.target)))

/-- The knife action of a miss, the web at the knives at 500,000: on an empty queue, and behind a target after it and before it. -/
theorem test_meets_RegistrationPlansWork_target :
    opens registering = some (some 0, .waiting, 0, some (w 500000)) ∧
      [600000, 500001, 499999].map (fun n =>
          (opens { registering with
            laneA := { registering.laneA with trimQueue := [{ move with owner := none, target := w n }] } }).bind
            (fun x => x.2.2.2)) =
        [some (w 600000), some (w 500001), some (w 500000)] := by decide +kernel

/-- A line on which the job hits, with this pending knife action. -/
def hit (p : Option Nat) : State :=
  { registering with laneA := { registering.laneA with knifePlan := .pair 100 15800, pendingKnife := p } }

/-- A job with a single cut. -/
def single : State :=
  { registering with jobs := some (freshRecord { job with cuts := [5] }) :: List.replicate 63 none }

/-- A hit without and with a pending action, a single cut, and an OFFLINE station. -/
theorem test_meets_RegistrationPlansWork_watch :
    [hit none, hit (some 9), single, bare].map opens =
      [some (none, .ended, 0, none), some (some 9, .waiting, 0, none), some (some 0, .ended, 0, some (w 500000)),
        some (none, .ended, 1200000, none)] := by decide +kernel

/-- Marks 2,000 pu from the expected position, on a base of 600,000 and on one of 5,000. -/
theorem test_meets_PitchMarkReanchors :
    (working.lane .a).segs = [] ++ [copy] ∧ copy.state = .opened ∧ copy.next = some (.pitch 0) ∧
      (working.lane .a).mode ≠ .disabled ∧ working.tracker.debt = 0 ∧
      (sdiff (markPos working.tracker.pEnc (sdiff (w 5000) (w 65200)) working.setup.k)
        (copy.coord (markOffset (working.jobOf copy) (.pitch 0)))).natAbs ≤ (working.lane .a).record.markTol ∧
      (sdiff (w 5000) (w 65200)).natAbs ≤ 65535 ∧
      10000 ≤ ((markOffset (working.jobOf copy) (.pitch 0) : Int) - copy.anchorX) ∧
      ((markOffset (working.jobOf copy) (.pitch 0) : Int) - { copy with anchorX := 595000 }.anchorX) < 10000 := by
  decide +kernel

/-- A conflict between two entries of other segments, the open segment owning none. -/
theorem test_meets_PitchMarkReanchors_conflict :
    ∃ s : State, (s.lane .a).segs = [] ++ [copy] ∧ (∀ e ∈ s.nip.zones, ¬(e.lane = .a ∧ e.seg = copy.id)) ∧
      hasConflict (banned s.web) s.nip.zones = true :=
  ⟨{ working with
      nip :=
        { working.nip with zones := [entry .b 1 .required 1000000 1300000, entry .b 2 .forbidden 1200000 1400000] } },
    by decide +kernel⟩

/-- Each way a mark is turned away: no datum, a count MAX_STEP + 1 away, debt, a tag held by no record, a record for the other lane
or EXHAUSTED, a full cut queue, a cue before the newest segment's tail, no open segment, another shape, and a mark 2,010 pu off. -/
theorem test_meets_MarkTurnedAway :
    (line.tracker.mode ≠ .noDatum ∧ line.tracker.mode ≠ .lost ∧ line.tracker.debt = 0 ∧
        line.tracker.reference = some { count := w 5000, stamp := w 0 } ∧ (sdiff (w 5000) (w 5000)).natAbs ≤ 65535) ∧
      State.reset.tracker.mode = .noDatum ∧ 65535 < (sdiff (w 5000) (w 70536)).natAbs ∧ 0 < { tracker with debt := 1 }.debt ∧
      (line.lane .a).mode = .running ∧ newest (line.lane .a) = none ∧ line.holding 30#8 = none ∧
      line.holding 17#8 = some 0 ∧ laneAdmits { job with lane := .b }.lane .a = false ∧
      ¬roomFor .a job { line with laneA := { line.laneA with cutQueue := List.replicate 30 cut } } ∧
      { freshRecord job with state := .exhausted }.state = .exhausted ∧
      laneAdmits job.lane .a = true ∧ newest (working.lane .a) = some copy ∧
      reaches (w 1000000) (expectedTail (working.jobOf copy) copy - pu 2000) = false ∧ openSeg (line.lane .a) = none ∧
      openSeg (working.lane .a) = some copy ∧ copy.next = some (.pitch 0) ∧ MarkShape.tail ≠ shapeOf (.pitch 0) ∧
      2000 < (sdiff (w 1602001) (copy.coord (markOffset (working.jobOf copy) (.pitch 0)))).natAbs := by
  unfold roomFor
  decide +kernel

theorem test_meets_MarkTurnedAway_closed :
    newest ((short { closedCopy with unfinished := 1 }).lane .a) = some { closedCopy with unfinished := 1 } ∧
      closedCopy.state = .closed ∧
      reaches (w 1000000)
        (expectedTail ((short closedCopy).jobOf closedCopy) closedCopy - pu ((short closedCopy).lane .a).record.markTol) = true ∧
      precedes closedCopy.pCue (w 1000000) = false := by decide +kernel

/-- The newest segment CLOSED and behind, and no place left in the map. -/
theorem test_meets_MarkTurnedAway_full :
    ∃ s : State, (∀ g, newest (s.lane .a) = some g → g.state = .closed ∧
        reaches (w 2203000) (expectedTail (s.jobOf g) g - pu (s.lane .a).record.markTol) = true ∧
        precedes g.pCue (w 2203000) = true) ∧ s.holding 17#8 = some 0 ∧ ¬roomFor .a job s := by
  refine ⟨{ second with laneA := { second.laneA with segs := List.replicate 16 { closedCopy with unfinished := 2 } } },
    ?_, by decide +kernel, by unfold roomFor; decide +kernel⟩
  intro g h
  have e : some { closedCopy with unfinished := 2 } = some g := h
  rw [← Option.some.inj e]
  decide +kernel

/-- A TAIL mark 2,000 pu from the expected tail, on a base of 1,200,000 and on one of 5,000. -/
theorem test_meets_TailMarkCloses :
    ∃ (s : State) (g : Segment),
      s.tracker.mode ≠ .noDatum ∧ s.tracker.mode ≠ .lost ∧ s.tracker.debt = 0 ∧
        s.tracker.reference = some { count := w 5000, stamp := w 0 } ∧ (sdiff (w 5000) (w 5000)).natAbs ≤ 65535 ∧
        (s.lane .a).mode ≠ .disabled ∧ (s.lane .a).segs = [] ++ [g] ∧ g.state = .opened ∧ g.next = some .tail ∧
        (s.jobOf g).tail = true ∧
        (sdiff (markPos s.tracker.pEnc (sdiff (w 5000) (w 5000)) s.setup.k) (g.coord (s.jobOf g).lNom)).natAbs = 2000 ∧
        { s.lane .a with cutQueue := [] }.cutQueue = [] ∧ 0 < g.unfinished ∧ { g with unfinished := 0 }.unfinished = 0 ∧
        (s.lane .a).record.markTol = 2000 ∧ 10000 ≤ ((s.jobOf g).lNom : Int) - g.anchorX ∧
        ((s.jobOf g).lNom : Int) - { g with anchorX := 1195000 }.anchorX < 10000 :=
  ⟨lineAt 2202000 { working with laneA := { working.laneA with segs := [{ copy with next := some .tail }] } },
    { copy with next := some .tail }, by decide +kernel⟩

/-- A TAIL mark 2,000 pu late for a copy with two PLANNED cuts and a zone, this much work unfinished. -/
def atTail (unfinished : Nat) (s : State) : State :=
  lineAt 2202000
    { s with
      laneA :=
        { working.laneA with
          segs := [{ copy with next := some .tail, unfinished := unfinished }],
          cutQueue := [{ cut with offset := 600000, target := w 1600000 }, { cut with offset := 1200000, target := w 2200000 }] }
      nip := { line.nip with zones := [{ entry .a 0 .required 1000000 2200000 with x2 := 1200000 }] } }

/-- READY and BUSY cutters with no cut late or due under the coordinates at stretch 416, the cuts within the window. -/
theorem test_meets_TailMarkCloses_cuts :
    [0, 3].all (fun n =>
      [(atTail n working, StationMode.ready), (atTail n (busyWith .cutA cut working), .busy)].all (fun x =>
        let s := x.1
        let cuts := (s.lane .a).cutQueue.map (fun a => { a with target := webCoord (w 2202000) 1200000 416 a.offset })
        decide ((s.station .cutA).mode = x.2) && !cuts.isEmpty && !s.nip.zones.isEmpty &&
          decide ((s.lane .a).segs = [{ copy with next := some .tail, unfinished := n }]) &&
          cuts.all (fun a =>
            decide (a.owner = some copy.id) &&
            decide (-toGo .cutA a.target s ≤ ((recordOr (s.station .cutA)).tol : Int)) &&
            decide (((s.tracker.speed * s.setup.horizon : Nat) : Int) < toGo .cutA a.target s * 256000) &&
            decide ((sdiff a.target s.tracker.p).natAbs < 1073741824)))) = true := by decide +kernel

/-- R48, R63 and R86 there by hand: base 1,200,000, measured stretch 1,667, a quarter of it 416; T of 0, 600,000 and 1,200,000. -/
theorem test_tailMark_rezones :
    [(atTail 3 working, true), (atTail 3 (busyWith .cutA cut working), true), (atTail 0 working, false)].all (fun x =>
      let t := after (.markConversion .a .tail 0#8 (w 5000)) x.1
      decide ((t.lane .a).segs.map (fun g => (g.state, g.unfinished, g.stretch)) = if x.2 then [(.closed, 3, 416)] else []) &&
        decide ((t.lane .a).cutQueue.map (fun a => a.target) = [w 1601750, w 2202000]) &&
        decide (t.nip.zones.map (fun e => (e.a, e.b)) = if x.2 then [(w 1001501, w 2202000)] else [])) = true := by
  decide +kernel

theorem test_meets_WindowExpiryMisses :
    openSeg (working.lane .a) = some copy ∧ copy.next = some (.pitch 0) ∧
      windowPassed (working.jobOf copy) 2000 (w 1602001) copy (.pitch 0) = true ∧
      windowPassed (working.jobOf copy) 2000 (w 1602001) copy (afterPitch (working.jobOf copy) 0) = false ∧
      windowPassed (working.jobOf copy) 2000 (w 2202001) { copy with next := some .tail } .tail = true ∧
      0 < copy.unfinished := by decide +kernel

/-- A TAIL window passed by 1 pu with no work left, behind an older segment and in an empty map. -/
theorem test_meets_WindowExpiryMisses_retires :
    (let g := { copy with next := some .tail, unfinished := 0 }
     let done := fun older : List Segment => lineAt 2202001 { working with laneA := { working.laneA with segs := older ++ [g] } }
     openSeg ((done []).lane .a) = some g ∧
      windowPassed ((done []).jobOf g) ((done []).lane .a).record.markTol (done []).tracker.p g .tail = true ∧
      (after (.windowExpiry .a) (done [])).laneA.segs = [] ∧
      (after (.windowExpiry .a) (done [{ closedCopy with id := 7, unfinished := 1 }])).laneA.segs =
        [{ closedCopy with id := 7, unfinished := 1 }]) := by decide +kernel

theorem test_meets_WebInputsTaken :
    line.web.spliceFlag = false ∧ { line.setup with spliceDist := 300000 }.spliceDist ≠ 0 ∧
      line.tracker.mode ≠ .noDatum ∧ line.tracker.mode ≠ .lost ∧ line.web.splices.length < 4 ∧
      4 ≤ { line.web with splices := List.replicate 4 0#32 }.splices.length ∧ State.reset.tracker.mode = .noDatum := by
  decide

theorem test_meets_WebInputsTaken_roll :
    1 ≤ (1#16).toNat ∧ (32000#16).toNat ≤ 32000 ∧ working.laneA.segs ≠ [] ∧ line.laneA.segs = [] ∧ line.laneB.segs = [] ∧
      (line.lane .b).mode = .running ∧ (31999#16).toNat < (line.lane .b).record.farEdge := by decide

/-- The line of test_meets_PositionIsLost_release with a break due. -/
def breaking : State := { laminating with web := { WebUnit.reset with present := false, absence := 5000 } }

theorem test_meets_WebBreakSpoilsBothLanes :
    breaking.laneA.segs = [copy] ∧ breaking.web.present = false ∧ breaking.web.broken = false ∧
      breaking.setup.db ≤ breaking.web.absence ∧
      (breaking.laneA.segs ++ breaking.laneB.segs).length + breaking.mgmt.reports.length ≤ 16 ∧ ownRoom breaking < 2 ∧
      (∀ e ∈ breaking.nip.zones, inMap (breaking.lane e.lane) e.seg = true) ∧ breaking.nip.commanded = .closed ∧
      breaking.lam.mode = .ready ∧ breaking.tracker.speed ≤ 256000 ∧ (recordOr breaking.lam).latency ≤ 200000 := by decide

/-- R90's clauses: a PLANNED cut and an ISSUED one of the open copy. -/
theorem test_meets_WebBreakSpoilsBothLanes_work :
    (∀ a ∈ (breaking.lane .a).cutQueue ++ (breaking.lane .a).trimQueue,
      ∃ k, a.owner = some k ∧ inMap (breaking.lane .a) k = true) ∧
      ((busyWith .cutA cut breaking).station .cutA).mode = .busy ∧ cut.owner = some 0 ∧
      inMap ((busyWith .cutA cut breaking).lane .a) 0 = true := by
  refine ⟨?_, by decide, by decide, by decide⟩
  intro a h
  have e : a = cut := List.mem_singleton.mp h
  exact ⟨0, by rw [e]; rfl, by decide⟩

/-- A REQUIRED entry that λ passes with an ENGAGE offered, its own not noted; one noted, 1 pu beyond the decided point; and one
passing with the nip CLOSED at a LAM that is not READY. -/
theorem test_meets_PassedEntriesLeave :
    [betweenStretches 1500100 1280000 1290000 1300000 [],
      betweenStretches 1500100 1000000 1300000 1299999 [(entry .a 0 .required 1000000 1300000).key]].all (fun s =>
        s.nip.zones.any (fun e =>
          precedes e.b (s.tracker.p - pu (recordOr s.lam).dist) && decide (e.mode = .required) &&
            s.nip.plan.any e.stretch.overlaps && (s.lane e.lane).segs.any (fun g => decide (g.id = e.seg)) &&
            (decide (e.key ∉ s.nip.begun) || (match s.nip.decided with | some h => precedes h e.b | none => true)))) = true ∧
      (betweenStretches 1500100 1280000 1290000 1300000 []).nip.commanded ≠ .closed ∧
      (betweenStretches 1500100 1280000 1290000 1300000 []).nip.offer.map (fun o => o.kind) = some .engage ∧
      ({ laminating with lam := { line.lam with mode := .faulted } }.nip.commanded = .closed ∧
        { laminating with lam := { line.lam with mode := .faulted } }.lam.mode ≠ .ready ∧
        precedes (w 2200000) ((lineAt 2400001 laminating).tracker.p - pu (recordOr laminating.lam).dist) = true ∧
        hasConflict (banned laminating.web) [] = false) := by decide +kernel

/-- The cutter's head 200 pu before its fire point, and 300 pu beyond it. -/
def dueCut (p : Nat) : State :=
  lineAt p { working with laneA := { working.laneA with cutQueue := [{ cut with target := w 2200000 }] } }

theorem test_meets_DueHeadIssued :
    (((dueCut 3098800).lane .a).cutQueue = [{ cut with target := w 2200000 }] ∧
      ((dueCut 3098800).station .cutA).mode = .ready ∧ toGo .cutA (w 2200000) (dueCut 3098800) = 200 ∧
      toGo .cutA (w 2200000) (dueCut 3098800) * 256000 ≤ ((25600 * 2000 : Nat) : Int)) ∧
      (-toGo .cutA (w 2200000) (dueCut 3099300) ≤ 300 ∧ toGo .cutA (w 2200000) (dueCut 3099300) < 0 ∧
        (dueCut 3099300).seg? .a 0 = some copy ∧ (dueCut 3099300).south.up = true) := by decide +kernel

theorem test_meets_DueHeadIssued_knife :
    ∃ s : State, (s.lane .a).trimQueue = [move] ∧ (s.station .trimA).mode = .ready ∧ s.south.up = true ∧
      toGo .trimA move.target s * 256000 ≤ ((s.tracker.speed * s.setup.horizon : Nat) : Int) :=
  ⟨{ working with laneA := { working.laneA with trimQueue := [move] } }, by decide +kernel⟩

/-- The same heads with the tracker HOLDING and ESTIMATED and the south port DOWN. -/
theorem test_meets_DueHeadIssued_estimated :
    [TrackerMode.holding, .estimated].all (fun m =>
      let s := { dueCut 3098800 with
        tracker := { (dueCut 3098800).tracker with mode := m }, south := { line.south with up := false } }
      decide ((s.lane .a).cutQueue = [{ cut with target := w 2200000 }]) && decide ((s.station .cutA).mode = .ready) &&
        decide (toGo .cutA (w 2200000) s = 200) && decide (s.seg? .a 0 = some copy) && !s.south.up &&
        decide (s.tracker.mode = .estimated ∨ s.tracker.mode = .holding)) = true ∧
      move.owner = some 0 ∧ { working with laneA := { working.laneA with trimQueue := [move] } }.seg? .a 0 = some copy := by
  decide +kernel

/-- An offered ENGAGE that is due, with a window set and no valid temperature. -/
def engaging : State :=
  { lineAt 1197800 working with
    nip :=
      { working.nip with
        plan := [⟨w 1000000, w 1300000⟩],
        offer := some { kind := .engage, target := w 1000000, wanted := w 1000000, corrective := false } }
    lam := { line.lam with record := some { record 4#8 200000 20000 500 with tMin := 800, tMax := 1000 } } }

theorem test_meets_NipTransitionIssued :
    engaging.nip.offer = some { kind := .engage, target := w 1000000, wanted := w 1000000, corrective := false } ∧
      engaging.lam.mode = .ready ∧ OutOfWindow engaging ∧ engaging.south.up = true ∧
      { engaging with south := { line.south with up := false } }.south.up = false ∧
      toGo .lam (w 1000000) engaging * 256000 ≤
        ((engaging.tracker.speed * engaging.setup.horizon : Nat) : Int) := by
  rw [← tempOut_iff]
  decide +kernel

/-- An ENGAGE whose closing point lies 501 pu after its wanted-from point, at a TOL of 500, over a REQUIRED entry there. -/
theorem test_meets_NipTransitionIssued_late :
    ∃ (s : State) (o : Offer) (e : ZoneEntry), s.nip.offer = some o ∧ s.lam.mode = .ready ∧ o.kind = .engage ∧
      toGo .lam o.target s = -501 ∧ (recordOr s.lam).tol = 500 ∧
      ((recordOr s.lam).tol : Int) < sdiff (o.target + pu (-toGo .lam o.target s).toNat) o.wanted ∧ e ∈ s.nip.zones ∧
      e.mode = .required ∧
      precedes (later e.a o.wanted) (earlier e.b (o.target + pu (-toGo .lam o.target s).toNat)) = true ∧
      copy ∈ (s.lane e.lane).segs ∧ copy.id = e.seg :=
  ⟨{ lineAt 1198501 working with
      nip :=
        { working.nip with
          zones := [entry .a 0 .required 1000000 1300000],
          offer := some { kind := .engage, target := w 1000000, wanted := w 1000000, corrective := false } } },
    { kind := .engage, target := w 1000000, wanted := w 1000000, corrective := false },
    entry .a 0 .required 1000000 1300000, by decide +kernel⟩

/-- The stretch that ENGAGE begins, planned and corrective, and a REQUIRED entry of the open copy over it. -/
theorem test_meets_NipTransitionIssued_temp :
    ∃ s : State, s.nip.offer = some { kind := .engage, target := w 1000000, wanted := w 1000000, corrective := false } ∧
      s.lam.mode = .ready ∧ OutOfWindow s ∧
      toGo .lam (w 1000000) s * 256000 ≤ ((s.tracker.speed * s.setup.horizon : Nat) : Int) ∧
      s.nip.plan.find? (fun y => y.a = w 1000000) = some ⟨w 1000000, w 1300000⟩ ∧
      s.nip.plan.find? (fun y => reaches (w 1000000) y.a && precedes (w 1000000) y.b) = some ⟨w 1000000, w 1300000⟩ ∧
      entry .a 0 .required 1000000 1300000 ∈ s.nip.zones ∧
      precedes (later (w 1000000) (w 1000000)) (earlier (w 1300000) (w 1300000)) = true ∧ copy ∈ (s.lane .a).segs ∧
      copy.id = 0 :=
  ⟨{ engaging with nip := { engaging.nip with zones := [entry .a 0 .required 1000000 1300000] } }, by
    rw [← tempOut_iff]
    decide +kernel⟩

/-- A cut beyond its tolerance by 1 pu at a READY and at a BUSY cutter; a cut at its fire point at a FAULTED one; a move at an
OFFLINE trim station. -/
theorem test_meets_HeadLeavesUnsent :
    (((dueCut 3099301).lane .a).cutQueue = [{ cut with target := w 2200000 }] ∧
      ((dueCut 3099301).station .cutA).mode = .ready ∧
      ((recordOr ((dueCut 3099301).station .cutA)).tol : Int) < -toGo .cutA (w 2200000) (dueCut 3099301)) ∧
      ((busyWith .cutA cut (dueCut 3099301)).station .cutA).mode = .busy ∧
      toGo .cutA (w 2200000) (dueCut 3099000) ≤ 0 ∧
      (((dueCut 3099000).modStation .cutA (fun x => { x with mode := .faulted })).station .cutA).mode = .faulted ∧
      ({ line with trimA := StationState.reset }.station .trimA).mode = .offline ∧
      toGo .trimA move.target { line with trimA := StationState.reset } ≤ 0 := by decide +kernel

theorem test_meets_HeadLeavesUnsent_owner :
    cut.owner = some 0 ∧ cut.kind = .cut ∧ OpenUnder 0 ((dueCut 3099301).lane .a) ∧ copy ∈ ((dueCut 3099301).lane .a).segs := by
  refine ⟨rfl, rfl, ?_, by decide⟩
  unfold OpenUnder
  decide

/-- The pending move of the open copy, which watches it, alone at an OFFLINE trim station; and with another action pending. -/
theorem test_meets_HeadLeavesUnsent_knife :
    ∃ s : State, (s.lane .a).trimQueue = move :: [] ∧ (s.station (trimmerOf .a)).mode = .offline ∧
      toGo (trimmerOf .a) move.target s ≤ 0 ∧ move.owner = some 0 ∧ OpenUnder 0 (s.lane .a) ∧
      (s.lane .a).pendingKnife = some move.key ∧ { s.lane .a with pendingKnife := some 9 }.pendingKnife ≠ some move.key ∧
      (s.lane .a).moves = [(0, none)] ∧
      (∃ g ∈ (s.lane .a).segs, g.id = 0 ∧ g.watch.watched = some move.key ∧ g.watch.state ≠ .ended) := by
  refine ⟨{ working with
      trimA := StationState.reset
      laneA :=
        { working.laneA with
          segs := [{ copy with watch := { watched := some 0, state := .waiting, moving := false } }], trimQueue := [move]
          pendingKnife := some 0, moves := [(0, none)], knifePlan := .pair 100 15800 } },
    by decide, by decide, by decide, by decide, ?_, by decide, by decide, by decide, by decide⟩
  unfold OpenUnder
  decide

/-- A copy CLOSED with one action unfinished, and one with two. -/
def lastCopy : Segment := { copy with state := .closed, next := none, unfinished := 1 }

/-- The line with that copy alone on lane A, a lane DRAINING, its cut at the head of the queue and another cut well behind it, its
move alone in the trim queue and watched. -/
def finishing (p : Nat) : State :=
  lineAt p
    { working with
      laneA :=
        { working.laneA with
          mode := .draining, segs := [{ lastCopy with watch := { watched := some 0, state := .waiting, moving := true } }]
          cutQueue := [{ cut with target := w 2200000 }, { cut with target := w 2300000 }], trimQueue := [move]
          pendingKnife := some 0, moves := [(0, none)] } }

/-- The owner of each head, alone under its serial and CLOSED with its last action, the next cut waiting: at a READY, a BUSY, a
FAULTED and an OFFLINE cutter, and its knife action at a FAULTED trim station. -/
theorem test_meets_HeadLeavesUnsent_last :
    (∃ g, AloneUnder g ((finishing 3099301).lane .a) ∧ cut.owner = some g.id ∧ g.state = .closed ∧ g.unfinished ≤ 1) ∧
      NotYetDue .cutA { cut with target := w 2300000 } (finishing 3099301) ∧
      -toGo .cutA (w 2300000) (finishing 3099301) ≤ 300 ∧ 0 < toGo .cutA (w 2300000) (finishing 3099301) ∧
      ((recordOr ((finishing 3099301).station .cutA)).tol : Int) < -toGo .cutA (w 2200000) (finishing 3099301) ∧
      toGo .cutA (w 2200000) (finishing 3099301) ≤ 0 ∧ toGo .trimA move.target (finishing 3099301) ≤ 0 ∧
      ((finishing 3099301).lane .a).trimQueue = move :: [] ∧ move.owner = some 0 := by
  refine ⟨⟨{ lastCopy with watch := { watched := some 0, state := .waiting, moving := true } }, ?_, rfl, rfl, by decide⟩, ?_,
    by decide +kernel⟩
  · unfold AloneUnder; decide +kernel
  · unfold NotYetDue; decide +kernel

/-- With no place free its report waits in the report queue, or is lost at a full one; with two actions left the copy stays. -/
theorem test_meets_HeadLeavesUnsent_report :
    let dark : NorthPort := { line.north with tx := some other, own := List.replicate 8 other }
    let s : State := { finishing 3099301 with north := dark }
    let full : State := { s with mgmt := { s.mgmt with reports := List.replicate 16 (reportOf .a .complete copy) } }
    ownRoom s = 0 ∧ s.mgmt.reports.length < 16 ∧ 16 ≤ full.mgmt.reports.length ∧ (s.jobOf lastCopy).notify = false ∧
      lastCopy.flags ||| defCutMissed ≠ 0#12 ∧ lastCopy.flags = 0#12 ∧ 1 < { lastCopy with unfinished := 2 }.unfinished := by
  decide +kernel

/-- Its report and its retirement: the skipped cut of the last copy of a DRAINING lane. -/
theorem test_cutSkipped_retires :
    (after (.cutSkipped .a) (finishing 3099301)).laneA.segs = [] ∧
      (after (.cutSkipped .a) (finishing 3099301)).laneA.mode = .disabled := by decide +kernel

/-- A cutter BUSY with the only cut of the open copy. -/
def cutting : State := busyWith .cutA cut { working with laneA := { working.laneA with cutQueue := [] } }

theorem test_meets_DoneFreesStation :
    senderOf 7#8 cutting = some .cutA ∧ (cutting.station .cutA).mode = .busy ∧
      (cutting.station .cutA).outstanding = some { act := cut, id := 41#16, orphan := false, timeout := 500 } ∧
      (∀ l a, Station.cutA = cutterOf l → (cutting.lane l).cutQueue.head? = some a → NotYetDue .cutA a cutting) ∧
      (∀ l a, Station.cutA = trimmerOf l → (cutting.lane l).trimQueue.head? = some a → NotYetDue .cutA a cutting) ∧
      OpenUnder 0 (cutting.lane .a) ∧ AloneUnder copy (cutting.lane .a) := by
  refine ⟨by decide, by decide, by decide, ?_, ?_, ?_, ?_⟩
  · intro l a e h; cases l <;> cases e; cases h
  · intro l a e h; cases l <;> cases e
  · unfold OpenUnder; decide
  · unfold AloneUnder; decide

/-- A BUSY cutter and a BUSY trim station, each with the last action of a CLOSED copy, a head in the queue of each: at 3,098,000 the
cut is not yet due, at 3,098,800 it is; the move is due. -/
theorem test_meets_DoneFreesStation_next :
    let s : Nat → State := fun p => busyWith .cutA cut (busyWith .trimA move (finishing p))
    let head : Action := { cut with target := w 2200000 }
    senderOf 7#8 (s 0) = some .cutA ∧ senderOf 5#8 (s 0) = some .trimA ∧
      ((s 3098000).lane .a).cutQueue.head? = some head ∧ NotYetDue .cutA head (s 3098000) ∧
      toGo .cutA (w 2200000) (s 3098800) * 256000 ≤ (((s 3098800).tracker.speed * (s 3098800).setup.horizon : Nat) : Int) ∧
      -toGo .cutA (w 2200000) (s 3098800) ≤ ((recordOr ((s 3098800).station .cutA)).tol : Int) ∧ cut.kind = .cut ∧
      ((s 3098800).lane .a).trimQueue = move :: [] ∧
      toGo .trimA move.target (s 3098800) * 256000 ≤ (((s 3098800).tracker.speed * (s 3098800).setup.horizon : Nat) : Int) ∧
      lastCopy.state = .closed ∧ lastCopy.unfinished ≤ 1 ∧ copy.state = .opened ∧
      AloneUnder { lastCopy with watch := { watched := some 0, state := .waiting, moving := true } } ((s 0).lane .a) := by
  refine ⟨by decide +kernel, by decide +kernel, by decide +kernel, ?_, by decide +kernel, by decide +kernel, rfl, by decide +kernel,
    by decide +kernel, rfl, by decide, rfl, ?_⟩
  · unfold NotYetDue; decide +kernel
  · unfold AloneUnder; decide +kernel

/-- The station takes its next head in the event of the DONE. -/
theorem test_actDone_takesNext :
    ((after (.actDone 7#8 41#16) (busyWith .cutA cut (finishing 3098800))).cutA.outstanding.map (fun i => i.act.target)) =
      some (w 2200000) := by decide +kernel

/-- LAM BUSY with its last issued transition, nothing offered. -/
theorem test_meets_DoneFreesStation_lam :
    ∃ s : State, senderOf 4#8 s = some .lam ∧ (s.station .lam).mode = .busy ∧
      (s.station .lam).outstanding =
        some { act := { cut with kind := .release, owner := none }, id := 41#16, orphan := false, timeout := 500 } ∧
      s.nip.offer = none ∧
      s.nip.last = some { kind := .release, target := w 0, id := 41#16, outcome := .pending } :=
  ⟨busyWith .lam { cut with kind := .release, owner := none }
    { line with
      nip := { line.nip with last := some { kind := .release, target := w 0, id := 41#16, outcome := .pending } } },
    by decide⟩

/-- LAM BUSY with an offer that is due, and with one that is not yet. -/
theorem test_meets_DoneFreesStation_offer :
    let s : State := busyWith .lam { cut with kind := .release, owner := none } engaging
    let o : Offer := { kind := .engage, target := w 1000000, wanted := w 1000000, corrective := false }
    senderOf 4#8 s = some .lam ∧ s.lam.mode = .busy ∧ s.lam.outstanding.map (fun i => i.id) = some 41#16 ∧
      s.nip.offer = some o ∧ toGo .lam o.target s * 256000 ≤ ((s.tracker.speed * s.setup.horizon : Nat) : Int) ∧
      ((s.tracker.speed * s.setup.horizon : Nat) : Int) < toGo .lam o.target (lineAt 1197799 s) * 256000 := by
  decide +kernel

theorem test_meets_FailureFaultsStation :
    (cutting.station .cutA).outstanding = some { act := cut, id := 41#16, orphan := false, timeout := 500 } ∧
      senderOf 7#8 cutting = some .cutA ∧ (cutting.station .cutA).mode = .busy ∧ laneOf .cutA = some .a ∧
      cut.owner = some 0 ∧ OpenUnder 0 (cutting.lane .a) ∧ copy ∈ (cutting.lane .a).segs ∧
      1 < (500 : Nat) ∧ ((waiting 1).station .cutA).outstanding.map (fun i => i.timeout) = some 1 := by
  refine ⟨by decide, by decide, by decide, rfl, rfl, ?_, by decide, by decide, by decide⟩
  unfold OpenUnder
  decide

/-- The last action of a CLOSED copy at a BUSY cutter and a BUSY trim station, the queued heads short of their fire points; and LAM
BUSY with its last issued transition, and with another. -/
theorem test_meets_FailureFaultsStation_last :
    let s : State := busyWith .cutA cut (busyWith .trimA move (finishing 3098000))
    let away : State := { s with laneA := { s.laneA with trimQueue := [{ move with target := w 2700000 }] } }
    0 < toGo .cutA (w 2200000) away ∧ 0 < toGo .trimA (w 2700000) away ∧
      AloneUnder { lastCopy with watch := { watched := some 0, state := .waiting, moving := true } } (away.lane .a) ∧
      cut.owner = some lastCopy.id ∧ move.owner = some lastCopy.id ∧
      ∃ u : State, senderOf 4#8 u = some .lam ∧ (u.station .lam).outstanding.map (fun i => i.id) = some 41#16 ∧
        u.nip.last.map (fun x => x.id) = some 41#16 ∧ u.nip.commanded = .opened := by
  refine ⟨by decide +kernel, by decide +kernel, ?_, rfl, rfl,
    busyWith .lam { cut with kind := .release, owner := none }
      { line with
        nip := { line.nip with last := some { kind := .release, target := w 0, id := 41#16, outcome := .pending } } },
    by decide⟩
  unfold AloneUnder
  decide +kernel

/-- A trim station BUSY with the pending move of the open copy, which watches it; nothing else queued there. -/
def moving : State :=
  busyWith .trimA move
    { working with
      laneA :=
        { working.laneA with
          segs := [{ copy with watch := { watched := some 0, state := .waiting, moving := true } }], pendingKnife := some 0
          moves := [(0, none)], knifePlan := .pair 100 15800 } }

theorem test_meets_FailureFaultsStation_knife :
    (moving.station .trimA).outstanding = some { act := move, id := 41#16, orphan := false, timeout := 500 } ∧
      senderOf 5#8 moving = some .trimA ∧ (moving.station .trimA).mode = .busy ∧ Station.trimA = trimmerOf .a ∧
      (moving.lane .a).trimQueue = [] ∧ (moving.lane .a).pendingKnife = some move.key ∧
      (∃ g ∈ (moving.lane .a).segs, g.watch.watched = some move.key ∧ g.watch.state ≠ .ended) := by decide

/-- The open copy's watch on that move, WAITING and SHORT. -/
theorem test_meets_DoneFreesStation_watch :
    OpenUnder 0 (moving.lane .a) ∧
      { watched := some move.key, state := .waiting, moving := true } ∈ (moving.lane .a).segs.map (fun g => g.watch) ∧
      ({ watched := some move.key, state := .short, moving := true } : Watch).state = .short := by
  refine ⟨?_, by decide, by decide⟩
  unfold OpenUnder
  decide

theorem test_meets_DoneFreesStation_knife :
    (∀ l a, Station.trimA = cutterOf l → (moving.lane l).cutQueue.head? = some a → NotYetDue .trimA a moving) ∧
      (∀ l a, Station.trimA = trimmerOf l → (moving.lane l).trimQueue.head? = some a → NotYetDue .trimA a moving) ∧
      move.kind ≠ .cut := by
  refine ⟨?_, ?_, by decide⟩ <;> (intro l a e h; cases l <;> cases e)
  cases h

theorem test_meets_StaleReplyCounted :
    senderOf 7#8 line = some .cutA ∧ ¬(line.station .cutA).mode = .busy ∧ senderOf 7#8 cutting = some .cutA ∧
      (cutting.station .cutA).outstanding.map (fun i => i.id) ≠ some 40#16 := by decide

theorem test_meets_PlanByPolicyAndBridge :
    ∃ r f : ZoneEntry, r.mode = .required ∧ f.mode = .forbidden ∧ 1 + 1 + 2147483645 < 2147483648 ∧ f.a = r.a + pu 1 ∧
      f.b = r.a + pu (1 + 1) ∧ r.b = r.a + pu (1 + 1 + 2147483645) :=
  ⟨entry .a 1 .required 4294967290 2147483641, entry .b 2 .forbidden 4294967291 4294967292, by decide⟩

/-- Section 6.2's entries, the FORBIDDEN one astride an end of the other lane's REQUIRED one, and beside them overlapping REQUIRED
entries with a short opening after them. -/
def mixedZones : List ZoneEntry :=
  [entry .a 1 .required 1000000 1300000, entry .b 2 .required 1310000 1500000, entry .a 3 .forbidden 1305000 1312000,
    entry .b 4 .required 900000 1100000, entry .b 5 .required 1510000 1600000]

/-- Zone lists ahead of a position, one of them across the wrap of the coordinate. -/
theorem test_meets_PlanByPolicyAndBridge_zones :
    ZonesAhead (w 900000) mixedZones ∧
      ZonesAhead (w 4294967290) [entry .a 1 .required 4294967290 5, entry .b 2 .forbidden 3 2147483641] := by
  unfold ZonesAhead
  decide

/-- Section 6.2's openings beside its conflict, with the opening of 10,000 pu at 1,500,000 bridged under either policy. -/
theorem test_plan_mixed :
    planOf false .forbidWins 15000 mixedZones = [⟨w 900000, w 1300000⟩, ⟨w 1312000, w 1600000⟩] ∧
      planOf false .requireWins 15000 mixedZones = [⟨w 900000, w 1300000⟩, ⟨w 1310000, w 1600000⟩] ∧
      (losers false .forbidWins mixedZones).map (fun e => e.seg) = [2] ∧
      (losers false .requireWins mixedZones).map (fun e => e.seg) = [3] ∧ hasConflict false mixedZones = true := by decide

/-- Openings of 14,999 and of 15,000 pu at a BRIDGE of 15,000, with a FORBIDDEN interval that fills the opening. -/
theorem test_meets_PlanByPolicyAndBridge_opening :
    [14999, 15000].all (fun v =>
      let r := entry .a 1 .required 1000000 1300000
      let q := entry .b 2 .required (1300000 + v) 1500000
      let f := entry .a 3 .forbidden 1300000 (1300000 + v)
      decide (r.b = r.a + pu 300000) && decide (q.a = r.a + pu (300000 + v)) &&
        decide (q.b = r.a + pu (300000 + v + (200000 - v))) && decide (f.a = r.a + pu (300000 + 0)) &&
        decide (f.b = r.a + pu (300000 + 0 + v))) = true := by decide

/-- A line about to start lane A with its LAM FAULTED and the nip in this state, a REQUIRED entry ahead of or under the nip. -/
def offering (n : NipState) (a : Nat) : State :=
  { line with
    laneA := { line.laneA with mode := .disabled }, lam := { line.lam with mode := .faulted },
    nip := { line.nip with commanded := n, decided := some (w 0), zones := [entry .b 1 .required a 1500000] } }

/-- The plan wants the nip closed from the planning origin 800,000 on, and 1 pu after it. -/
theorem test_meets_NipOfferFollowsPlan :
    [NipState.opened, .closed].all (fun n => [800000, 800001].all (fun a =>
      decide (0 < ownRoom (offering n a)) && decide (((offering n a).lane .a).mode = .disabled) &&
        startAllowed .a (offering n a) && decide ((offering n a).lam.mode ≠ .ready) &&
        decide ((offering n a).nip.commanded ≠ .unknown) &&
        decide (((planOf (banned (offering n a).web) (offering n a).setup.policy (offering n a).setup.bridge
          (offering n a).nip.zones).find? (fun x =>
            (decide (x.a = w 800000) || precedes x.a (w 800000)) && precedes (w 800000) x.b)).isSome = decide (a = 800000)))) =
      true := by decide +kernel

/-- The offers R134's table gives there. -/
theorem test_nip_offers :
    [(NipState.opened, 800000), (.opened, 800001), (.closed, 800000), (.closed, 800001)].map (fun x =>
        (after (.laneStart 1#8 [0#8]) (offering x.1 x.2)).nip.offer.map (fun o => (o.kind, o.target, o.corrective))) =
      [some (.engage, w 800000, true), some (.engage, w 800001, false), some (.release, w 1500000, false),
        some (.release, w 800000, true)] := by decide +kernel

/-- A conflict at a LANE START, under either policy: the owner on lane B of the entry that loses is flagged. -/
theorem test_meets_NipOfferFollowsPlan_conflict :
    [Policy.forbidWins, .requireWins].map (fun po =>
        let s := offering .opened 800000
        let t := after (.laneStart 1#8 [0#8])
          { s with
            laneB := { s.laneB with segs := [{ copy with id := 1 }, { copy with id := 2 }] }
            setup := { s.setup with policy := po }
            nip := { s.nip with zones := s.nip.zones ++ [entry .b 2 .forbidden 900000 1000000] } }
        (t.laneB.segs.map (fun g => g.flags), attnHas t.mgmt.flags prioLamConflict)) =
      [([defLamShort, 0#12], true), ([0#12, defLamSpoiled], true)] := by decide +kernel

theorem test_meets_StatusAndValidityTaken :
    line.lam.configured = true ∧ (recordOr line.lam).addr = 4#8 ∧ (recordOr line.lam).addr ≠ 5#8 ∧
      State.reset.lam.configured = false ∧ (timed 1).nip.validity = some 1 ∧ (timed 2).nip.validity = some 2 ∧
      State.reset.nip.validity = none ∧ (recordOr line.lam).table.Pairwise (fun a b => a.1 < b.1) := by decide

/-- A CLOSED nip with a window set, a temperature below it, and λ at either end of the open copy's REQUIRED entry. -/
theorem test_meets_StatusAndValidityTaken_flagged :
    [1200000, 2400000].all (fun p =>
      let s := { lineAt p laminating with
        lam := { line.lam with record := some { record 4#8 200000 20000 500 with tMin := 800, tMax := 1000 } }
        nip := { laminating.nip with validity := some 1, tempValid := true } }
      let lam := s.tracker.p - pu (recordOr s.lam).dist
      s.lam.configured && decide ((recordOr s.lam).addr = 4#8) && decide (s.nip.commanded = .closed) &&
        decide (0 < (recordOr s.lam).tMin) && decide (convertTemp (recordOr s.lam).table 0 < (recordOr s.lam).tMin) &&
        decide (s.nip.validity = some 1) &&
        s.nip.zones.any (fun e => decide (e.mode = .required) && reaches lam e.a && reaches e.b lam &&
          (s.lane e.lane).segs.any (fun g => decide (g.id = e.seg)))) = true ∧ line.nip.commanded ≠ .closed := by
  decide +kernel

/-- A CLOSED copy with nothing left, a full own queue, and a report queue that is empty or full. -/
def retiring (n : Nat) : State :=
  { line with
    laneA := { line.laneA with segs := [{ closedCopy with flags := defCutLate }] }, nextSeg := 1,
    north := { line.north with tx := some other, own := List.replicate 8 other },
    mgmt := { line.mgmt with reports := List.replicate n (reportOf .a .complete copy) } }

theorem test_meets_SegmentRetires :
    ((retiring 15).lane .a).segs[0]? = some { closedCopy with flags := defCutLate } ∧
      { closedCopy with flags := defCutLate }.state = .closed ∧ closedCopy.unfinished = 0 ∧
      { closedCopy with flags := defCutLate }.flags ≠ 0#12 ∧ (retiring 15).mgmt.reports.length < 16 ∧
      ownRoom (retiring 15) = 0 ∧ 16 ≤ (retiring 16).mgmt.reports.length ∧
      ((retiring 15).jobOf closedCopy).notify = false ∧ closedCopy.flags = 0#12 ∧
      { (retiring 15).laneA with mode := .draining }.mode = .draining ∧
      (∀ h ∈ ((retiring 15).lane .a).segs, h.id = closedCopy.id) := by decide +kernel

theorem test_meets_LanesDrainAndStop :
    { line.laneA with mode := .draining }.mode = .draining ∧ { line.laneA with mode := .draining }.segs = [] ∧
      0 < ownRoom line ∧ (line.lane .a).mode = .running ∧ (State.reset.lane .a).mode = .disabled ∧ ownRoom laminating = 1 ∧
      (laminating.lane .a).segs = [copy] ∧ (laminating.lane .a).segs.length + laminating.mgmt.reports.length ≤ 16 ∧
      (laminating.lane .a).trimQueue = [] ∧ ((laminating.lane .a).segs.map (fun g => g.id)).Nodup := by decide

/-- Every zone entry of the stopped lane, the nip CLOSED, with LAM READY and FAULTED; and the lane codes 2 and 255. -/
theorem test_meets_LanesDrainAndStop_release :
    laminating.nip.zones ≠ [] ∧ (∀ e ∈ laminating.nip.zones, e.lane = .a ∧ inMap (laminating.lane .a) e.seg = true) ∧
      laminating.nip.commanded = .closed ∧ laminating.lam.mode = .ready ∧ laminating.tracker.speed ≤ 256000 ∧
      (recordOr laminating.lam).latency ≤ 200000 ∧ { laminating.lam with mode := .faulted }.mode ≠ .ready ∧
      2 ≤ (2#8).toNat ∧ 2 ≤ (255#8).toNat := by decide

/-- Watches in each state, with λ_t at the region's start and before it. -/
theorem test_meets_TrimShortMeasured :
    ∃ (s : State) (g : Segment), (s.lane .a).segs[0]? = some g ∧ g.watch.state = .waiting ∧
      reaches (s.tracker.p - pu (recordOr (s.station .trimA)).dist) (g.coord ((s.jobOf g).cuts.headD 0)) = true ∧
      reaches ((lineAt 1499999 s).tracker.p - pu (recordOr (s.station .trimA)).dist)
        (g.coord ((s.jobOf g).cuts.headD 0)) = false :=
  ⟨lineAt 1500000
      { working with
        laneA :=
          { working.laneA with segs := [{ copy with watch := { watched := some 0, state := .waiting, moving := true } }] } },
    { copy with watch := { watched := some 0, state := .waiting, moving := true } }, by decide +kernel⟩

theorem test_meets_AttnAndReportQueued :
    ∃ s : State, s.mgmt.pendingAttn = true ∧ s.mgmt.flags &&& s.mgmt.mask ≠ 0#14 ∧ ownRoom s = 2 ∧
      (∀ f ∈ s.north.own, f.kind ≠ 0x42#8) ∧ s.mgmt.reports = [reportOf .a .complete copy] :=
  ⟨{ line with
      north := { line.north with tx := some other, own := List.replicate 6 other },
      mgmt :=
        { line.mgmt with
          pendingAttn := true, flags := attnBit prioWebBreak, reports := [reportOf .a .complete copy] } },
    by decide +kernel⟩

/-- An unreadable cue raises CUE_REFUSED, in the mask; with the flag set already nothing rises. -/
theorem test_meets_MarkerRisesWithMaskedFlag :
    PortsAgree line ∧ ∃ t u, exec (.markConversion .a .cue 0#8 (w 5000)) line = .next t ∧
      attnHas line.mgmt.flags prioCueRefused = false ∧ attnHas t.mgmt.flags prioCueRefused = true ∧
      attnHas t.mgmt.mask prioCueRefused = true ∧
      exec (.markConversion .a .cue 0#8 (w 5000)) { line with mgmt := { line.mgmt with flags := attnBit prioCueRefused } } =
        .next u ∧ u.mgmt.flags = attnBit prioCueRefused ∧ line.mgmt.pendingAttn = false :=
  ⟨⟨by decide, by decide, by decide, by decide⟩, _, _, rfl, by decide, by decide +kernel, by decide +kernel, rfl,
    by decide +kernel, by decide⟩

/-! ### Requests -/

/-- A WRITE JOB body: mode, tag, then the job of the examples with no zones and no trim (section 9.2). -/
def jobBody (mode tag : Nat) : List Byte :=
  be8 mode ++ be8 tag ++ be8 2 ++ be16 5 ++ be32 1200000 ++ be8 1 ++ be8 3 ++ be32 0 ++ be32 600000 ++ be32 1200000 ++
    List.replicate 20 0#8 ++ be8 0 ++ List.replicate 36 0#8 ++ be8 0 ++ be16 0 ++ be16 0 ++ be8 1 ++ be32 600000 ++
    List.replicate 56 0#8 ++ be8 0

theorem test_meets_JobWritePlaced :
    0 < ownRoom line ∧ (jobBody 1 17).length = 147 ∧ (∀ n, JobFieldHolds (jobBody 1 17) n) ∧
      FailsFirst (JobFieldHolds (jobBody 4 17)) 0 ∧ FailsFirst (JobFieldHolds ((jobBody 1 17).set 146 2#8)) 10 ∧
      line.holding (bodyJob (jobBody 1 17)).tag = some 0 ∧ line.holding (bodyJob (jobBody 1 30)).tag = none ∧
      emptyFrom 0 line.jobs = some 1 ∧ inUseAt 0 line = 0 ∧ 0 < inUseAt 0 second :=
  ⟨by decide +kernel, by decide +kernel, (jobChecks_fields _).1.mp (by decide +kernel),
    ((jobChecks_fields _).2 0).mp (by decide +kernel), ((jobChecks_fields _).2 10).mp (by decide +kernel), by decide +kernel⟩

theorem test_meets_JobWritePlaced_full :
    emptyFrom 0 { line with jobs := List.replicate 64 (some (freshRecord job)) }.jobs = none := by decide +kernel

theorem test_writeJob_creates :
    ((after (.writeJob 9#8 (jobBody 1 30)) line).slot 1).map (fun r => r.remaining) = some 5 := by decide +kernel

theorem test_meets_JobDeleted :
    0 < ownRoom line ∧ line.holding 30#8 = none ∧ line.holding 17#8 = some 0 ∧ inUseAt 0 line = 0 ∧
      second.holding 17#8 = some 0 ∧ 0 < inUseAt 0 second := by decide +kernel

theorem test_meets_JobRead :
    0 < ownRoom line ∧ line.holding 17#8 = some 0 ∧ line.slot 0 = some (freshRecord job) ∧
      (freshRecord job).defn.cuts.length ≤ 8 ∧ (freshRecord job).defn.zones.length ≤ 4 ∧
      (freshRecord job).defn.pitches.length ≤ 15 := by decide +kernel

/-- The job of the examples fits, and so does one at the end of every field. -/
theorem test_meets_JobRead_fits :
    JobFits (freshRecord job).defn ∧
      JobFits
        { tag := 255#8, lane := .b, copies := 65535, lNom := 4294967295, tail := false, cuts := List.replicate 8 4294967295
          zones := List.replicate 4 { x1 := 4294967295, x2 := 4294967295, mode := .forbidden }, trim := some (65535, 65535)
          pitches := List.replicate 15 4294967295, notify := true } := by
  refine ⟨⟨by decide, by decide, by decide, by decide, by decide, ?_, by decide⟩,
    ⟨by decide, by decide, by decide, by decide, by decide, ?_, by decide⟩⟩ <;>
    (intro n f h; cases h; decide)

/-- A WRITE STATION body with no table: code, enabled, address, distance (section 9.2). -/
def stationBody (code addr dist : Nat) : List Byte :=
  be8 code ++ be8 1 ++ be8 addr ++ be32 dist ++ be32 10000 ++ be16 300 ++ be16 500 ++ be16 4000 ++ be16 150 ++
    List.replicate 27 0#8

theorem test_meets_StationWrittenAndCleared :
    0 < ownRoom line ∧ (stationBody 4 8 900000).length = 46 ∧ 5 ≤ byteAt (stationBody 5 8 0) 0 ∧
      byteAt (stationBody 4 8 900000) 0 = 4 ∧ (∀ n, StationFieldHolds .cutB (stationBody 4 8 900000) line n) ∧
      FailsFirst (StationFieldHolds .cutB (stationBody 4 7 900000) line) 2 ∧
      (line.station .cutB).outstanding = none ∧ queueBusy .cutB line = false ∧ queueBusy .cutA working = true :=
  ⟨by decide, by decide, by decide, by decide, (stationChecks_fields _ _ _).1.mp (by decide +kernel),
    ((stationChecks_fields _ _ _).2 2).mp (by decide +kernel), by decide⟩

/-- A WRITE STATION body of LAM with section 6.4's table and no window: enabled or not. -/
def lamBody (enabled : Nat) : List Byte :=
  be8 0 ++ be8 enabled ++ be8 4 ++ be32 200000 ++ be32 20000 ++ be16 500 ++ be16 500 ++
    [(20, 200), (60, 450), (100, 700), (140, 950), (170, 1150), (200, 1400), (220, 1600), (240, 1800), (255, 1950)].flatMap
      (fun x => be8 x.1 ++ be16 x.2) ++ be16 0 ++ be16 0

/-- WRITE STATION of LAM: disabled; at a FAULTED one; with the nip OPEN, CLOSED, and UNKNOWN without and with a request. -/
theorem test_meets_StationWrittenAndCleared_lam :
    (∀ n, StationFieldHolds .lam (lamBody 1) line n) ∧ (∀ n, StationFieldHolds .lam (lamBody 0) line n) ∧
    byteAt (lamBody 1) 0 = 0 ∧ (lamBody 0).length = 46 ∧ (lamBody 1).length = 46 ∧
      [line, { line with lam := { line.lam with mode := .faulted } }, { line with nip := { line.nip with commanded := .closed } },
          { line with nip := Nip.reset }, { line with nip := { Nip.reset with releaseRequest := true } }].all (fun s =>
        decide (0 < ownRoom s) && (firstFailing (stationChecks .lam (lamBody 1) s)).isNone &&
          (firstFailing (stationChecks .lam (lamBody 0) s)).isNone &&
          decide ((s.station .lam).outstanding = none) && !queueBusy .lam s && decide (s.tracker.speed ≤ 256000)) = true ∧
      byteAt (lamBody 0) 1 ≠ 1 ∧ byteAt (lamBody 1) 1 = 1 ∧
      line.lam.mode ≠ .faulted ∧ line.nip.commanded = .opened ∧ Nip.reset.commanded = .unknown ∧
      Nip.reset.releaseRequest = false :=
  ⟨(stationChecks_fields _ _ _).1.mp (by decide +kernel), (stationChecks_fields _ _ _).1.mp (by decide +kernel),
    by decide +kernel⟩

/-- The corrective RELEASE of R134 that follows. -/
theorem test_writeStation_releases :
    (after (.writeStation 9#8 (lamBody 1)) { line with nip := { line.nip with commanded := .closed } }).lam.mode =
      .busy := by decide +kernel

theorem test_meets_LaneWritten :
    0 < ownRoom line ∧ ([0#8, 0#8, 0#8, 0x3E#8, 0x80#8, 0x07#8, 0xD0#8, 4#8] : List Byte).length = 8 ∧
      firstFailing (laneChecks [0#8, 0#8, 0#8, 0x3E#8, 0x80#8, 0x07#8, 0xD0#8, 4#8]) = none := by decide

/-- A WRITE LINE body of the defaults (section 9.2, R211). -/
def lineBody (ts : Nat) : List Byte :=
  be32 655360 ++ be16 2000 ++ be8 ts ++ be32 50000 ++ be16 2000 ++ be32 15000 ++ be8 1 ++ be32 5000 ++ be32 0 ++
    List.replicate 8 0#8

theorem test_meets_LineWritten :
    0 < ownRoom State.reset ∧ (lineBody 5).length = 34 ∧ (∀ n, LineFieldHolds (lineBody 5) n) ∧
      FailsFirst (LineFieldHolds (lineBody 0)) 3 ∧ State.reset.laneA.mode = .disabled ∧
      State.reset.laneB.mode = .disabled ∧ line.laneA.mode ≠ .disabled :=
  ⟨by decide, by decide, (lineChecks_fields _).1.mp (by decide +kernel), ((lineChecks_fields _).2 3).mp (by decide +kernel),
    by decide⟩

/-- A line about to start lane A, the nip UNKNOWN. -/
def starting : State := { line with laneA := { line.laneA with mode := .disabled }, nip := Nip.reset }

theorem test_meets_LaneStarted :
    0 < ownRoom starting ∧ (starting.lane .a).mode = .disabled ∧ starting.nodeAddr ≠ 0#8 ∧
      (starting.station .cutA).configured = true ∧ (recordOr starting.lam).dist < (recordOr starting.trimA).dist ∧
      (recordOr starting.trimA).dist < (recordOr starting.cutA).dist ∧ starting.tracker.mode ≠ .lost ∧
      starting.nip.commanded = .unknown ∧ starting.lam.mode = .ready ∧ starting.tracker.speed ≤ 256000 ∧
      (recordOr starting.lam).latency ≤ 200000 ∧ (line.lane .a).mode = .running ∧ 2 ≤ (2#8).toNat ∧
      2 ≤ (255#8).toNat := by decide

theorem test_laneStart_releases :
    (after (.laneStart 1#8 [0#8]) starting).laneA.mode = .running ∧
      (after (.laneStart 1#8 [0#8]) starting).nip.commanded = .opened := by decide +kernel

theorem test_meets_StationWrittenAndCleared_clear :
    ∃ s : State, 0 < ownRoom s ∧ 5 ≤ (5#8).toNat ∧ (3#8).toNat = 3 ∧
      (s.station .cutA).mode = .faulted ∧ (line.station .cutA).mode ≠ .faulted ∧
      (∀ l, Station.cutA = cutterOf l → (s.lane l).cutQueue = []) ∧
      (∀ l, Station.cutA = trimmerOf l → (s.lane l).trimQueue = []) := by
  refine ⟨line.modStation .cutA (fun x => { x with mode := .faulted }), by decide, by decide, by decide, by decide,
    by decide, ?_, ?_⟩ <;> (intro l; cases l <;> decide)

/-- A station of the line FAULTED, at a position. -/
def faultedAt (st : Station) (p : Nat) (s : State) : State := lineAt p (s.modStation st (fun x => { x with mode := .faulted }))

/-- The line with a knife move queued. -/
def knifeQueued : State := { line with laneA := { line.laneA with trimQueue := [move] } }

/-- The line with an ENGAGE at 800,000 offered. -/
def offered : State :=
  { line with
    nip :=
      { line.nip with
        zones := [entry .b 1 .required 800000 1500000]
        plan := [⟨w 800000, w 1500000⟩]
        offer := some { kind := .engage, target := w 800000, wanted := w 800000, corrective := false } } }

/-- R105 and R106 at the ends: a cut at 100,000 with 900,000 to the cutter, 1,000 of lead and 200 of horizon is due from 998,800 on
and late beyond its tolerance of 300 after 999,300; a move due from 999,000 on, an offer from 997,800 on. -/
theorem test_meets_StationWrittenAndCleared_due :
    let due := fun (st : Station) (target : Word32) (s : State) =>
      decide (toGo st target s * 256000 ≤ ((s.tracker.speed * s.setup.horizon : Nat) : Int))
    ([Station.cutA, .trimA, .lam].all (fun st => decide (0 < ownRoom line) && decide (((faultedAt st 0 line).station st).mode = .faulted))) =
        true ∧
      [998799, 998800, 999300, 999301].map (fun p =>
          let s := faultedAt .cutA p working
          (due .cutA cut.target s, decide (-toGo .cutA cut.target s ≤ ((recordOr (s.station .cutA)).tol : Int)))) =
        [(false, true), (true, true), (true, true), (true, false)] ∧
      [998999, 999000].map (fun p => due .trimA move.target (faultedAt .trimA p knifeQueued)) = [false, true] ∧
      [997799, 997800].map (fun p => due .lam (w 800000) (faultedAt .lam p offered)) = [false, true] := by decide +kernel

/-- R103 and R120: what CLEAR STATION leaves there. -/
theorem test_clearStation_tests :
    [998799, 998800, 999300, 999301].map (fun p =>
        let t := after (.clearStation 3#8 [3#8]) (faultedAt .cutA p working)
        ((t.station .cutA).mode, (t.lane .a).cutQueue.length, attnHas t.mgmt.flags prioCutMissed)) =
      [(.ready, 1, false), (.busy, 0, false), (.busy, 0, false), (.ready, 0, true)] ∧
    [998999, 999000].map (fun p =>
        let t := after (.clearStation 3#8 [1#8]) (faultedAt .trimA p knifeQueued)
        ((t.station .trimA).mode, (t.lane .a).trimQueue.length)) = [(.ready, 1), (.busy, 0)] ∧
    [997799, 997800].map (fun p =>
        let t := after (.clearStation 3#8 [0#8]) (faultedAt .lam p offered)
        (t.lam.mode, t.nip.commanded)) = [(.ready, .opened), (.busy, .closed)] := by decide +kernel

theorem test_meets_LossCleared :
    0 < ownRoom line ∧ line.tracker.mode ≠ .lost ∧ { tracker with mode := .lost }.mode = .lost := by decide

theorem test_meets_SyntheticMarkTaken :
    0 < ownRoom line ∧ ([1#8, 3#8, 0#8, 1#8, 0#8, 0#8, 0#8, 0#8] : List Byte).length = 8 ∧
      1 < byteAt [2#8] 0 ∧ byteAt [1#8, 4#8] 0 ≤ 1 ∧ 3 < byteAt [1#8, 4#8] 1 ∧ byteAt [1#8, 3#8, 0#8, 1#8] 3 ≤ 1 ∧
      1 < byteAt [1#8, 3#8, 0#8, 2#8] 3 ∧ State.reset.laneA.mode = .disabled := by decide

/-- Each way a synthetic mark is taken: DRAINING, unreadable, nothing open, registering, a PITCH 2,000 pu off; and a detected mark
of the same position. -/
theorem test_meets_SyntheticMarkTaken_lane :
    { line.laneA with mode := .draining }.mode = .draining ∧ (line.lane .a).mode = .running ∧
      openSeg (line.lane .a) = none ∧ (line.lane .a).segs = [] ∧ line.holding 17#8 = some 0 ∧
      line.slot 0 = some (freshRecord job) ∧ laneAdmits job.lane .a = true ∧ (freshRecord job).state = .loaded ∧
      roomFor .a job line ∧ (working.lane .a).segs = [] ++ [copy] ∧ copy.state = .opened ∧
      copy.next = some (.pitch 0) ∧
      (sdiff (w 1602000) (copy.coord (markOffset (working.jobOf copy) (.pitch 0)))).natAbs ≤
        (working.lane .a).record.markTol ∧
      BitVec.ofNat 32 (field32 (be32 0 ++ be32 1602000) 4) = w 1602000 ∧ line.tracker.mode ≠ .noDatum ∧
      line.tracker.mode ≠ .lost ∧ line.tracker.debt = 0 ∧ line.tracker.reference = some { count := w 5000, stamp := w 0 } ∧
      (sdiff (w 5000) (w 65200)).natAbs ≤ 65535 ∧
      markPos line.tracker.pEnc (sdiff (w 5000) (w 65200)) line.setup.k = w 1602000 := by
  unfold roomFor
  decide +kernel

theorem test_meets_StatusAndMapRead :
    0 < ownRoom line ∧ 2 ≤ (2#8).toNat ∧ (1#8).toNat ≤ 1 ∧ 16 ≤ (16#8).toNat ∧ (15#8).toNat ≤ 15 := by decide

theorem test_meets_FlagsMaskAndCountersSet : 0 < ownRoom line ∧ EndOfEvent line (finish line) :=
  ⟨by decide, endOfEvent_finish _⟩

/-- The states of the first and the last flag source and of each live condition, with the source's number. -/
def sources : List (Nat × State) :=
  [(1, { line with mgmt := { line.mgmt with flags := 0x0001#14 } }),
    (14, { line with mgmt := { line.mgmt with flags := 0x2000#14 } }),
    (15, { line with tracker := { tracker with mode := .lost } }),
    (16, { line with tracker := { tracker with mode := .estimated } }),
    (16, { line with tracker := { tracker with mode := .holding } }),
    (17, { line with cutB := { line.cutB with mode := .faulted } }),
    (18, { line with lam := { line.lam with record := some { record 4#8 200000 20000 500 with tMin := 800, tMax := 1000 } } })]

/-- Each source drives the line that selects it alone, in both modes that drive one, and no line that selects all the others; a
DISABLED line stays at high impedance (R175, R176). -/
theorem test_stopLine_levels :
    sources.all (fun x =>
      let own : BitVec 24 := 1#24 <<< (x.1 - 1)
      decide (stopLevel .openDrain own x.2 = .low) && decide (stopLevel .pushPull own x.2 = .low) &&
        decide (stopLevel .openDrain (~~~own) x.2 = .highZ) && decide (stopLevel .pushPull (~~~own) x.2 = .high) &&
        decide (stopLevel .disabled own x.2 = .highZ)) = true := by decide +kernel

/-- A line that selects a true source, and one that selects none. -/
theorem test_meets_FlagsMaskAndCountersSet_lines :
    (∀ x ∈ sources, LineActive (1#24 <<< (x.1 - 1)) x.2) ∧ ∀ x ∈ sources, ¬LineActive 0#24 x.2 := by
  refine ⟨fun x h => (lineActive_iff _ _).mpr ?_, fun x h => ?_⟩
  · revert x; decide +kernel
  · rw [lineActive_iff]
    simp

theorem test_meets_LineResetKeepsRecords :
    0 < ownRoom line ∧ (0#8).toNat ≤ 1 ∧ (1#8).toNat ≤ 1 ∧ 2 ≤ (2#8).toNat := by decide

theorem test_meets_RequestRefused :
    ownRoom dark = 0 ∧ 0 < ownRoom line ∧ (0x99#8 : Byte) ∉ requestCodes ∧ (0x00#8 : Byte) ∉ requestCodes ∧
      ([0#8] : List Byte).length ≠ 0 := by decide

/-! ### Invariants -/

theorem test_meets_StepKeepsCapacities : Capacities State.reset ∧ ∃ t, step State.reset = .next t := by
  refine ⟨?_, _, rfl⟩
  constructor
  all_goals first
    | decide
    | (unfold LaneBounded; decide)

theorem agrees_reset : Agrees State.reset := by
  refine ⟨⟨by decide, by decide, by decide, by decide⟩, ⟨by decide, by decide, by decide, by decide, by decide⟩, ?_,
    ⟨by decide, ?_, ?_, by decide⟩, linesShown_of_pins _ rfl⟩
  · intro st; cases st <;> exact ⟨by decide, by decide⟩
  · intro o h; cases h
  · intro o h; cases h

theorem test_meets_StepKeepsAgreement : Agrees State.reset ∧ ∃ t, step State.reset = .next t := ⟨agrees_reset, _, rfl⟩

/-- The plan of a zone list with an entry, its owner in the map. -/
theorem test_meets_StepKeepsPlanCurrent : PlanAgrees laminating ∧ ∃ t, step laminating = .next t := by
  refine ⟨⟨by decide +kernel, ?_, ?_, ?_⟩, _, rfl⟩
  · intro e h
    rw [List.mem_singleton.mp h]
    decide
  · intro l h; cases l <;> cases h
  · intro l g h; cases l <;> cases h

theorem test_meets_StepKeepsInUseCounts : JobsAgree State.reset ∧ ∃ t, step State.reset = .next t := by
  refine ⟨⟨⟨by decide, by decide⟩, ⟨by decide, by decide⟩, ?_⟩, _, rfl⟩
  intro i
  have e : State.slot State.reset i = none := by
    show ((List.replicate 64 (none : Option JobRecord))[i]?).getD none = none
    rw [List.getElem?_replicate]
    split <;> rfl
  have h : inUseAt i State.reset = 0 := by
    unfold inUseAt
    rw [e]
  rw [h]
  rfl

theorem test_meets_SettingsKeptByOtherCommands : ∃ t, exec (.clearFlags 0#8 [0#8, 0#8]) line = .next t := ⟨_, rfl⟩

theorem test_meets_OnlyLaneStartRunsLane :
    ∃ t, exec (.laneStart 1#8 [0#8]) starting = .next t ∧ (starting.lane .a).mode ≠ .running ∧
      (t.lane .a).mode = .running := ⟨_, rfl, by decide, by decide +kernel⟩

end Sys2Proof.Tests
end

section
/-! PROOFS. The Job Table's requests WRITE JOB and DELETE JOB (spec/01, R11 to R13): what a served request answers, the
layout of a valid job record body, and the placement of the record it carries. -/

namespace Sys2Proof.Machine

/-! ## A served request (R196) -/

/-- Every refusal and every acceptance reaches its RESP through this rule: `r` is the reply the request's own rule gives. -/
theorem serve_answered {code token : Byte} {reply : State → Reply} {s : State} {r : Reply} (room : 0 < ownRoom s)
    (e : reply s = r) :
    Answered r.state (respTo r.state code token (resultByte r.result) r.field r.body) (serve code token reply s) := by
  rw [serve_room code token reply s room, e, ← respFrame_eq]
  exact answer_finish code token r

theorem exec_writeJob (token : Byte) (body : List Byte) (s : State) :
    exec (.writeJob token body) s = .next (serve 0x01#8 token (writeJobReply body) s) := rfl

theorem exec_deleteJob (token : Byte) (body : List Byte) (s : State) :
    exec (.deleteJob token body) s = .next (serve 0x02#8 token (deleteJobReply body) s) := rfl

/-! ## The lists of a job record body (section 9.2) -/

@[simp] theorem length_entries32 (body : List Byte) : ∀ n i, (entries32 body n i).length = n
  | 0, _ => rfl
  | n + 1, i => by rw [entries32, List.length_cons, length_entries32 body n]

theorem getElem_entries32 (body : List Byte) : ∀ (n i k : Nat) (h : k < (entries32 body n i).length),
    (entries32 body n i)[k] = field32 body (i + 4 * k)
  | 0, _, _, h => absurd h (Nat.not_lt_zero _)
  | _ + 1, _, 0, _ => rfl
  | n + 1, i, k + 1, h => by
    have tail := getElem_entries32 body n (i + 4) k (by simpa using h)
    rw [show i + 4 * (k + 1) = i + 4 + 4 * k by omega, ← tail]
    rfl

@[simp] theorem length_rawZones (body : List Byte) : ∀ n i, (rawZones body n i).length = n
  | 0, _ => rfl
  | n + 1, i => by rw [rawZones, List.length_cons, length_rawZones body n]

theorem getElem_rawZones (body : List Byte) : ∀ (n i k : Nat) (h : k < (rawZones body n i).length),
    (rawZones body n i)[k] = zoneAt body (i + 9 * k)
  | 0, _, _, h => absurd h (Nat.not_lt_zero _)
  | _ + 1, _, 0, _ => rfl
  | n + 1, i, k + 1, h => by
    have tail := getElem_rawZones body n (i + 9) k (by simpa using h)
    rw [show i + 9 * (k + 1) = i + 9 + 9 * k by omega, ← tail]
    rfl

/-- A list of four-byte entries stands place by place behind its count. -/
theorem entries32_laidOut {body : List Byte} {n i k c : Nat} (h : (entries32 body n i)[k]? = some c) :
    field32 body (i + 4 * k) = c := by
  obtain ⟨hk, rfl⟩ := List.getElem?_eq_some_iff.mp h
  exact (getElem_entries32 body n i k hk).symm

/-- The zones of a body whose field 7 holds stand place by place behind their count, each with its mode code (R11). -/
theorem bodyZones_laidOut {body : List Byte} (valid : JobFieldHolds body 7) {k : Nat} {z : Zone}
    (h : ((bodyZones body).map zoneOf)[k]? = some z) :
    field32 body (44 + 9 * k) = z.x1 ∧ field32 body (48 + 9 * k) = z.x2 ∧
      byteAt body (52 + 9 * k) = match z.mode with | .required => 1 | .forbidden => 2 := by
  obtain ⟨hk, rfl⟩ := List.getElem?_eq_some_iff.mp h
  have inBody : k < byteAt body 43 := by simpa [bodyZones] using hk
  have raw : ((bodyZones body).map zoneOf)[k] = zoneOf (zoneAt body (44 + 9 * k)) := by
    rw [List.getElem_map]
    exact congrArg zoneOf (getElem_rawZones body _ 44 k (by simpa using inBody))
  rw [raw]
  refine ⟨rfl, congrArg (field32 body) (by omega), ?_⟩
  have code : (zoneAt body (44 + 9 * k)).mode = byteAt body (52 + 9 * k) := congrArg (byteAt body) (by omega)
  rcases (valid.2 k inBody).1 with one | two
  · simp [zoneOf, code, one]
  · simp [zoneOf, code, two]

/-- A body of full length whose fields hold carries, at the offsets of section 9.2, the definition read from it (R2, R11). -/
theorem jobLaidOut_bodyJob {body : List Byte} (len : body.length = 147) (valid : ∀ n, JobFieldHolds body n) :
    JobLaidOut body (bodyJob body) where
  length := len
  tag := by simp [bodyJob, len]
  lane := by
    have bound : byteAt body 2 ≤ 2 := valid 2
    have code : byteAt body 2 = 0 ∨ byteAt body 2 = 1 ∨ byteAt body 2 = 2 := by omega
    rcases code with h | h | h <;> simp [bodyJob, laneSelectOf, h]
  copies := rfl
  lNom := rfl
  tail := by
    have flag : byteAt body 9 ≤ 1 := valid 5
    rcases Nat.le_one_iff_eq_zero_or_eq_one.mp flag with h | h <;> simp [bodyJob, h]
  cuts := ⟨(length_entries32 _ _ _).symm, fun _ _ => entries32_laidOut⟩
  zones := ⟨by simp [bodyJob, bodyZones], fun _ _ => bodyZones_laidOut (valid 7)⟩
  trim := by
    have flag : byteAt body 80 ≤ 1 := (valid 8).1
    rcases Nat.le_one_iff_eq_zero_or_eq_one.mp flag with h | h <;> simp [bodyJob, h]
  pitches := ⟨(length_entries32 _ _ _).symm, fun _ _ => entries32_laidOut⟩
  notify := by
    have flag : byteAt body 146 ≤ 1 := valid 10
    rcases Nat.le_one_iff_eq_zero_or_eq_one.mp flag with h | h <;> simp [bodyJob, h]

/-! ## The lowest-numbered EMPTY slot (R1) -/

/-- The slot found is EMPTY, and every slot before it holds a record. -/
theorem emptyFrom_lowest : ∀ (slots : List (Option JobRecord)) (lo : Nat) {i : Nat}, emptyFrom lo slots = some i →
    ∃ k, i = lo + k ∧ slots[k]? = some none ∧ ∀ m < k, slots[m]? ≠ some none
  | [], _, _, h => nomatch h
  | none :: _, _, _, h => ⟨0, (Option.some.inj h).symm, rfl, fun _ hm => absurd hm (Nat.not_lt_zero _)⟩
  | some _ :: rest, lo, _, h => by
    obtain ⟨k, rfl, empty, full⟩ := emptyFrom_lowest rest (lo + 1) h
    refine ⟨k + 1, by omega, empty, fun m hm => ?_⟩
    cases m with
    | zero => simp
    | succ m => exact full m (Nat.lt_of_succ_lt_succ hm)

theorem emptyFrom_zero_lowest {slots : List (Option JobRecord)} {i : Nat} (h : emptyFrom 0 slots = some i) :
    slots[i]? = some none ∧ ∀ m < i, slots[m]? ≠ some none := by
  obtain ⟨k, rfl, found⟩ := emptyFrom_lowest slots 0 h
  rwa [Nat.zero_add]

/-! ## The placement of a valid record, case by case (R12) -/

section Placement

variable {mode i : Nat} {d : JobDef} {s : State}

theorem placeJob_dupTag (held : s.holding d.tag = some i) (new : mode = 1) : placeJob mode d s = refuse .dupTag s := by
  simp [placeJob, held, new]

theorem placeJob_inUse (held : s.holding d.tag = some i) (old : mode ≠ 1) (used : 0 < inUseAt i s) :
    placeJob mode d s = refuse .inUse s := by
  simp [placeJob, held, old, used]

theorem placeJob_replaces (held : s.holding d.tag = some i) (old : mode ≠ 1) (unused : inUseAt i s = 0) :
    placeJob mode d s = accept (putSlot i (some (freshRecord d)) s) := by
  simp [placeJob, held, old, unused]

theorem placeJob_notFound (unheld : s.holding d.tag = none) (replace : mode = 2) :
    placeJob mode d s = refuse .notFound s := by
  simp [placeJob, unheld, replace]

theorem placeJob_full (unheld : s.holding d.tag = none) (create : mode ≠ 2) (full : emptyFrom 0 s.jobs = none) :
    placeJob mode d s = refuse .full s := by
  simp [placeJob, unheld, create, full]

theorem placeJob_creates (unheld : s.holding d.tag = none) (create : mode ≠ 2) (empty : emptyFrom 0 s.jobs = some i) :
    placeJob mode d s = accept (putSlot i (some (freshRecord d)) s) := by
  simp [placeJob, unheld, create, empty]

end Placement

/-! ## WRITE JOB (R11, R12) -/

theorem writeJobReply_badField {body : List Byte} {n : Nat} (len : body.length = 147)
    (fails : FailsFirst (JobFieldHolds body) n) (s : State) : writeJobReply body s = badField n s := by
  simp [writeJobReply, sized, validated, len, ((jobChecks_fields body).2 n).mpr fails]

theorem writeJobReply_valid {body : List Byte} (len : body.length = 147) (valid : ∀ n, JobFieldHolds body n) (s : State) :
    writeJobReply body s = placeJob (byteAt body 0) (bodyJob body) s := by
  simp [writeJobReply, sized, validated, writeMode, len, (jobChecks_fields body).1.mpr valid]

/-- Settles O41: the first failing field refuses the body, and a valid one is placed by the cases of R12. -/
theorem jobWritePlaced : Obligations.JobWritePlaced := by
  intro s token body room len
  refine ⟨_, exec_writeJob token body s, fun n fails => ?_, fun valid => ⟨jobLaidOut_bodyJob len valid, ?_⟩⟩
  · exact serve_answered room (writeJobReply_badField len fails s)
  · have placed := writeJobReply_valid len valid s
    split
    case h_1 i held =>
      exact ⟨fun new => serve_answered room (placed.trans (placeJob_dupTag held new)),
        fun old used => serve_answered room (placed.trans (placeJob_inUse held old used)),
        fun old unused => serve_answered room (placed.trans (placeJob_replaces held old unused))⟩
    case h_2 unheld =>
      refine ⟨fun replace => serve_answered room (placed.trans (placeJob_notFound unheld replace)),
        fun create full => serve_answered room (placed.trans (placeJob_full unheld create full)),
        fun i create empty => ?_⟩
      obtain ⟨isEmpty, lowest⟩ := emptyFrom_zero_lowest empty
      exact ⟨isEmpty, lowest, serve_answered room (placed.trans (placeJob_creates unheld create empty))⟩

/-! ## DELETE JOB (R13) -/

section Deletion

variable {tag : Byte} {i : Nat} {s : State}

theorem deleteJobReply_notFound (unheld : s.holding tag = none) : deleteJobReply [tag] s = refuse .notFound s := by
  simp [deleteJobReply, sized, unheld]

theorem deleteJobReply_inUse (held : s.holding tag = some i) (used : 0 < inUseAt i s) :
    deleteJobReply [tag] s = refuse .inUse s := by
  simp [deleteJobReply, sized, held, used]

theorem deleteJobReply_empties (held : s.holding tag = some i) (unused : inUseAt i s = 0) :
    deleteJobReply [tag] s = accept (putSlot i none s) := by
  simp [deleteJobReply, sized, held, unused]

end Deletion

/-- Settles O42: each case of R13 is the reply its own lemma gives, served. -/
theorem jobDeleted : Obligations.JobDeleted := by
  intro s token tag room
  exact ⟨_, exec_deleteJob token [tag] s,
    fun unheld => serve_answered room (deleteJobReply_notFound unheld),
    fun i held =>
      ⟨fun used => serve_answered room (deleteJobReply_inUse held used),
        fun unused => serve_answered room (deleteJobReply_empties held unused)⟩⟩

end Sys2Proof.Machine
end

section
/-! PROOFS. CLEAR LOST (spec/02, R37): its reply in LOST and in every other tracker state, served. -/

namespace Sys2Proof.Machine

theorem exec_clearLost (token : Byte) (body : List Byte) (s : State) :
    exec (.clearLost token body) s = .next (serve 0x31#8 token (clearLostReply body) s) := rfl

section LossClearing

variable {s : State}

theorem clearLostReply_lost (lost : s.tracker.mode = .lost) :
    clearLostReply [] s = accept { s with tracker := clearLostTracker s.tracker } := by
  simp [clearLostReply, sized, lost]

theorem clearLostReply_wrongState (notLost : s.tracker.mode ≠ .lost) : clearLostReply [] s = refuse .wrongState s := by
  simp [clearLostReply, sized, notLost]

end LossClearing

/-- Settles O48: each case of R37 is the reply its own lemma gives, served. -/
theorem lossCleared : Obligations.LossCleared := by
  intro s token room
  exact ⟨_, exec_clearLost token [] s,
    fun lost => serve_answered room (clearLostReply_lost lost),
    fun notLost => serve_answered room (clearLostReply_wrongState notLost)⟩

end Sys2Proof.Machine
end

section
/-! PROOFS. WRITE LANE (spec/04, R70): the first field of a lane record body that fails, and what a valid body's lane state
then answers. -/

namespace Sys2Proof.Machine

theorem exec_writeLane (token : Byte) (body : List Byte) (s : State) :
    exec (.writeLane token body) s = .next (serve 0x11#8 token (writeLaneReply body) s) := rfl

/-- An accepted request that keeps the node address is answered from the address the request met (R196). -/
theorem serve_accepted {code token : Byte} {reply : State → Reply} {s u : State} (room : 0 < ownRoom s)
    (e : reply s = accept u) (addr : u.nodeAddr = s.nodeAddr) :
    Answered u (respTo s code token 0 0 []) (serve code token reply s) := by
  have resp : respTo u code token 0 0 [] = respTo s code token 0 0 [] := by simp [respTo, addr]
  exact resp ▸ serve_answered room e

/-! ## The fields of a lane record body -/

/-- One step of the field-by-field validation of R197, with the check read as the failure it excludes. -/
theorem firstFailing_cons {ok : Bool} {fails : Prop} [Decidable fails] (checked : ok = true ↔ ¬fails) (n : Nat)
    (rest : List (Nat × Bool)) :
    firstFailing ((n, ok) :: rest) = if fails then some n else firstFailing rest := by
  by_cases h : fails <;> simp [firstFailing, checked, h]

/-- The first of R70's field conditions that a lane record body breaks. -/
theorem firstFailing_laneChecks (body : List Byte) :
    firstFailing (laneChecks body) =
      if 1 < byteAt body 0 then some 0
      else if 31999 < field16 body 1 then some 1
      else if 32000 < field16 body 3 ∨ field16 body 3 ≤ field16 body 1 then some 2
      else if field16 body 5 < 100 ∨ 50000 < field16 body 5 then some 3
      else if 16 < byteAt body 7 then some 4
      else none := by
  have code : inRange 0 1 (byteAt body 0) = true ↔ ¬1 < byteAt body 0 := by simp [inRange]
  have near : inRange 0 31999 (field16 body 1) = true ↔ ¬31999 < field16 body 1 := by simp [inRange]
  have far : (decide (field16 body 3 ≤ 32000) && decide (field16 body 1 < field16 body 3)) = true ↔
      ¬(32000 < field16 body 3 ∨ field16 body 3 ≤ field16 body 1) := by simp
  have tol : inRange 100 50000 (field16 body 5) = true ↔ ¬(field16 body 5 < 100 ∨ 50000 < field16 body 5) := by
    simp [inRange]
  have gain : inRange 0 16 (byteAt body 7) = true ↔ ¬16 < byteAt body 7 := by simp [inRange]
  rw [laneChecks, firstFailing_cons code, firstFailing_cons near, firstFailing_cons far, firstFailing_cons tol,
    firstFailing_cons gain]
  rfl

theorem laneOfCode_valid {n : Nat} (valid : ¬1 < n) : laneOfCode n = some (if n = 0 then .a else .b) := by
  have code : n = 0 ∨ n = 1 := by omega
  rcases code with rfl | rfl <;> rfl

/-! ## The reply (R70) -/

section LaneReply

variable {body : List Byte} {l : Lane} {s : State}

theorem writeLaneReply_badField {n : Nat} (len : body.length = 8) (fails : firstFailing (laneChecks body) = some n) :
    writeLaneReply body s = badField n s := by
  simp [writeLaneReply, sized, validated, len, fails]

theorem writeLaneReply_wrongState (len : body.length = 8) (valid : firstFailing (laneChecks body) = none)
    (names : laneOfCode (byteAt body 0) = some l) (busy : (s.lane l).mode ≠ .disabled) :
    writeLaneReply body s = refuse .wrongState s := by
  simp [writeLaneReply, sized, validated, onLane, len, valid, names, busy]

theorem writeLaneReply_replaces (len : body.length = 8) (valid : firstFailing (laneChecks body) = none)
    (names : laneOfCode (byteAt body 0) = some l) (idle : (s.lane l).mode = .disabled) :
    writeLaneReply body s = accept (s.modLane l (fun x => { x with record := bodyLane body })) := by
  simp [writeLaneReply, sized, validated, onLane, len, valid, names, idle]

end LaneReply

/-- Settles O45: the fields are tried in R70's order, and a body whose fields all hold is answered by the state of the lane
its code names. -/
theorem laneWritten : Obligations.LaneWritten := by
  intro s token body room len
  refine ⟨_, exec_writeLane token body s, ?_⟩
  have fields := firstFailing_laneChecks body
  have refusedOn : ∀ n, firstFailing (laneChecks body) = some n →
      Answered s (respTo s 0x11#8 token 2 n []) (serve 0x11#8 token (writeLaneReply body) s) :=
    fun n fails => serve_answered room (writeLaneReply_badField len fails)
  generalize named : (if byteAt body 0 = 0 then Lane.a else .b) = l
  intro refused near far tol gain
  split_ifs at fields ⊢ with badCode badNear badFar badTol badGain
  · exact refusedOn 0 fields
  · exact refusedOn 1 fields
  · exact refusedOn 2 fields
  · exact refusedOn 3 fields
  · exact refusedOn 4 fields
  · have names : laneOfCode (byteAt body 0) = some l := named ▸ laneOfCode_valid badCode
    intro lane
    split_ifs with busy
    · exact serve_answered room (writeLaneReply_wrongState len fields names busy)
    · exact serve_accepted room (writeLaneReply_replaces len fields names (not_not.mp busy)) (State.nodeAddr_modLane s l _)

end Sys2Proof.Machine
end

section
/-! PROOFS. Stale replies (spec/05, R113 and R117): when a reply matches no outstanding action, and what the station it names
does with it. -/

namespace Sys2Proof.Machine

theorem exec_actDone (src : Byte) (id : BitVec 16) (s : State) :
    exec (.actDone src id) s = .next (finish (takeReply src id none s)) := rfl

theorem exec_actFault (src : Byte) (id : BitVec 16) (code : Byte) (s : State) :
    exec (.actFault src id code) s = .next (finish (takeReply src id (some code) s)) := rfl

/-- A reply matches no action exactly where the station is not BUSY with an action of that id (R113). -/
theorem matchReply_eq_none_iff {id : BitVec 16} {x : StationState} :
    matchReply id x = none ↔ ¬(x.mode = .busy ∧ ∃ i, x.outstanding = some i ∧ i.id = id) := by
  unfold matchReply
  split
  next i held => simp [held]
  next idle => simp [idle]

/-- A reply of either kind that matches no action of the station it names is stale (R113, R117). -/
theorem takeReply_stale {src : Byte} {id : BitVec 16} {s : State} {st : Station} (names : senderOf src s = some st)
    (unmatched : matchReply id (s.station st) = none) (code : Option Byte) :
    takeReply src id code s = staleReply st s := by
  simp only [takeReply, names, unmatched]

/-- Settles O32: the reply is stale whatever its kind, so the event ends from the state with the bumped counter. -/
theorem staleReplyCounted : Obligations.StaleReplyCounted := by
  intro s src id code st names mismatch c kind
  have stale := takeReply_stale names (matchReply_eq_none_iff.mpr mismatch)
  rcases kind with rfl | rfl
  · rw [exec_actDone, stale none]
    exact ⟨_, rfl, endOfEvent_finish (staleReply st s)⟩
  · rw [exec_actFault, stale (some code)]
    exact ⟨_, rfl, endOfEvent_finish (staleReply st s)⟩

end Sys2Proof.Machine
end

section
/-! PROOFS. What the commands and ticks can do to the state, said once: `Evolves` lists the elementary changes, each with what
it keeps of the invariants, and a lemma for each operation of the blocks says that it is made of them. The four invariants that
every step keeps are then inductions over `Evolves`. -/

namespace Sys2Proof.Machine

/-! ## The elementary changes -/

/-- A stretch in its range, −20,000 to +20,000 ppm (R62, R65). -/
def InStretch (x : Int) : Prop := -20000 ≤ x ∧ x ≤ 20000

/-- Counters within their 16 bits (R209). -/
def InCount (ns : List Nat) : Prop := ∀ n ∈ ns, n ≤ 65535

/-- The plan is the one R129 and R130 give for the zone list as it stands. -/
def PlanCurrent (s : State) : Prop := s.nip.plan = planOf (banned s.web) s.setup.policy s.setup.bridge s.nip.zones

/-- Every zone entry belongs to a segment of a lane map (R125). -/
def EntriesOwned (s : State) (zones : List ZoneEntry) : Prop := ∀ e ∈ zones, inMap (s.lane e.lane) e.seg = true

/-- A segment that stays in its map: its serial and slot kept, CLOSED once CLOSED, its stretch in range. -/
structure SegStep (g h : Segment) : Prop where
  id : h.id = g.id
  slot : h.slot = g.slot
  closed : g.state = .closed → h.state = .closed
  stretch : InStretch g.stretch → InStretch h.stretch

/-- A lane whose map neither gains nor loses a segment. It enters DISABLED with an empty map only, and RUNNING only where
`start` permits it. -/
structure LaneStep (start : Prop) (x y : LaneState) : Prop where
  segs : ∃ f : Segment → Segment, y.segs = x.segs.map f ∧ ∀ g, SegStep g (f g)
  mode : y.mode = x.mode ∨ y.mode = .disabled ∧ x.segs = [] ∨ y.mode = .draining ∧ x.mode = .running ∨
    start ∧ y.mode = .running
  stretch : InStretch x.stretch → InStretch y.stretch
  cuts : y.cutQueue.length ≤ x.cutQueue.length
  knives : y.trimQueue.length ≤ x.trimQueue.length
  counters : InCount (laneCounters x) → InCount (laneCounters y)

/-- A lane that has registered segment `g` from a slot. -/
structure LaneGrows (alone : Prop) (g : Segment) (x y : LaneState) : Prop where
  segs : y.segs = x.segs ++ [g]
  running : x.mode = .running
  mode : y.mode = .running
  closed : alone → ∀ h ∈ x.segs, h.state = .closed
  segRoom : y.segs.length ≤ 16
  cutRoom : y.cutQueue.length ≤ 32
  knifeRoom : y.trimQueue.length ≤ 32
  segStretch : g.stretch = x.stretch
  stretch : y.stretch = x.stretch
  counters : laneCounters y = laneCounters x

structure StationStep (x y : StationState) : Prop where
  agrees : StationAgrees x → StationAgrees y
  counters : InCount (stationCounters x) → InCount (stationCounters y)

/-- A DOWN south port transmits nothing, and one that transmits nothing has nothing queued (R179, R189). -/
def SouthAgrees (p : SouthPort) : Prop := (p.up = false → p.tx = none) ∧ (p.tx = none → p.urgent = [] ∧ p.fwd = [])

/-- The same of a north port (R179, R190). -/
def NorthAgrees (p : NorthPort) : Prop := (p.up = false → p.tx = none) ∧ (p.tx = none → p.own = [] ∧ p.fwd = [])

structure SouthStep (p q : SouthPort) : Prop where
  agrees : SouthAgrees p → SouthAgrees q
  fwd : p.fwd.length ≤ 16 → q.fwd.length ≤ 16
  counters : InCount [p.crcErrors, p.fwdDrops] → InCount [q.crcErrors, q.fwdDrops]

structure NorthStep (p q : NorthPort) : Prop where
  agrees : NorthAgrees p → NorthAgrees q
  own : p.own.length ≤ 8 → q.own.length ≤ 8
  fwd : p.fwd.length ≤ 16 → q.fwd.length ≤ 16
  run : p.run ≤ 4 → q.run ≤ 4
  counters : InCount [p.crcErrors, p.fwdDrops] → InCount [q.crcErrors, q.fwdDrops]

/-- The tracker under a line setup with this REV_LIMIT. -/
structure TrackerStep (revLimit : Nat) (x y : Tracker) : Prop where
  agrees : TrackerAgrees x revLimit → TrackerAgrees y revLimit
  speed : x.speed ≤ 256000 → y.speed ≤ 256000
  frac : x.frac < 65536 → y.frac < 65536
  counters : InCount [x.jumps, x.outOfRange, x.reverseDiscarded] → InCount [y.jumps, y.outOfRange, y.reverseDiscarded]

/-- The Nip Planner; only where the plan may be `stale` do the zone list and the plan change apart from each other. -/
structure NipStep (stale : Bool) (s : State) (n : Nip) : Prop where
  agrees : NipAgrees s.nip → NipAgrees n
  room : s.nip.zones.length ≤ 64 → n.zones.length ≤ 64
  owned : EntriesOwned s s.nip.zones → EntriesOwned s n.zones
  plan : stale = false → n.plan = s.nip.plan ∧ n.zones = s.nip.zones

structure WebStep (stale : Bool) (w x : WebUnit) : Prop where
  profile : stale = false → x.profile = w.profile
  splices : w.splices.length ≤ 4 → x.splices.length ≤ 4
  counters : InCount [w.unrecorded] → InCount [x.unrecorded]

structure MgmtStep (m n : Mgmt) : Prop where
  reports : m.reports.length ≤ 16 → n.reports.length ≤ 16
  counters : InCount [m.reportsLost, m.requestsDropped] → InCount [n.reportsLost, n.requestsDropped]

/-! No change is an elementary change; a change of some fields is written as this one with those fields. -/

theorem SegStep.refl (g : Segment) : SegStep g g := ⟨rfl, rfl, fun h => h, fun h => h⟩

theorem LaneStep.refl {start : Prop} (x : LaneState) : LaneStep start x x :=
  ⟨⟨fun g => g, (List.map_id' _).symm, SegStep.refl⟩, .inl rfl, fun h => h, Nat.le_refl _, Nat.le_refl _, fun h => h⟩

theorem StationStep.refl (x : StationState) : StationStep x x := ⟨fun h => h, fun h => h⟩

theorem SouthStep.refl (p : SouthPort) : SouthStep p p := ⟨fun h => h, fun h => h, fun h => h⟩

theorem NorthStep.refl (p : NorthPort) : NorthStep p p := ⟨fun h => h, fun h => h, fun h => h, fun h => h, fun h => h⟩

theorem TrackerStep.refl (revLimit : Nat) (x : Tracker) : TrackerStep revLimit x x :=
  ⟨fun h => h, fun h => h, fun h => h, fun h => h⟩

theorem NipStep.refl (stale : Bool) (s : State) : NipStep stale s s.nip :=
  ⟨fun h => h, fun h => h, fun h => h, fun _ => ⟨rfl, rfl⟩⟩

theorem WebStep.refl (stale : Bool) (w : WebUnit) : WebStep stale w w := ⟨fun _ => rfl, fun h => h, fun h => h⟩

theorem MgmtStep.refl (m : Mgmt) : MgmtStep m m := ⟨fun h => h, fun h => h⟩

/-- Segment `g` leaves its lane map, its zone entries go with it, and its job record gives back one use (R17, R87, R90). -/
def unmap (l : Lane) (g : Segment) (s : State) : State :=
  releaseJob g.slot (dropZones l g.id (s.modLane l (fun x => { x with segs := x.segs.filter (fun h => h.id ≠ g.id) })))

/-- `t` is reached from `s` by elementary changes. `start` says which lanes may be started; `alone` is what may be supposed of
the maps where a segment is registered; `stale` says whether the nip plan may be left behind the zone list. -/
inductive Evolves (start : Lane → Prop) (alone : Prop) : Bool → State → State → Prop where
  | refl (b s) : Evolves start alone b s s
  | trans {b s t u} : Evolves start alone b s t → Evolves start alone b t u → Evolves start alone b s u
  /-- Work that left the plan behind and has brought it up again. -/
  | settled {b s t} : Evolves start alone true s t → (PlanCurrent s → PlanCurrent t) → Evolves start alone b s t
  | lane (b s l) (y : LaneState) : LaneStep (start l) (s.lane l) y → Evolves start alone b s (s.setLane l y)
  | station (b s st) (y : StationState) : StationStep (s.station st) y → Evolves start alone b s (s.setStation st y)
  | south (b s) (p : SouthPort) : SouthStep s.south p → Evolves start alone b s { s with south := p }
  | north (b s) (p : NorthPort) : NorthStep s.north p → Evolves start alone b s { s with north := p }
  | tracker (b s) (k : Tracker) : TrackerStep s.setup.revLimit s.tracker k → Evolves start alone b s { s with tracker := k }
  | nip (b s) (n : Nip) : NipStep b s n → Evolves start alone b s { s with nip := n }
  | web (b s) (w : WebUnit) : WebStep b s.web w → Evolves start alone b s { s with web := w }
  | mgmt (b s) (m : Mgmt) : MgmtStep s.mgmt m → Evolves start alone b s { s with mgmt := m }
  /-- Records written or removed in slots no segment uses. -/
  | jobs (b s) (js : List (Option JobRecord)) : js.length = s.jobs.length →
      (∀ i, inUseAt i { s with jobs := js } = inUseAt i s) → Evolves start alone b s { s with jobs := js }
  | leaves (b s l) (g : Segment) : g ∈ (s.lane l).segs → (b = false → ownsZone l g.id s = false) →
      Evolves start alone b s (unmap l g s)
  | registers (b s l slot r) (g : Segment) (y : LaneState) : s.slot slot = some r → g.id = s.nextSeg → g.slot = slot →
      LaneGrows alone g (s.lane l) y →
      Evolves start alone b s { (s.modSlot slot takeCopy).setLane l y with nextSeg := s.nextSeg + 1 }
  /-- The line setup is replaced while both lanes are DISABLED (R198). -/
  | line (b s) (x : LineSetup) : s.laneA.mode = .disabled → s.laneB.mode = .disabled →
      Evolves start alone b s (installLine x s)
  | cold (b s) : Evolves start alone b s (coldState s)
  | warm (b s keep answered) : Evolves start alone b s (warmReset keep answered s)
  /-- What no invariant reads. -/
  | rest (b s) (addr : Byte) (id : BitVec 16) (reads : Nat) (turns : List Turn) (pins : Pins) :
      Evolves start alone b s { s with nodeAddr := addr, lastId := id, jobReads := reads, turns := turns, pins := pins }

section Composition

variable {start : Lane → Prop} {alone : Prop} {b : Bool} {s t u : State}

theorem evolves_foldl {α : Type} (f : State → α → State) (h : ∀ a s, Evolves start alone b s (f s a)) :
    ∀ (xs : List α) (s : State), Evolves start alone b s (xs.foldl f s)
  | [], s => .refl _ s
  | a :: xs, s => (h a s).trans (evolves_foldl f h xs (f s a))

theorem evolves_ite {c : Prop} [Decidable c] (ht : c → Evolves start alone b s t) (hu : ¬c → Evolves start alone b s u) :
    Evolves start alone b s (if c then t else u) := by
  split
  · exact ht ‹_›
  · exact hu ‹_›

end Composition

/-! ## Flags, lanes, segments, stations -/

section Operations

variable {start : Lane → Prop} {alone : Prop} {b : Bool}

theorem bump_le (n : Nat) : bump n ≤ 65535 := Nat.min_le_right _ _
theorem bumpBy_le (k n : Nat) : bumpBy k n ≤ 65535 := Nat.min_le_right _ _

theorem evolves_raise (p : Nat) (s : State) : Evolves start alone b s (raise p s) := .mgmt _ _ _ { MgmtStep.refl _ with }

theorem evolves_modLane (l : Lane) (f : LaneState → LaneState) (s : State) (h : LaneStep (start l) (s.lane l) (f (s.lane l))) :
    Evolves start alone b s (s.modLane l f) := .lane _ _ _ _ h

theorem laneStep_segs {start : Prop} {x : LaneState} (f : Segment → Segment) (h : ∀ g, SegStep g (f g)) :
    LaneStep start x { x with segs := x.segs.map f } := { LaneStep.refl _ with segs := ⟨f, rfl, h⟩ }

theorem evolves_modSeg (l : Lane) (id : Nat) (f : Segment → Segment) (s : State) (h : ∀ g, SegStep g (f g)) :
    Evolves start alone b s (s.modSeg l id f) :=
  evolves_modLane l _ s (laneStep_segs _ fun g => by split; exacts [h g, { SegStep.refl _ with }])

theorem evolves_flagSeg (l : Lane) (id : Nat) (d : BitVec 12) (s : State) : Evolves start alone b s (flagSeg l id d s) :=
  evolves_modSeg l id _ s fun _ => { SegStep.refl _ with }

theorem evolves_modStation (st : Station) (f : StationState → StationState) (s : State)
    (h : StationStep (s.station st) (f (s.station st))) : Evolves start alone b s (s.modStation st f) := .station _ _ _ _ h

theorem evolves_dropTurn (s : State) : Evolves start alone b s s.dropTurn :=
  .rest b s s.nodeAddr s.lastId s.jobReads s.turns.tail s.pins

theorem inCount_pair {m n : Nat} : InCount [m, n] ↔ m ≤ 65535 ∧ n ≤ 65535 := by simp [InCount]

/-! ## The ports (R179, R188 to R190) -/

theorem evolves_dropNorth (k : Nat) (s : State) : Evolves start alone b s (dropNorth k s) :=
  evolves_ite (fun _ => .refl _ s) fun _ =>
    .trans (.north _ s { s.north with fwdDrops := bumpBy k s.north.fwdDrops }
      { NorthStep.refl _ with counters := fun h => inCount_pair.mpr ⟨(inCount_pair.mp h).1, bumpBy_le _ _⟩ }) (evolves_raise _ _)

theorem evolves_dropSouth (k : Nat) (s : State) : Evolves start alone b s (dropSouth k s) :=
  evolves_ite (fun _ => .refl _ s) fun _ =>
    .trans (.south _ s { s.south with fwdDrops := bumpBy k s.south.fwdDrops }
      { SouthStep.refl _ with counters := fun h => inCount_pair.mpr ⟨(inCount_pair.mp h).1, bumpBy_le _ _⟩ }) (evolves_raise _ _)

theorem evolves_crcError (p : Port) (s : State) : Evolves start alone b s (crcError p s) := by
  cases p
  · exact .trans (.north _ s { s.north with crcErrors := bump s.north.crcErrors }
      { NorthStep.refl _ with counters := fun h => inCount_pair.mpr ⟨bump_le _, (inCount_pair.mp h).2⟩ }) (evolves_raise _ _)
  · exact .trans (.south _ s { s.south with crcErrors := bump s.south.crcErrors }
      { SouthStep.refl _ with counters := fun h => inCount_pair.mpr ⟨bump_le _, (inCount_pair.mp h).2⟩ }) (evolves_raise _ _)

/-- What the south arbiter takes it takes from a queue's head, and it leaves nothing queued at an idle UP port (R189). -/
theorem southStart_spec (p : SouthPort) :
    p.start.up = p.up ∧ p.start.crcErrors = p.crcErrors ∧ p.start.fwdDrops = p.fwdDrops ∧
      p.start.fwd.length ≤ p.fwd.length ∧ (p.up = false → p.start = p) ∧
      (p.up = true → p.start.tx = none → p.start.urgent = [] ∧ p.start.fwd = []) := by
  unfold SouthPort.start
  split
  case isTrue c =>
    obtain ⟨up, idle⟩ := Bool.and_eq_true_iff.mp c
    unfold SouthPort.choose
    split
    · simp [up]
    · split <;> simp_all
  case isFalse c => cases hu : p.up <;> cases ht : p.tx <;> simp_all

/-- The same of the north arbiter, whose run count stays at most 4 (R190). -/
theorem northStart_spec (p : NorthPort) :
    p.start.up = p.up ∧ p.start.own.length ≤ p.own.length ∧ p.start.fwd.length ≤ p.fwd.length ∧
      (p.run ≤ 4 → p.start.run ≤ 4) ∧ (p.up = false → p.start = p) ∧
      (p.up = true → p.start.tx = none → p.start.own = [] ∧ p.start.fwd = []) := by
  unfold NorthPort.start
  split
  case isTrue c =>
    obtain ⟨up, idle⟩ := Bool.and_eq_true_iff.mp c
    unfold NorthPort.choose
    split
    · simp_all
    · split
      · simp_all
      · simp_all; omega
    · simp_all
    · simp_all
  case isFalse c => cases hu : p.up <;> cases ht : p.tx <;> simp_all

/-- An UP south port that starts with at most sixteen frames to forward. -/
theorem southStep_start {p q : SouthPort} (up : q.up = true) (crc : q.crcErrors = p.crcErrors) (drops : q.fwdDrops = p.fwdDrops)
    (fwd : p.fwd.length ≤ 16 → q.fwd.length ≤ 16) : SouthStep p q.start := by
  obtain ⟨hup, hcrc, hdrops, hfwd, -, idle⟩ := southStart_spec q
  exact
    { agrees := fun _ => ⟨by simp [hup, up], idle up⟩
      fwd := fun h => hfwd.trans (fwd h)
      counters := by rw [hcrc, hdrops, crc, drops]; exact fun h => h }

theorem northStep_start {p q : NorthPort} (up : q.up = true) (crc : q.crcErrors = p.crcErrors) (drops : q.fwdDrops = p.fwdDrops)
    (run : q.run = p.run) (own : p.own.length ≤ 8 → q.own.length ≤ 8) (fwd : p.fwd.length ≤ 16 → q.fwd.length ≤ 16) :
    NorthStep p q.start := by
  obtain ⟨hup, hown, hfwd, hrun, -, idle⟩ := northStart_spec q
  obtain ⟨-, hcrc, hdrops⟩ := northStart_keeps q
  exact
    { agrees := fun _ => ⟨by simp [hup, up], idle up⟩
      own := fun h => hown.trans (own h)
      fwd := fun h => hfwd.trans (fwd h)
      run := fun h => hrun (run ▸ h)
      counters := by rw [hcrc, hdrops, crc, drops]; exact fun h => h }

theorem evolves_sendUrgent (f : Frame) (s : State) : Evolves start alone b s (sendUrgent f s) :=
  evolves_ite (fun up => .south _ _ _ (southStep_start up rfl rfl fun h => h)) fun _ => evolves_dropSouth 1 s

theorem evolves_forwardSouth (f : Frame) (s : State) : Evolves start alone b s (forwardSouth f s) :=
  evolves_ite
    (fun c => by
      obtain ⟨up, room⟩ := Bool.and_eq_true_iff.mp c
      have := of_decide_eq_true room
      exact .south _ _ _ (southStep_start up rfl rfl fun _ => by simp; omega))
    fun _ => evolves_dropSouth 1 s

theorem evolves_forwardNorth (f : Frame) (s : State) : Evolves start alone b s (forwardNorth f s) :=
  evolves_ite
    (fun c => by
      obtain ⟨up, room⟩ := Bool.and_eq_true_iff.mp c
      have := of_decide_eq_true room
      exact .north _ _ _ (northStep_start up rfl rfl rfl (fun h => h) fun _ => by simp; omega))
    fun _ => evolves_dropNorth 1 s

/-- A place of the own normal queue is free at an UP port only (R179, R191). -/
theorem ownRoom_pos {s : State} (h : 0 < ownRoom s) : s.north.up = true ∧ s.north.own.length < 8 := by
  unfold ownRoom at h
  split at h
  · exact ⟨‹_›, by omega⟩
  · omega

theorem evolves_placeOwn (f : Frame) (s : State) (room : 0 < ownRoom s) : Evolves start alone b s (placeOwn f s) := by
  obtain ⟨up, free⟩ := ownRoom_pos room
  exact .north _ _ _ (northStep_start up rfl rfl rfl (fun _ => by simp; omega) fun h => h)

/-! ## The end of an event (R205, R208) -/

theorem evolves_placeAttn (s : State) : Evolves start alone b s (placeAttn s) :=
  evolves_ite
    (fun c => by
      simp only [Bool.and_eq_true, decide_eq_true_eq] at c
      exact .trans (.mgmt _ s { s.mgmt with pendingAttn := false } { MgmtStep.refl _ with }) (evolves_placeOwn _ _ c.1.2))
    fun _ => .refl _ s

theorem evolves_dropMarker (s : State) : Evolves start alone b s (dropMarker s) :=
  evolves_ite (fun _ => .mgmt _ _ _ { MgmtStep.refl _ with }) fun _ => .refl _ s

theorem evolves_moveReport (s : State) (room : 0 < ownRoom s) : Evolves start alone b s (moveReport s) := by
  unfold moveReport
  split
  next r rest waits =>
    refine .trans (.mgmt _ s { s.mgmt with reports := rest } { MgmtStep.refl _ with reports := fun h => ?_ }) (evolves_placeOwn _ _ room)
    rw [waits] at h
    exact (Nat.le_succ _).trans h
  · exact .refl _ s

theorem evolves_moveReports : ∀ (n : Nat) (s : State), Evolves start alone b s (moveReports n s)
  | 0, s => .refl _ s
  | n + 1, s => evolves_ite
      (fun c => .trans (evolves_moveReport s (by omega)) (evolves_moveReports n _)) fun _ => .refl _ s

theorem evolves_refreshPins (s : State) : Evolves start alone b s (refreshPins s) :=
  .rest b s s.nodeAddr s.lastId s.jobReads s.turns (pinLevels s)

theorem evolves_finish (s : State) : Evolves start alone b s (finish s) :=
  .trans (.trans (.trans (evolves_dropMarker s) (evolves_placeAttn _)) (evolves_moveReports _ _)) (evolves_refreshPins _)

theorem evolves_handReport (r : Report) (s : State) : Evolves start alone b s (handReport r s) :=
  evolves_ite (fun c => .mgmt _ _ _ { MgmtStep.refl _ with reports := fun _ => by simp; omega }) fun _ =>
    .trans (.mgmt _ s { s.mgmt with reportsLost := bump s.mgmt.reportsLost }
      { MgmtStep.refl _ with counters := fun h => inCount_pair.mpr ⟨bump_le _, (inCount_pair.mp h).2⟩ }) (evolves_raise _ _)

end Operations

end Sys2Proof.Machine
end

section
/-! PROOFS. The operations of the Nip Planner, the Trim Planner, the Web Map and the Station Scheduler as chains of elementary
changes. -/

namespace Sys2Proof.Machine

/-! ## The nip plan (R129 to R134) -/

@[simp] theorem flagOwners_nip (d : BitVec 12) (es : List ZoneEntry) (s : State) : (flagOwners d es s).nip = s.nip := by
  unfold flagOwners
  induction es generalizing s with
  | nil => rfl
  | cons e es ih => rw [List.foldl_cons, ih, flagSeg_nip]

@[simp] theorem flagOwners_web (d : BitVec 12) (es : List ZoneEntry) (s : State) : (flagOwners d es s).web = s.web := by
  unfold flagOwners
  induction es generalizing s with
  | nil => rfl
  | cons e es ih => rw [List.foldl_cons, ih, flagSeg_web]

/-- What a recomputation leaves of the Nip Planner: only the plan, the offer and the note of the begun entries are new. -/
theorem recompute_nip (s : State) : ∃ begun, (recompute s).nip =
    { s.nip with
      plan := planOf (banned s.web) s.setup.policy s.setup.bridge s.nip.zones
      begun := begun
      offer := offerOf { s.nip with plan := planOf (banned s.web) s.setup.policy s.setup.bridge s.nip.zones } (lamPos s) } := by
  have pos : ∀ d es, lamPos (flagOwners d es s) = lamPos s := fun d es => by
    have h := inside_flagOwners d es s
    have lam : (flagOwners d es s).lam.record = s.lam.record := h.stationRecord .lam
    simp only [lamPos, recordOr, h.tracker, lam]
  unfold recompute
  dsimp only
  split
  · rw [raise_nip, flagOwners_nip]
    have : ∀ p u, lamPos (raise p u) = lamPos u := fun _ _ => rfl
    rw [this, pos]
    exact ⟨_, rfl⟩
  · exact ⟨_, rfl⟩

@[simp] theorem recompute_web (s : State) : (recompute s).web = s.web := by
  unfold recompute
  dsimp only
  split <;> simp

theorem planCurrent_recompute (s : State) : PlanCurrent (recompute s) := by
  obtain ⟨begun, e⟩ := recompute_nip s
  unfold PlanCurrent
  rw [e, recompute_web, (inside_recompute s).setup]

/-- An ENGAGE is offered only while OPEN, a RELEASE never (R133, R134). -/
theorem offerOf_kind {n : Nip} {lam : Word32} {o : Offer} (h : offerOf n lam = some o) :
    (o.kind = .engage → n.commanded = .opened) ∧ (o.kind = .release → n.commanded ≠ .opened) := by
  unfold offerOf at h
  split at h
  next c =>
    split at h
    · cases h; simp [c]
    · cases h
  next c =>
    unfold offerOpened at h
    dsimp only at h
    split at h
    · cases h; simp [c]
    · split at h
      · cases h; simp [c]
      · cases h
  next c =>
    unfold offerClosed at h
    split at h <;> (cases h; simp [c])

section Operations

variable {start : Lane → Prop} {alone : Prop} {b : Bool}

theorem evolves_flagOwners (d : BitVec 12) (es : List ZoneEntry) (s : State) : Evolves start alone b s (flagOwners d es s) :=
  evolves_foldl (fun acc (e : ZoneEntry) => flagSeg e.lane e.seg d acc) (fun e s => evolves_flagSeg e.lane e.seg d s) es s

theorem evolves_recompute (s : State) : Evolves start alone b s (recompute s) := by
  refine .settled ?_ fun _ => planCurrent_recompute s
  have agrees := recompute_nip s
  unfold recompute at agrees ⊢
  dsimp only at agrees ⊢
  generalize hu : (if hasConflict (banned s.web) s.nip.zones = true then _ else s) = u at agrees ⊢
  have same : u.nip = s.nip ∧ Evolves start alone true s u := by
    subst hu
    split
    · exact ⟨by simp, .trans (evolves_flagOwners _ _ s) (evolves_raise _ _)⟩
    · exact ⟨rfl, .refl _ s⟩
  obtain ⟨hn, hs⟩ := same
  obtain ⟨begun, e⟩ := agrees
  refine hs.trans (.nip _ _ _ { NipStep.refl b _ with agrees := fun h => ?_, plan := by simp })
  rw [hn] at h
  exact
    { decided := by rw [e]; exact h.decided
      engage := fun o ho => by rw [e] at ho ⊢; exact (offerOf_kind ho).1
      release := fun o ho => by rw [e] at ho ⊢; exact (offerOf_kind ho).2
      temp := by rw [e]; exact h.temp }

/-! ## Issue (R108, R135) -/

/-- Issuing at a READY station makes it BUSY with the action. -/
theorem stationStep_issue {x : StationState} (ready : x.mode = .ready) (i : Issued) :
    StationStep x { x with mode := .busy, outstanding := some i } where
  agrees h := ⟨by simp, by have := h.2; simp_all [StationState.configured]⟩
  counters h := h

theorem evolves_issueCore (st : Station) (act : Action) (delay estimate : Nat) (s : State)
    (ready : (s.station st).mode = .ready) : Evolves start alone b s (issueCore st act delay estimate s) := by
  refine .trans (.trans (.rest b s s.nodeAddr (nextId s.lastId) s.jobReads s.turns s.pins)
    (evolves_modStation st _ _ (stationStep_issue ?_ _))) (evolves_sendUrgent _ _)
  cases st <;> exact ready

theorem evolves_flagEstimated (l : Lane) (act : Action) (s : State) : Evolves start alone b s (flagEstimated l act s) := by
  unfold flagEstimated
  split
  · exact evolves_ite (fun _ => evolves_flagSeg _ _ _ s) fun _ => .refl _ s
  · exact .refl _ s

theorem evolves_lateEngage (o : Offer) (n : Nat) (s : State) : Evolves start alone b s (lateEngage o n s) :=
  evolves_ite (fun _ => evolves_flagOwners _ _ s) fun _ => .refl _ s

theorem evolves_engageTemp (o : Offer) (s : State) : Evolves start alone b s (engageTemp o s) :=
  evolves_ite (fun _ => .trans (evolves_flagOwners _ _ s) (evolves_raise _ _)) fun _ => .refl _ s

theorem nipAgrees_record (o : Offer) (id : BitVec 16) {n : Nip} (h : NipAgrees n) : NipAgrees (nipRecord o id n) where
  decided := by cases o with | mk k _ _ _ => cases k <;> simp [nipRecord, commandedBy]
  engage := by simp [nipRecord]
  release := by simp [nipRecord]
  temp := h.temp

theorem evolves_nipIssued (o : Offer) (n : Nat) (id : BitVec 16) (s : State) :
    Evolves start alone b s (nipIssued o n id s) := by
  refine .trans ?_ (evolves_recompute _)
  have recorded : Evolves start alone b s { s with nip := nipRecord o id s.nip } :=
    .nip _ _ _ { NipStep.refl b _ with agrees := nipAgrees_record o id }
  refine evolves_ite (fun _ => ?_) fun _ => recorded
  refine .trans (recorded.trans (.trans (evolves_lateEngage o n _) (evolves_engageTemp o _))) ?_
  exact .nip _ _ _ { NipStep.refl b _ with agrees := fun h => ⟨h.decided, h.engage, h.release, h.temp⟩ }

theorem evolves_lamTest (s : State) : Evolves start alone b s (lamTest s) := by
  unfold lamTest
  split
  · refine evolves_ite (fun due => ?_) fun _ => .refl _ s
    have ready := of_decide_eq_true (Bool.and_eq_true_iff.mp due).1
    exact .trans (evolves_issueCore .lam _ _ _ s ready) (evolves_nipIssued _ _ _ _)
  · exact .refl _ s

theorem evolves_nipChange (s : State) : Evolves start alone b s (nipChange s) :=
  .trans (evolves_recompute s) (evolves_lamTest _)

/-- Work that leaves the plan behind, with the recomputation that follows it. -/
theorem evolves_replanned {s u : State} (h : Evolves start alone true s u) : Evolves start alone b s (nipChange u) :=
  .trans (.settled (h.trans (evolves_recompute u)) fun _ => planCurrent_recompute u) (evolves_lamTest _)

/-- Work that is followed by a recomputation only where it changed the zone list. -/
theorem evolves_nipChangeIf {c : Bool} {s u : State} (h : Evolves start alone true s u)
    (same : c = false → PlanCurrent s → PlanCurrent u) : Evolves start alone b s (nipChangeIf c u) :=
  evolves_ite (fun _ => evolves_replanned h) fun hc => .settled h (same (by simpa using hc))

theorem evolves_nipFinal (id : BitVec 16) (done : Bool) (s : State) : Evolves start alone b s (nipFinal id done s) := by
  unfold nipFinal
  split
  · exact evolves_ite
      (fun _ => .nip _ _ _ { NipStep.refl b _ with agrees := fun h => ⟨h.decided, h.engage, h.release, h.temp⟩ }) fun _ => .refl _ s
  · exact .refl _ s

/-! ## Zone entries and temperature (R126, R139, R141) -/

theorem evolves_passZones (s : State) : Evolves start alone b s (passZones s) := by
  unfold passZones
  dsimp only
  generalize hu : flagOwners defLamShort _ s = u
  have hn : u.nip = s.nip := by rw [← hu, flagOwners_nip]
  have hw : u.web = s.web := by rw [← hu, flagOwners_web]
  have hs : u.setup = s.setup := by rw [← hu]; exact (inside_flagOwners _ _ _).setup
  refine evolves_nipChangeIf
    (.trans (hu ▸ evolves_flagOwners _ _ s) (.nip _ _ _
      { agrees := fun h => ⟨h.decided, h.engage, h.release, h.temp⟩
        room := fun h => (List.length_filter_le _ _).trans (hn ▸ h)
        owned := fun h e he => h e (hn.symm ▸ (List.mem_filter.mp he).1)
        plan := by simp })) fun none h => ?_
  have kept : s.nip.zones.filter (fun e => !entryPassed (lamPos s) e) = s.nip.zones :=
    List.filter_eq_self.mpr fun e he => by
      by_contra passed
      have : e ∈ s.nip.zones.filter (entryPassed (lamPos s)) := List.mem_filter.mpr ⟨he, by simpa using passed⟩
      simp_all
  simpa [PlanCurrent, kept, hn, hw, hs] using h

theorem evolves_closedTemp (s : State) : Evolves start alone b s (closedTemp s) :=
  evolves_ite (fun _ => .trans (evolves_flagOwners _ _ s) (evolves_raise _ _)) fun _ => .refl _ s

theorem evolves_takeStatus (src raw : Byte) (sensor : NipSensor) (s : State) :
    Evolves start alone b s (takeStatus src raw sensor s) :=
  evolves_ite
    (fun _ =>
      .trans
        (.nip _ s
          { s.nip with
            temp := convertTemp (recordOr s.lam).table raw.toNat, sensor := some sensor, tempValid := true
            validity := some 2000 }
          { NipStep.refl b _ with agrees := fun h => ⟨h.decided, h.engage, h.release, by simp⟩ })
        (evolves_closedTemp _))
    fun _ => .refl _ s

theorem evolves_validityExpiry (s : State) : Evolves start alone b s (validityExpiry s) := by
  unfold validityExpiry
  split
  · exact .trans
      (.nip _ s { s.nip with tempValid := false, validity := none }
        { NipStep.refl b _ with agrees := fun h => ⟨h.decided, h.engage, h.release, by simp⟩ })
      (evolves_closedTemp _)
  · exact .refl _ s

theorem evolves_tickValidity (s : State) : Evolves start alone b s (tickValidity s) := by
  unfold tickValidity
  split
  next runs =>
    refine evolves_ite (fun _ => evolves_validityExpiry s) fun _ => .nip _ _ _ { NipStep.refl b _ with agrees := fun h => ?_ }
    exact ⟨h.decided, h.engage, h.release, by have := h.temp; simp_all⟩
  · exact .refl _ s

/-! ## Knife actions (R154, R156) -/

theorem segStep_shortTest (job : JobDef) (p : Word32) (g : Segment) : SegStep g (shortTest job p g).1 := by
  unfold shortTest
  dsimp only
  split
  · split <;> exact { SegStep.refl _ with }
  · exact { SegStep.refl _ with }

theorem evolves_testShort (l : Lane) (s : State) : Evolves start alone b s (testShort l s) := by
  have tested : Evolves start alone b s (s.modLane l (fun x =>
      { x with segs := x.segs.map (fun g => (shortTest (s.jobOf g) (trimPos l s) g).1) })) :=
    evolves_modLane l _ s (laneStep_segs _ fun g => segStep_shortTest _ _ g)
  exact evolves_ite (fun _ => tested.trans (evolves_raise _ _)) fun _ => tested

theorem segStep_watchFinal (job : JobDef) (p : Word32) (key : Nat) (done : Bool) (g : Segment) :
    SegStep g (watchFinal job p key done g) := by
  unfold watchFinal
  split
  · split <;> exact { SegStep.refl _ with }
  · exact { SegStep.refl _ with }

theorem planFinal_counters (key : Nat) (done : Bool) (x : LaneState) :
    laneCounters (planFinal key done x) = laneCounters x := by
  unfold planFinal
  dsimp only
  split
  · split <;> rfl
  · rfl

theorem evolves_trimFinal (l : Lane) (key : Nat) (done : Bool) (s : State) :
    Evolves start alone b s (trimFinal l key done s) := by
  have finished : Evolves start alone b s (s.modLane l (fun x =>
      { planFinal key done x with segs := x.segs.map (fun g => watchFinal (s.jobOf g) (trimPos l s) key done g) })) := by
    obtain ⟨hstretch, hcuts, hknives, hmode⟩ := planFinal_kept key done (s.lane l)
    exact evolves_modLane l _ s
      { segs := ⟨_, rfl, fun g => segStep_watchFinal _ _ _ _ g⟩
        mode := .inl hmode
        stretch := fun h => hstretch.symm ▸ h
        cuts := (congrArg List.length hcuts).le
        knives := (congrArg List.length hknives).le
        counters := fun h => (planFinal_counters key done (s.lane l)).symm ▸ h }
  exact evolves_ite (fun _ => finished.trans (evolves_raise _ _)) fun _ => finished

theorem evolves_trimIssued (l : Lane) (key : Nat) (s : State) : Evolves start alone b s (trimIssued l key s) :=
  evolves_modSeg l key _ s fun g => by split <;> exact { SegStep.refl _ with }

/-! ## The Web Map (R74, R78, R87) -/

theorem evolves_drainTest (l : Lane) (s : State) : Evolves start alone b s (drainTest l s) :=
  evolves_ite (fun c => evolves_modLane l _ s { LaneStep.refl (start := start l) (s.lane l) with mode := .inr (.inl ⟨rfl, c.2⟩) }) fun _ => .refl _ s

theorem evolves_leaveMap (l : Lane) (cause : Cause) (g : Segment) (s : State) (hg : g ∈ (s.lane l).segs)
    (hb : b = false → ownsZone l g.id s = false) : Evolves start alone b s (leaveMap l cause g s) := by
  have gone : Evolves start alone b s (unmap l g s) := .leaves _ _ _ _ hg hb
  exact .trans (evolves_ite (fun _ => gone.trans (evolves_handReport _ _)) fun _ => gone) (evolves_drainTest l _)

theorem evolves_retire (l : Lane) (g : Segment) (s : State) (hg : g ∈ (s.lane l).segs) :
    Evolves start alone b s (retire l g s) :=
  evolves_ite (fun _ => evolves_replanned (evolves_leaveMap l _ g s hg (by simp))) fun none =>
    evolves_leaveMap l _ g s hg fun _ => by simpa using none

theorem evolves_retireTest (l : Lane) (id : Nat) (s : State) : Evolves start alone b s (retireTest l id s) := by
  unfold retireTest
  split
  next found => exact evolves_ite (fun _ => evolves_retire l _ s (seg?_mem found).1) fun _ => .refl _ s
  · exact .refl _ s

theorem evolves_closeSeg (l : Lane) (id : Nat) (s : State) : Evolves start alone b s (closeSeg l id s) :=
  .trans (evolves_modSeg l id (fun g => { g with state := .closed, next := none }) s fun g => { SegStep.refl g with closed := fun _ => rfl })
    (evolves_retireTest l id _)

theorem evolves_mapFinal (l : Lane) (act : Action) (fin : FinalState) (s : State) :
    Evolves start alone b s (mapFinal l act fin s) := by
  unfold mapFinal
  split
  · exact .trans (evolves_modSeg l _ (tally (decide (act.kind = .cut)) fin) s fun g => { SegStep.refl g with })
      (evolves_retireTest l _ _)
  · exact .refl _ s

theorem evolves_flagOwner (l : Lane) (act : Action) (d : BitVec 12) (s : State) :
    Evolves start alone b s (flagOwner l act d s) := by
  unfold flagOwner
  split
  · exact evolves_flagSeg _ _ _ s
  · exact .refl _ s

/-! ## The scheduler (R103 to R120) -/

theorem evolves_popCut (l : Lane) (s : State) : Evolves start alone b s (popCut l s) :=
  evolves_modLane l _ s { LaneStep.refl _ with cuts := by simp }

theorem evolves_popTrim (l : Lane) (s : State) : Evolves start alone b s (popTrim l s) :=
  evolves_modLane l _ s { LaneStep.refl _ with knives := by simp }

theorem popCut_station (l : Lane) (st : Station) (s : State) : (popCut l s).station st = s.station st :=
  State.station_modLane s l _ st

theorem popTrim_station (l : Lane) (st : Station) (s : State) : (popTrim l s).station st = s.station st :=
  State.station_modLane s l _ st

/-- Only a READY cutter is given its head (R98, R105). -/
theorem cutFate_issued {l : Lane} {act : Action} {s : State} (h : cutFate l act s = .issued) :
    (s.station (cutterOf l)).mode = .ready := by
  unfold cutFate at h
  dsimp only at h
  split at h
  · assumption
  all_goals split at h <;> cases h

theorem trimFate_issued {l : Lane} {act : Action} {s : State} (h : trimFate l act s = .issued) :
    (s.station (trimmerOf l)).mode = .ready := by
  unfold trimFate at h
  dsimp only at h
  split at h
  · assumption
  · cases h
  all_goals split at h <;> cases h

theorem evolves_issueCut (l : Lane) (act : Action) (s : State) (ready : (s.station (cutterOf l)).mode = .ready) :
    Evolves start alone b s (issueCut l act s) := by
  have core : Evolves start alone b s
      (flagEstimated l act (issueCore (cutterOf l) act
        (fireDelay (toGo (cutterOf l) act.target s) s.tracker.speed s.setup.horizon) 0 (popCut l s))) :=
    .trans (.trans (evolves_popCut l s) (evolves_issueCore _ _ _ _ _ (popCut_station l _ s ▸ ready))) (evolves_flagEstimated l act _)
  unfold issueCut
  dsimp only
  split
  · exact evolves_ite (fun _ => core.trans (evolves_modSeg l _ _ _ fun _ => { SegStep.refl _ with })) fun _ => core
  · exact core

theorem evolves_skipCut (l : Lane) (act : Action) (s : State) : Evolves start alone b s (skipCut l act s) :=
  .trans (.trans (.trans (evolves_popCut l s) (evolves_flagOwner l act _ _)) (evolves_raise _ _)) (evolves_mapFinal l act _ _)

theorem evolves_cancelCut (l : Lane) (act : Action) (s : State) : Evolves start alone b s (cancelCut l act s) :=
  .trans (.trans (.trans (evolves_popCut l s) (evolves_flagOwner l act _ _)) (evolves_raise _ _)) (evolves_mapFinal l act _ _)

theorem evolves_cutTestN (l : Lane) : ∀ (n : Nat) (s : State), Evolves start alone b s (cutTestN l n s)
  | 0, s => .refl _ s
  | n + 1, s => by
    unfold cutTestN
    split
    · exact .refl _ s
    · split
      next => exact .refl _ s
      next issued => exact evolves_issueCut l _ s (cutFate_issued issued)
      next => exact .trans (evolves_skipCut l _ s) (evolves_cutTestN l n _)
      next => exact .trans (evolves_cancelCut l _ s) (evolves_cutTestN l n _)

theorem evolves_cutTest (l : Lane) (s : State) : Evolves start alone b s (cutTest l s) := evolves_cutTestN l _ s

theorem evolves_issueKnife (l : Lane) (act : Action) (s : State) (ready : (s.station (trimmerOf l)).mode = .ready) :
    Evolves start alone b s (issueKnife l act s) :=
  .trans (.trans (.trans (evolves_popTrim l s) (evolves_issueCore _ _ _ _ _ (popTrim_station l _ s ▸ ready)))
    (evolves_flagEstimated l act _)) (evolves_trimIssued l _ _)

theorem evolves_knifeFinal (l : Lane) (act : Action) (fin : FinalState) (s : State) :
    Evolves start alone b s (knifeFinal l act fin s) := .trans (evolves_trimFinal l _ _ s) (evolves_mapFinal l act fin _)

theorem evolves_cancelKnife (l : Lane) (act : Action) (s : State) : Evolves start alone b s (cancelKnife l act s) :=
  .trans (.trans (.trans (evolves_popTrim l s) (evolves_flagOwner l act _ _)) (evolves_raise _ _)) (evolves_knifeFinal l act _ _)

theorem evolves_trimTestN (l : Lane) : ∀ (n : Nat) (s : State), Evolves start alone b s (trimTestN l n s)
  | 0, s => .refl _ s
  | n + 1, s => by
    unfold trimTestN
    split
    · exact .refl _ s
    · split
      next => exact .refl _ s
      next issued => exact evolves_issueKnife l _ s (trimFate_issued issued)
      next => exact .refl _ s
      next => exact .trans (evolves_cancelKnife l _ s) (evolves_trimTestN l n _)

theorem evolves_trimTest (l : Lane) (s : State) : Evolves start alone b s (trimTest l s) := evolves_trimTestN l _ s

theorem evolves_issueTest (st : Station) (s : State) : Evolves start alone b s (issueTest st s) := by
  cases st
  · exact evolves_lamTest s
  · exact evolves_trimTest .a s
  · exact evolves_trimTest .b s
  · exact evolves_cutTest .a s
  · exact evolves_cutTest .b s

theorem evolves_issueTests (sts : List Station) (s : State) : Evolves start alone b s (issueTests sts s) :=
  .trans (evolves_dropTurn s) (evolves_foldl _ (fun st s => evolves_issueTest st s) _ _)

theorem evolves_handOn (st : Station) (i : Issued) (done : Bool) (s : State) :
    Evolves start alone b s (handOn st i done s) := by
  cases st
  · exact evolves_nipFinal _ _ s
  · exact evolves_knifeFinal .a _ _ s
  · exact evolves_knifeFinal .b _ _ s
  · exact evolves_mapFinal .a _ _ s
  · exact evolves_mapFinal .b _ _ s

/-- The outstanding action of a station ends, and the station is READY or FAULTED. -/
theorem evolves_endOutstanding (st : Station) (m : StationMode) (s : State) (held : (s.station st).outstanding ≠ none)
    (hm : m = .ready ∨ m = .faulted) : Evolves start alone b s (endOutstanding st m s) :=
  evolves_modStation st _ s
    { StationStep.refl _ with
      agrees := fun h => by
        have busy := h.1.mpr held
        have on := h.2
        rcases hm with rfl | rfl <;> simp_all [StationAgrees, StationState.configured] }

theorem evolves_replyDone (st : Station) (i : Issued) (s : State) (held : (s.station st).outstanding ≠ none) :
    Evolves start alone b s (replyDone st i s) :=
  .trans (.trans (evolves_endOutstanding st _ s held (.inl rfl)) (evolves_handOn st i true _)) (evolves_issueTest st _)

theorem evolves_flagFailed (st : Station) (act : Action) (code : Option Byte) (s : State) :
    Evolves start alone b s (flagFailed st act code s) := by
  unfold flagFailed
  split
  · exact evolves_modSeg _ _ _ s fun _ => { SegStep.refl _ with }
  · exact .refl _ s

theorem evolves_failOutstanding (st : Station) (i : Issued) (code : Option Byte) (s : State)
    (held : (s.station st).outstanding ≠ none) : Evolves start alone b s (failOutstanding st i code s) :=
  .trans (.trans (.trans (.trans (evolves_endOutstanding st _ s held (.inr rfl)) (evolves_raise _ _)) (evolves_flagFailed st _ _ _))
    (evolves_handOn st i false _)) (evolves_issueTest st _)

theorem evolves_staleReply (st : Station) (s : State) : Evolves start alone b s (staleReply st s) :=
  evolves_modStation st _ s
    { agrees := fun h => h, counters := fun h => inCount_pair.mpr ⟨bump_le _, (inCount_pair.mp h).2⟩ }

theorem matchReply_held {id : BitVec 16} {x : StationState} {i : Issued} (h : matchReply id x = some i) :
    x.outstanding = some i ∧ x.mode = .busy ∧ i.id = id := by
  unfold matchReply at h
  split at h
  · split at h
    next held c => cases h; exact ⟨held, c⟩
    · cases h
  · cases h

theorem evolves_takeReply (src : Byte) (id : BitVec 16) (code : Option Byte) (s : State) :
    Evolves start alone b s (takeReply src id code s) := by
  unfold takeReply
  split
  · exact .refl _ s
  · split
    · exact evolves_staleReply _ s
    next matched =>
      have held := (matchReply_held matched).1
      split
      · exact evolves_replyDone _ _ s (by simp [held])
      · exact evolves_failOutstanding _ _ _ s (by simp [held])

theorem evolves_removeAct (id : BitVec 16) (s : State) : Evolves start alone b s (removeAct id s) :=
  .south _ s { s.south with urgent := s.south.urgent.filter (fun f => !carriesId id f) }
    { SouthStep.refl _ with agrees := fun h => ⟨h.1, fun idle => ⟨by simp [(h.2 idle).1], (h.2 idle).2⟩⟩ }

theorem removeAct_station (id : BitVec 16) (s : State) (st : Station) : (removeAct id s).station st = s.station st := by
  cases st <;> rfl

theorem evolves_timeoutExpiry (st : Station) (s : State) : Evolves start alone b s (timeoutExpiry st s) := by
  unfold timeoutExpiry
  split
  next i held =>
    have counted : Evolves start alone b s (s.modStation st (fun x => { x with timeouts := bump x.timeouts })) :=
      evolves_modStation st _ s
        { agrees := fun h => h, counters := fun h => inCount_pair.mpr ⟨(inCount_pair.mp h).1, bump_le _⟩ }
    exact (counted.trans (evolves_removeAct i.id _)).trans
      (evolves_failOutstanding st i none _ (by rw [removeAct_station]; simp [held]))
  · exact .refl _ s

theorem evolves_tickStation (st : Station) (s : State) : Evolves start alone b s (tickStation st s) := by
  unfold tickStation
  split
  next held =>
    refine evolves_ite (fun _ => evolves_timeoutExpiry st s) fun _ => evolves_modStation st _ s { StationStep.refl _ with agrees := fun h => ?_ }
    exact ⟨by have := h.1; simp_all, h.2⟩
  · exact .refl _ s

theorem evolves_clearStation (st : Station) (s : State) : Evolves start alone b s (clearStation st s) := by
  refine evolves_ite (fun faulted => .trans (evolves_modStation st _ s { StationStep.refl _ with agrees := fun h => ?_ }) (evolves_issueTest st _))
    fun _ => .refl _ s
  exact ⟨by have := h.1; simp_all, by have := h.2; simp_all [StationState.configured]⟩

end Operations

end Sys2Proof.Machine
end

section
/-! PROOFS. Spoiling, the marks and registration, the Web Event Unit and the Position Tracker as chains of elementary changes. -/

namespace Sys2Proof.Machine

/-! ## Spoiling: what it leaves alone, and the map it leaves (R90, R91) -/

@[simp] theorem handReport_nip (r : Report) (s : State) : (handReport r s).nip = s.nip := by unfold handReport; split <;> rfl
@[simp] theorem handReport_web (r : Report) (s : State) : (handReport r s).web = s.web := by unfold handReport; split <;> rfl
@[simp] theorem handReport_lane (r : Report) (s : State) (l : Lane) : (handReport r s).lane l = s.lane l := by
  unfold handReport; split <;> cases l <;> rfl
@[simp] theorem drainTest_nip (l : Lane) (s : State) : (drainTest l s).nip = s.nip := by unfold drainTest; split <;> simp
@[simp] theorem drainTest_web (l : Lane) (s : State) : (drainTest l s).web = s.web := by unfold drainTest; split <;> simp
@[simp] theorem trimFinal_nip (l : Lane) (key : Nat) (done : Bool) (s : State) : (trimFinal l key done s).nip = s.nip := by
  unfold trimFinal; dsimp only; split <;> simp
@[simp] theorem trimFinal_web (l : Lane) (key : Nat) (done : Bool) (s : State) : (trimFinal l key done s).web = s.web := by
  unfold trimFinal; dsimp only; split <;> simp

@[simp] theorem modSlot_lane (i : Nat) (f : JobRecord → JobRecord) (s : State) (l : Lane) : (s.modSlot i f).lane l = s.lane l := by
  cases l <;> rfl
@[simp] theorem dropZones_lane (l m : Lane) (id : Nat) (s : State) : (dropZones l id s).lane m = s.lane m := by cases m <;> rfl

theorem drainTest_lane_ne {l m : Lane} (h : m ≠ l) (s : State) : (drainTest l s).lane m = s.lane m := by
  unfold drainTest; split
  · exact State.lane_modLane_ne s l m _ h
  · rfl

theorem trimFinal_lane_ne {l m : Lane} (h : m ≠ l) (key : Nat) (done : Bool) (s : State) :
    (trimFinal l key done s).lane m = s.lane m := by
  unfold trimFinal; dsimp only; split <;> simp [State.lane_modLane_ne _ _ _ _ h]

theorem leaveMap_lane_ne {l m : Lane} (h : m ≠ l) (c : Cause) (g : Segment) (s : State) :
    (leaveMap l c g s).lane m = s.lane m := by
  unfold leaveMap
  rw [drainTest_lane_ne h]
  split <;> simp [releaseJob, State.lane_modLane_ne _ _ _ _ h]

theorem leaveMap_segs (l : Lane) (c : Cause) (g : Segment) (s : State) :
    ((leaveMap l c g s).lane l).segs = (s.lane l).segs.filter (fun h => h.id ≠ g.id) := by
  have drained : ∀ u : State, ((drainTest l u).lane l).segs = (u.lane l).segs := fun u => by
    unfold drainTest; split <;> simp
  unfold leaveMap
  rw [drained]
  split <;> simp [releaseJob]

theorem leaveMap_nip (l : Lane) (c : Cause) (g : Segment) (s : State) :
    (leaveMap l c g s).nip = (dropZones l g.id s).nip := by
  unfold leaveMap
  rw [drainTest_nip]
  split <;> simp [releaseJob, dropZones]

theorem leaveMap_web (l : Lane) (c : Cause) (g : Segment) (s : State) : (leaveMap l c g s).web = s.web := by
  unfold leaveMap
  rw [drainTest_web]
  split <;> simp [releaseJob]

/-- The serials of a lane map. -/
def serials (x : LaneState) : List Nat := x.segs.map (fun g => g.id)

theorem serials_map {x : LaneState} {segs : List Segment} {f : Segment → Segment} (h : x.segs = segs.map f)
    (keeps : ∀ g, (f g).id = g.id) : serials x = segs.map (fun g => g.id) := by simp [serials, h, keeps]

/-- A spoiled segment before it leaves its map: flagged, its PLANNED work cancelled, its ISSUED work orphaned (R90, steps 1 to 3). -/
def unplan (l : Lane) (id : Nat) (s : State) : State :=
  let s2 := cancelPlanned l id (flagSeg l id defSpoiled s)
  let s3 := if plannedKnife l id s then trimFinal l id false s2 else s2
  (s3.modStation (cutterOf l) (orphan id)).modStation (trimmerOf l) (orphan id)

theorem spoil_eq (l : Lane) (c : Cause) (id : Nat) (s : State) :
    spoil l c id s = match (unplan l id s).seg? l id with | some g => leaveMap l c g (unplan l id s) | none => unplan l id s :=
  rfl

theorem trimFinal_segs (l : Lane) (key : Nat) (done : Bool) (s : State) : ((trimFinal l key done s).lane l).segs =
    (s.lane l).segs.map (fun g => watchFinal (s.jobOf g) (trimPos l s) key done g) := by
  unfold trimFinal
  dsimp only
  split <;> simp

theorem cancelPlanned_segs (l : Lane) (id : Nat) (s : State) : ((cancelPlanned l id s).lane l).segs = (s.lane l).segs := by
  simp [cancelPlanned]

theorem modSeg_segs (l : Lane) (id : Nat) (f : Segment → Segment) (s : State) :
    ((s.modSeg l id f).lane l).segs = (s.lane l).segs.map (fun g => if g.id = id then f g else g) := by simp [State.modSeg]

theorem unplan_serials (l : Lane) (id : Nat) (s : State) : serials ((unplan l id s).lane l) = serials (s.lane l) := by
  have flagged : ∀ h : Segment, (if h.id = id then Segment.flag defSpoiled h else h).id = h.id := fun h => by split <;> rfl
  unfold unplan
  simp only [State.lane_modStation]
  split
  · refine (serials_map (trimFinal_segs _ _ _ _) fun g => (segStep_watchFinal _ _ _ _ g).id).trans ?_
    rw [cancelPlanned_segs]
    exact serials_map (modSeg_segs _ _ _ _) flagged
  · unfold serials
    rw [cancelPlanned_segs]
    exact serials_map (modSeg_segs _ _ _ _) flagged

theorem unplan_lane_ne {l m : Lane} (h : m ≠ l) (id : Nat) (s : State) : (unplan l id s).lane m = s.lane m := by
  have base : (cancelPlanned l id (flagSeg l id defSpoiled s)).lane m = s.lane m := by
    simp [cancelPlanned, flagSeg, State.modSeg, State.lane_modLane_ne _ _ _ _ h]
  unfold unplan
  simp only [State.lane_modStation]
  split
  · rw [trimFinal_lane_ne h, base]
  · exact base

@[simp] theorem unplan_nip (l : Lane) (id : Nat) (s : State) : (unplan l id s).nip = s.nip := by
  unfold unplan
  simp only [State.nip_modStation]
  split <;> simp [cancelPlanned]

@[simp] theorem unplan_web (l : Lane) (id : Nat) (s : State) : (unplan l id s).web = s.web := by
  unfold unplan
  simp only [State.web_modStation]
  split <;> simp [cancelPlanned]

theorem spoil_lane_ne {l m : Lane} (h : m ≠ l) (c : Cause) (id : Nat) (s : State) : (spoil l c id s).lane m = s.lane m := by
  rw [spoil_eq]
  split
  · rw [leaveMap_lane_ne h, unplan_lane_ne h]
  · exact unplan_lane_ne h id s

theorem spoil_web (l : Lane) (c : Cause) (id : Nat) (s : State) : (spoil l c id s).web = s.web := by
  rw [spoil_eq]
  split
  · rw [leaveMap_web, unplan_web]
  · exact unplan_web l id s

/-- A spoiled serial leaves the map. -/
theorem spoil_serials (l : Lane) (c : Cause) (id : Nat) (s : State) :
    serials ((spoil l c id s).lane l) = (serials (s.lane l)).filter (fun k => k ≠ id) := by
  rw [spoil_eq, ← unplan_serials l id s]
  split
  next g found =>
    rw [serials, leaveMap_segs, (seg?_mem found).2, serials, List.filter_map]
    rfl
  next missing =>
    have absent := List.find?_eq_none.mp missing
    exact (List.filter_eq_self.mpr fun k hk => by
      obtain ⟨g, hg, rfl⟩ := List.mem_map.mp hk
      simpa using absent g hg).symm

/-- Of the Nip Planner, spoiling changes the zone list only: the entries of the spoiled segment leave it (R90, step 5). -/
theorem spoil_nip (l : Lane) (c : Cause) (id : Nat) (s : State) : (spoil l c id s).nip =
    { s.nip with zones := s.nip.zones.filter (fun e =>
      !(decide (e.lane = l) && decide (e.seg = id) && inMap (s.lane l) id)) } := by
  have found_iff : inMap (s.lane l) id = decide (id ∈ serials ((unplan l id s).lane l)) := by
    rw [unplan_serials]
    simp [inMap, serials, List.any_eq]
  rw [spoil_eq, found_iff]
  split
  next g found =>
    obtain ⟨mem, rfl⟩ := seg?_mem found
    have : g.id ∈ serials ((unplan l g.id s).lane l) := List.mem_map.mpr ⟨g, mem, rfl⟩
    simp [leaveMap_nip, dropZones, this]
  next missing =>
    have absent := List.find?_eq_none.mp missing
    have : id ∉ serials ((unplan l id s).lane l) := fun h => by
      obtain ⟨g, hg, e⟩ := List.mem_map.mp h
      exact absent g hg (by simpa using e)
    simp [this, List.filter_true]

theorem spoilList_serials (l : Lane) (c : Cause) : ∀ (ids : List Nat) (s : State),
    serials ((ids.foldl (fun acc id => spoil l c id acc) s).lane l) = (serials (s.lane l)).filter (fun k => k ∉ ids)
  | [], s => by simp [List.filter_true]
  | id :: ids, s => by
    rw [List.foldl_cons, spoilList_serials l c ids, spoil_serials, List.filter_filter]
    exact List.filter_congr fun k _ => by simp [not_or, Bool.and_comm]

/-- Spoiling every segment of a lane leaves its map empty (R91). -/
theorem spoilLane_empty (l : Lane) (c : Cause) (s : State) : ((spoilLane l c s).lane l).segs = [] := by
  have h := spoilList_serials l c (serials (s.lane l)) s
  have : (serials (s.lane l)).filter (fun k => k ∉ serials (s.lane l)) = [] :=
    List.filter_eq_nil_iff.mpr fun k hk => by simpa using hk
  rw [this] at h
  exact List.map_eq_nil_iff.mp h

theorem spoilLane_lane_ne {l m : Lane} (h : m ≠ l) (c : Cause) (s : State) : (spoilLane l c s).lane m = s.lane m := by
  unfold spoilLane
  generalize (s.lane l).segs.map (fun g => g.id) = ids
  induction ids generalizing s with
  | nil => rfl
  | cons id ids ih => rw [List.foldl_cons, ih, spoil_lane_ne h]

theorem spoilLane_web (l : Lane) (c : Cause) (s : State) : (spoilLane l c s).web = s.web := by
  unfold spoilLane
  generalize (s.lane l).segs.map (fun g => g.id) = ids
  induction ids generalizing s with
  | nil => rfl
  | cons id ids ih => rw [List.foldl_cons, ih, spoil_web]

theorem spoilLane_plan (l : Lane) (c : Cause) (s : State) : (spoilLane l c s).nip.plan = s.nip.plan := by
  unfold spoilLane
  generalize (s.lane l).segs.map (fun g => g.id) = ids
  induction ids generalizing s with
  | nil => rfl
  | cons id ids ih => rw [List.foldl_cons, ih, spoil_nip]

theorem spoilLane_planCurrent {l : Lane} {c : Cause} {s : State} (same : (spoilLane l c s).nip.zones = s.nip.zones)
    (h : PlanCurrent s) : PlanCurrent (spoilLane l c s) := by
  unfold PlanCurrent
  rw [spoilLane_plan, spoilLane_web, (inside_spoilLane l c s).setup, same]
  exact h

section Operations

variable {start : Lane → Prop} {alone : Prop} {b : Bool}

theorem evolves_cancelPlanned (l : Lane) (id : Nat) (s : State) : Evolves start alone b s (cancelPlanned l id s) :=
  evolves_modLane l _ s { LaneStep.refl _ with cuts := List.length_filter_le _ _, knives := List.length_filter_le _ _ }

theorem stationStep_orphan (id : Nat) (x : StationState) : StationStep x (orphan id x) := by
  unfold orphan
  split
  next held =>
    split
    · exact { StationStep.refl _ with agrees := fun h => ⟨by have := h.1; simp_all, h.2⟩ }
    · exact { StationStep.refl _ with agrees := fun h => h }
  · exact { StationStep.refl _ with agrees := fun h => h }

theorem evolves_unplan (l : Lane) (id : Nat) (s : State) : Evolves start alone b s (unplan l id s) := by
  have cancelled := (evolves_flagSeg (start := start) (alone := alone) (b := b) l id defSpoiled s).trans
    (evolves_cancelPlanned l id _)
  refine .trans (.trans (evolves_ite (fun _ => cancelled.trans (evolves_trimFinal l id false _)) fun _ => cancelled)
    (evolves_modStation (cutterOf l) _ _ (stationStep_orphan id _))) (evolves_modStation (trimmerOf l) _ _ (stationStep_orphan id _))

theorem evolves_spoil (l : Lane) (c : Cause) (id : Nat) (s : State) : Evolves start alone true s (spoil l c id s) := by
  rw [spoil_eq]
  split
  next found => exact (evolves_unplan l id s).trans (evolves_leaveMap l c _ _ (seg?_mem found).1 (by simp))
  · exact evolves_unplan l id s

theorem evolves_spoilLane (l : Lane) (c : Cause) (s : State) : Evolves start alone true s (spoilLane l c s) :=
  evolves_foldl _ (fun id s => evolves_spoil l c id s) _ s

theorem evolves_disableLane (l : Lane) (s : State) (empty : (s.lane l).segs = []) : Evolves start alone b s (disableLane l s) :=
  evolves_modLane l _ s { LaneStep.refl (start := start l) (s.lane l) with mode := .inr (.inl ⟨rfl, empty⟩) }

/-- Both maps are empty once both lanes are spoiled. -/
theorem evolves_spoilBoth (c : Cause) (s : State) : Evolves start alone true s (spoilBoth c s) := by
  have emptyA : ((spoilLane .b c (spoilLane .a c s)).lane .a).segs = [] := by
    rw [spoilLane_lane_ne (by decide), spoilLane_empty]
  have emptyB : ((disableLane .a (spoilLane .b c (spoilLane .a c s))).lane .b).segs = [] := spoilLane_empty .b c _
  exact .trans (.trans (.trans (evolves_spoilLane .a c s) (evolves_spoilLane .b c _)) (evolves_disableLane .a _ emptyA))
    (evolves_disableLane .b _ emptyB)

/-! ## The windows of the marks and matched marks (R58, R59, R62 to R64) -/

theorem inCount_laneCounters {x : LaneState} : InCount (laneCounters x) ↔
    x.cuesRefused ≤ 65535 ∧ x.strayMarks ≤ 65535 ∧ x.missedMarks ≤ 65535 ∧ x.noRoom ≤ 65535 ∧ x.synthetic ≤ 65535 := by
  simp [InCount, laneCounters]

theorem evolves_bumpRefused (l : Lane) (s : State) : Evolves start alone b s (bumpRefused l s) :=
  evolves_modLane l _ s { LaneStep.refl _ with counters := fun h => by have := bump_le (s.lane l).cuesRefused; simp_all [inCount_laneCounters] }

theorem evolves_bumpStray (l : Lane) (s : State) : Evolves start alone b s (bumpStray l s) :=
  evolves_modLane l _ s { LaneStep.refl _ with counters := fun h => by have := bump_le (s.lane l).strayMarks; simp_all [inCount_laneCounters] }

theorem evolves_bumpNoRoom (l : Lane) (s : State) : Evolves start alone b s (bumpNoRoom l s) :=
  evolves_modLane l _ s { LaneStep.refl _ with counters := fun h => by have := bump_le (s.lane l).noRoom; simp_all [inCount_laneCounters] }

theorem evolves_bumpSynthetic (l : Lane) (s : State) : Evolves start alone b s (bumpSynthetic l s) :=
  evolves_modLane l _ s { LaneStep.refl _ with counters := fun h => by have := bump_le (s.lane l).synthetic; simp_all [inCount_laneCounters] }

theorem evolves_missMarks (l : Lane) (id k : Nat) (s : State) : Evolves start alone b s (missMarks l id k s) :=
  evolves_ite (fun _ => .refl _ s) fun _ =>
    .trans (.trans (evolves_flagSeg l id _ s) (evolves_modLane l _ _
      { LaneStep.refl _ with
        counters := fun h => by
          have := bumpBy_le k ((flagSeg l id defMarkMissed s).lane l).missedMarks
          simp_all [inCount_laneCounters] })) (evolves_raise _ _)

theorem evolves_setNext (l : Lane) (id : Nat) (m : NextMark) (s : State) : Evolves start alone b s (setNext l id m s) :=
  evolves_modSeg l id _ s fun _ => { SegStep.refl _ with }

theorem evolves_expireN (l : Lane) : ∀ (n : Nat) (s : State), Evolves start alone b s (expireN l n s)
  | 0, s => .refl _ s
  | n + 1, s => by
    unfold expireN
    split
    · exact .refl _ s
    · split
      · exact .refl _ s
      · refine evolves_ite (fun _ => ?_) fun _ => .refl _ s
        split
        · exact .trans (.trans (evolves_missMarks l _ 1 s) (evolves_setNext l _ _ _)) (evolves_expireN l n _)
        · exact .trans (evolves_ite (fun _ => evolves_missMarks l _ 1 s) fun _ => .refl _ s) (evolves_closeSeg l _ _)

theorem evolves_expireWindows (l : Lane) (s : State) : Evolves start alone b s (expireWindows l s) := evolves_expireN l 17 s

theorem inStretch_clamp (x : Int) : InStretch (clampStretch x) := by
  unfold InStretch clampStretch clampInt
  omega

theorem inStretch_matched (gain x : Nat) (p : Word32) (g : Segment) (h : InStretch g.stretch) :
    InStretch (matchedStretch gain x p g) := by
  unfold matchedStretch
  dsimp only
  split
  · exact inStretch_clamp _
  · exact h

theorem inStretch_matchedLane (gain x : Nat) (p : Word32) (g : Segment) {old : Int} (h : InStretch old) :
    InStretch (matchedLaneStretch gain x p g old) := by
  unfold matchedLaneStretch
  split
  next measured =>
    unfold matchedStretch
    rw [if_pos measured]
    exact inStretch_clamp _
  · exact h

theorem length_enqueue (a : Action) (q : List Action) : (enqueue a q).length = q.length + 1 := by
  induction q with
  | nil => rfl
  | cons b rest ih => unfold enqueue; split <;> simp [ih]

theorem length_enqueueAll (xs q : List Action) : (xs.foldl (fun acc a => enqueue a acc) q).length = q.length + xs.length := by
  induction xs generalizing q with
  | nil => rfl
  | cons a xs ih => rw [List.foldl_cons, ih, length_enqueue, List.length_cons]; omega

theorem length_retarget (g : Segment) (q : List Action) : (retarget g q).length = q.length := by
  simp [retarget, sortQueue, length_enqueueAll]

theorem evolves_recomputeWork (l : Lane) (g : Segment) (s : State) : Evolves start alone b s (recomputeWork l g s) := by
  refine .trans (.settled (.trans (.trans
      (evolves_modLane l (fun x => { x with cutQueue := retarget g x.cutQueue }) s
        { LaneStep.refl _ with cuts := (length_retarget _ _).le }) ?_)
      (evolves_recompute _))
    fun _ => planCurrent_recompute _) (evolves_issueTests _ _)
  refine .nip _ _ _
    { agrees := fun h => ⟨h.decided, h.engage, h.release, h.temp⟩
      room := fun h => by simpa [rezone] using h
      owned := fun h e he => ?_
      plan := by simp }
  obtain ⟨e', he', rfl⟩ := List.mem_map.mp he
  have := h e' he'
  split <;> exact this

theorem evolves_takeMatch (l : Lane) (p : Word32) (g : Segment) (m : NextMark) (s : State) :
    Evolves start alone b s (takeMatch l p g m s) := by
  unfold takeMatch
  dsimp only
  have worked : Evolves start alone b s _ :=
    .trans (.trans
      (evolves_modSeg l g.id (reanchored (s.lane l).record.gain (markOffset (s.jobOf g) m) p) s
        fun h => { SegStep.refl h with stretch := inStretch_matched _ _ p h })
      (evolves_modLane l (fun y =>
        { y with stretch := matchedLaneStretch (s.lane l).record.gain (markOffset (s.jobOf g) m) p g y.stretch }) _
        { LaneStep.refl _ with stretch := inStretch_matchedLane _ _ p g }))
      (evolves_recomputeWork l (reanchored (s.lane l).record.gain (markOffset (s.jobOf g) m) p g) _)
  split
  · exact worked.trans (evolves_setNext l _ _ _)
  · exact worked.trans (evolves_closeSeg l _ _)

theorem evolves_takeInnerMark (l : Lane) (shape : MarkShape) (p : Word32) (s : State) :
    Evolves start alone b s (takeInnerMark l shape p s) := by
  unfold takeInnerMark
  split
  · exact evolves_bumpStray l s
  · split
    · exact evolves_bumpStray l s
    · exact evolves_ite (fun _ => evolves_takeMatch l p _ _ s) fun _ => evolves_bumpStray l s

/-! ## Registration (R57, R80 to R85) -/

/-- What the capacity test has found room for (R80). -/
theorem hasRoom_iff (l : Lane) (job : JobDef) (s : State) : hasRoom l job s = true ↔
    (s.lane l).segs.length < 16 ∧ (s.lane l).cutQueue.length + job.cuts.length ≤ 32 ∧
      (s.lane l).trimQueue.length + (if trimMisses l job s then 1 else 0) ≤ 32 ∧
      s.nip.zones.length + (if s.lam.configured then job.zones.length else 0) ≤ 64 := by
  simp [hasRoom, and_assoc]

theorem length_zoneEntries (l : Lane) (g : Segment) : ∀ (zones : List Zone) (n : Nat),
    (zoneEntries l g n zones).length = zones.length
  | [], _ => rfl
  | z :: rest, n => by simp [zoneEntries, length_zoneEntries l g rest]

theorem mem_zoneEntries {l : Lane} {g : Segment} {e : ZoneEntry} : ∀ {zones : List Zone} {n : Nat},
    e ∈ zoneEntries l g n zones → e.lane = l ∧ e.seg = g.id
  | z :: rest, n, h => by
    rcases List.mem_cons.mp h with rfl | h
    · exact ⟨rfl, rfl⟩
    · exact mem_zoneEntries h

theorem laneGrows_addToLane {g : Segment} {job : JobDef} {misses : Bool} {target : Word32} {x : LaneState}
    (running : x.mode = .running) (closed : alone → ∀ h ∈ x.segs, h.state = .closed) (segRoom : x.segs.length < 16)
    (cutRoom : x.cutQueue.length + job.cuts.length ≤ 32) (knifeRoom : x.trimQueue.length + (if misses then 1 else 0) ≤ 32)
    (stretch : g.stretch = x.stretch) : LaneGrows alone g x (addToLane g job misses target x) := by
  have cuts : ((cutActions job g).foldl (fun q a => enqueue a q) x.cutQueue).length ≤ 32 := by
    rw [length_enqueueAll]
    simpa [cutActions] using cutRoom
  unfold addToLane
  dsimp only
  split
  next missed =>
    have : x.trimQueue.length + 1 ≤ 32 := by simpa [missed] using knifeRoom
    exact ⟨rfl, running, running, closed, by simp [planKnife]; omega, cuts, by simp [planKnife, length_enqueue]; omega, stretch, rfl, rfl⟩
  next hit =>
    have : x.trimQueue.length ≤ 32 := by simpa [hit] using knifeRoom
    exact ⟨rfl, running, running, closed, by simp; omega, cuts, this, stretch, rfl, rfl⟩

/-- A registration up to its zone entries: the segment in the map with its cuts and its knife action, and the copy taken (R57,
R81, R82, R84). -/
def enroll (l : Lane) (tag : Byte) (slot : Nat) (p : Word32) (r : JobRecord) (s : State) : State :=
  let s1 := (s.modSlot slot takeCopy).modLane l
    (addToLane (newSegment l tag slot p r.defn (takeCopy r).registered s) r.defn (trimMisses l r.defn s) (knifeTarget l s))
  let s2 := if trimLost l r.defn s then raise prioTrimShort s1 else s1
  { s2 with nextSeg := s2.nextSeg + 1 }

/-- The zone entries of a registration, in the list with those that stood there (R83). -/
def enrollZones (l : Lane) (tag : Byte) (slot : Nat) (p : Word32) (r : JobRecord) (s : State) : State :=
  let u := enroll l tag slot p r s
  let entries := zoneEntries l (newSegment l tag slot p r.defn (takeCopy r).registered s) 0 r.defn.zones
  { u with nip := { u.nip with zones := u.nip.zones ++ entries } }

theorem register_eq (l : Lane) (tag : Byte) (slot : Nat) (p : Word32) (r : JobRecord) (s : State) :
    register l tag slot p r s =
      issueTests (touched l (trimMisses l r.defn s) (s.lam.configured && !r.defn.zones.isEmpty))
        (if (s.lam.configured && !r.defn.zones.isEmpty) = true then recompute (enrollZones l tag slot p r s)
          else enroll l tag slot p r s) := rfl

theorem newSegment_id (l : Lane) (tag : Byte) (slot : Nat) (p : Word32) (job : JobDef) (n : Nat) (s : State) :
    (newSegment l tag slot p job n s).id = s.nextSeg := rfl

@[simp] theorem enroll_nip (l : Lane) (tag : Byte) (slot : Nat) (p : Word32) (r : JobRecord) (s : State) :
    (enroll l tag slot p r s).nip = s.nip := by
  unfold enroll; dsimp only; split <;> simp

@[simp] theorem enroll_web (l : Lane) (tag : Byte) (slot : Nat) (p : Word32) (r : JobRecord) (s : State) :
    (enroll l tag slot p r s).web = s.web := by
  unfold enroll; dsimp only; split <;> simp

theorem enroll_lane (l : Lane) (tag : Byte) (slot : Nat) (p : Word32) (r : JobRecord) (s : State) :
    (enroll l tag slot p r s).lane l =
      addToLane (newSegment l tag slot p r.defn (takeCopy r).registered s) r.defn (trimMisses l r.defn s) (knifeTarget l s)
        (s.lane l) := by
  have next : ∀ (u : State) (n : Nat), ({ u with nextSeg := n } : State).lane l = u.lane l := fun u n => by cases l <;> rfl
  unfold enroll
  dsimp only
  rw [next]
  split <;> simp

theorem enroll_lane_ne {l m : Lane} (h : m ≠ l) (tag : Byte) (slot : Nat) (p : Word32) (r : JobRecord) (s : State) :
    (enroll l tag slot p r s).lane m = s.lane m := by
  have next : ∀ (u : State) (n : Nat), ({ u with nextSeg := n } : State).lane m = u.lane m := fun u n => by cases m <;> rfl
  unfold enroll
  dsimp only
  rw [next]
  split <;> simp [State.lane_modLane_ne _ _ _ _ h]

theorem addToLane_segs (g : Segment) (job : JobDef) (misses : Bool) (target : Word32) (x : LaneState) :
    (addToLane g job misses target x).segs = x.segs ++ [g] := by
  unfold addToLane
  dsimp only
  split <;> rfl

section Register

variable {l : Lane} {tag : Byte} {slot : Nat} {p : Word32} {r : JobRecord} {s : State}

theorem evolves_enroll (held : s.slot slot = some r) (room : hasRoom l r.defn s = true) (running : (s.lane l).mode = .running)
    (closed : alone → ∀ h ∈ (s.lane l).segs, h.state = .closed) : Evolves start alone b s (enroll l tag slot p r s) := by
  obtain ⟨segRoom, cutRoom, knifeRoom, -⟩ := (hasRoom_iff l r.defn s).mp room
  have grown := Evolves.registers (start := start) b s l slot r
    (newSegment l tag slot p r.defn (takeCopy r).registered s) _ held rfl rfl
    (laneGrows_addToLane (target := knifeTarget l s) running closed segRoom cutRoom knifeRoom rfl)
  rw [← modSlot_lane slot takeCopy s l] at grown
  unfold enroll
  dsimp only
  split
  · rw [raise_nextSeg, State.nextSeg_modLane]
    exact grown.trans (evolves_raise prioTrimShort _)
  · rw [State.nextSeg_modLane]
    exact grown

/-- The entries of a registration belong to the segment registered with them (R83, R125). -/
theorem evolves_enrollZones (held : s.slot slot = some r) (room : hasRoom l r.defn s = true)
    (running : (s.lane l).mode = .running) (closed : alone → ∀ h ∈ (s.lane l).segs, h.state = .closed)
    (configured : s.lam.configured = true) : Evolves start alone true s (enrollZones l tag slot p r s) := by
  obtain ⟨-, -, -, zoneRoom⟩ := (hasRoom_iff l r.defn s).mp room
  rw [if_pos configured] at zoneRoom
  refine (evolves_enroll held room running closed).trans (.nip _ _ _
    { agrees := fun h => ⟨h.decided, h.engage, h.release, h.temp⟩
      room := fun _ => by simpa [length_zoneEntries] using zoneRoom
      owned := fun h e he => ?_
      plan := by simp })
  rcases List.mem_append.mp he with old | new
  · exact h e old
  · obtain ⟨hl, hseg⟩ := mem_zoneEntries new
    rw [hl, hseg, enroll_lane, inMap, addToLane_segs]
    simp

theorem evolves_register (held : s.slot slot = some r) (room : hasRoom l r.defn s = true)
    (running : (s.lane l).mode = .running) (closed : alone → ∀ h ∈ (s.lane l).segs, h.state = .closed) :
    Evolves start alone b s (register l tag slot p r s) := by
  rw [register_eq]
  refine .trans (evolves_ite (fun zoned => ?_) fun _ => evolves_enroll held room running closed) (evolves_issueTests _ _)
  have configured := (Bool.and_eq_true_iff.mp zoned).1
  exact .settled (.trans (evolves_enrollZones held room running closed configured) (evolves_recompute _))
    fun _ => planCurrent_recompute _

end Register

/-! ## Cue acceptance (R50 to R57) -/

theorem evolves_acceptCue (l : Lane) (tag : Byte) (p : Word32) (s : State) (running : (s.lane l).mode = .running)
    (closed : alone → ∀ h ∈ (s.lane l).segs, h.state = .closed) : Evolves start alone b s (acceptCue l tag p s) := by
  have refused : Evolves start alone b s (raise prioCueRefused (bumpRefused l s)) :=
    (evolves_bumpRefused l s).trans (evolves_raise _ _)
  unfold acceptCue
  split
  · split
    next held =>
      exact evolves_ite (fun room => evolves_register held room running closed) fun _ =>
        (evolves_bumpNoRoom l s).trans (evolves_raise _ _)
    · exact refused
  all_goals exact refused

theorem evolves_closeByCue (l : Lane) (g : Segment) (s : State) : Evolves start alone b s (closeByCue l g s) :=
  evolves_ite (fun _ => .trans (evolves_missMarks l _ _ s) (evolves_closeSeg l _ _)) fun _ => .refl _ s

theorem MapAfter.closed {l : Lane} {s t : State} (h : MapAfter l s t) (c : ∀ g ∈ (s.lane l).segs, g.state = .closed) :
    ∀ g ∈ (t.lane l).segs, g.state = .closed := by
  obtain ⟨p, f, e, grown, -⟩ := h.segs
  intro g hg
  rw [e] at hg
  obtain ⟨x, hx, rfl⟩ := List.mem_map.mp hg
  rw [(grown x).state]
  exact c x (List.mem_filter.mp hx).1

theorem MapAfter.running {l : Lane} {s t : State} (h : MapAfter l s t) (r : (s.lane l).mode = .running) :
    (t.lane l).mode = .running := by
  rcases h.mode with same | ⟨draining, -⟩
  · rw [same, r]
  · rw [r] at draining; cases draining

theorem missMarks_segs (l : Lane) (id k : Nat) (s : State) : ((missMarks l id k s).lane l).segs =
    if k = 0 then (s.lane l).segs
    else (s.lane l).segs.map (fun g => if g.id = id then g.flag defMarkMissed else g) := by
  unfold missMarks
  split
  · rfl
  · rw [raise_lane, State.lane_modLane]
    exact modSeg_segs _ _ _ _

theorem missMarks_mode (l : Lane) (id k : Nat) (s : State) : ((missMarks l id k s).lane l).mode = (s.lane l).mode := by
  unfold missMarks
  split
  · rfl
  · simp [flagSeg, State.modSeg]

/-- The segments of a map but its newest are CLOSED (R46, R60). -/
def OlderClosed (x : LaneState) : Prop := ∀ g ∈ x.segs.dropLast, g.state = .closed

theorem newest_mem_or {x : LaneState} {g h : Segment} (hg : newest x = some g) (hh : h ∈ x.segs) :
    h ∈ x.segs.dropLast ∨ h = g := by
  obtain ⟨front, e⟩ := List.getLast?_eq_some_iff.mp hg
  rw [e] at hh ⊢
  simpa using hh

/-- A passing cue leaves every segment of the map CLOSED (R53, R60). -/
theorem closeByCue_closed {l : Lane} {g : Segment} {s : State} (older : OlderClosed (s.lane l))
    (hg : newest (s.lane l) = some g) : ∀ h ∈ ((closeByCue l g s).lane l).segs, h.state = .closed := by
  unfold closeByCue
  split
  next =>
    refine (mapAfter_retireTest l l g.id _).closed fun h hh => ?_
    rw [modSeg_segs] at hh
    obtain ⟨h1, hh1, rfl⟩ := List.mem_map.mp hh
    split
    · rfl
    next other =>
      rw [missMarks_segs] at hh1
      split at hh1
      · rcases newest_mem_or hg hh1 with old | rfl
        · exact older _ old
        · exact absurd rfl other
      · obtain ⟨h2, hh2, rfl⟩ := List.mem_map.mp hh1
        split at other
        next same => exact absurd same other
        next =>
          split
          next same => exact absurd same ‹_›
          · rcases newest_mem_or hg hh2 with old | rfl
            · exact older _ old
            · exact absurd rfl other
  next notOpen =>
    intro h hh
    rcases newest_mem_or hg hh with old | rfl
    · exact older _ old
    · cases hs : h.state
      · exact absurd hs notOpen
      · rfl

theorem closeByCue_running {l : Lane} {g : Segment} {s : State} (r : (s.lane l).mode = .running) :
    ((closeByCue l g s).lane l).mode = .running := by
  unfold closeByCue
  split
  · refine (mapAfter_retireTest l l g.id _).running ?_
    simp only [State.modSeg, State.lane_modLane]
    rw [missMarks_mode, r]
  · exact r

theorem evolves_takeCue (l : Lane) (tag : Byte) (p : Word32) (s : State) (running : (s.lane l).mode = .running)
    (older : alone → OlderClosed (s.lane l)) : Evolves start alone b s (takeCue l tag p s) := by
  refine evolves_ite (fun _ => (evolves_bumpRefused l s).trans (evolves_raise _ _)) fun _ => ?_
  split
  next none =>
    refine evolves_acceptCue l tag p s running fun _ h hh => ?_
    rw [List.getLast?_eq_none_iff.mp none] at hh
    cases hh
  next g hg =>
    refine evolves_ite (fun _ => ?_) fun _ => evolves_bumpStray l s
    exact evolves_ite
      (fun _ => (evolves_closeByCue l g s).trans
        (evolves_acceptCue l tag p _ (closeByCue_running running) fun a => closeByCue_closed (older a) hg))
      fun _ => (evolves_closeByCue l g s).trans (evolves_bumpStray l _)

theorem evolves_takeMark (l : Lane) (shape : MarkShape) (tag : Byte) (p : Word32) (s : State)
    (older : alone → OlderClosed (s.lane l)) : Evolves start alone b s (takeMark l shape tag p s) := by
  unfold takeMark
  split
  · exact .refl _ s
  · exact evolves_bumpRefused l s
  next running => exact evolves_takeCue l tag p s running older
  · exact evolves_takeInnerMark l _ p s
  · exact evolves_takeInnerMark l _ p s

end Operations

end Sys2Proof.Machine
end

section
/-! PROOFS. The Web Event Unit, the Position Tracker, the requests and the frames as chains of elementary changes; every command
and every tick is one. -/

namespace Sys2Proof.Machine

section Operations

variable {start : Lane → Prop} {alone : Prop} {b : Bool}

/-! ## Web events (R164 to R174) -/

theorem evolves_webBreak (s : State) : Evolves start alone b s (webBreak s) := by
  have latched : Evolves start alone true s { s with web := { s.web with broken := true, absence := 0 } } :=
    .web true s _ { WebStep.refl true s.web with }
  have spoiled := latched.trans (evolves_spoilBoth .webBreak _)
  unfold webBreak
  dsimp only
  generalize spoilBoth .webBreak { s with web := { s.web with broken := true, absence := 0 } } = u at spoiled ⊢
  exact .trans (evolves_replanned (spoiled.trans (.web true u { u.web with profile := none, splices := [] }
    { WebStep.refl true u.web with profile := by simp, splices := by simp }))) (evolves_raise _ _)

theorem evolves_takeAbsence (d : Nat) (s : State) : Evolves start alone b s (takeAbsence d s) := by
  have accumulated : Evolves start alone b s { s with web := { s.web with absence := s.web.absence + d } } :=
    .web b s _ { WebStep.refl b s.web with }
  exact evolves_ite (fun _ => .refl _ s) fun _ =>
    evolves_ite (fun _ => accumulated.trans (evolves_webBreak _)) fun _ => accumulated

theorem evolves_passSplices (s : State) : Evolves start alone b s (passSplices s) :=
  .web b s _ { WebStep.refl _ _ with splices := fun h => (List.length_filter_le _ _).trans h }

theorem evolves_markSpliced (l : Lane) (x : Word32) (s : State) : Evolves start alone b s (markSpliced l x s) :=
  evolves_modLane l _ s (laneStep_segs _ fun g => by split <;> exact { SegStep.refl _ with })

theorem evolves_bumpUnrecorded (s : State) : Evolves start alone b s (bumpUnrecorded s) :=
  .web b s { s.web with unrecorded := bump s.web.unrecorded } { WebStep.refl _ _ with counters := fun _ => by simp [InCount, bump_le] }

theorem evolves_recordSplice (s : State) : Evolves start alone b s (recordSplice s) := by
  refine evolves_ite (fun _ => .refl _ s) fun _ => evolves_ite (fun _ => evolves_bumpUnrecorded s) fun _ =>
    evolves_ite (fun _ => evolves_bumpUnrecorded s) fun room => ?_
  exact .trans (.trans
    (.web b s { s.web with splices := s.web.splices ++ [s.tracker.p + pu s.setup.spliceDist] }
      { WebStep.refl _ _ with splices := fun _ => by simp; omega })
    (evolves_markSpliced .a _ _)) (evolves_markSpliced .b _ _)

theorem evolves_takeFlags (present splice : Bool) (s : State) : Evolves start alone b s (takeFlags present splice s) := by
  have sensed : Evolves start alone b s
      (if present then { s with web := { s.web with present := true, absence := 0, broken := false } }
        else { s with web := { s.web with present := false } }) :=
    evolves_ite (fun _ => .web b s { s.web with present := true, absence := 0, broken := false } { WebStep.refl _ _ with })
      fun _ => .web b s { s.web with present := false } { WebStep.refl _ _ with }
  refine .trans (evolves_ite (fun _ => sensed.trans (evolves_recordSplice _)) fun _ => sensed) (.web b _ _ { WebStep.refl _ _ with })

theorem evolves_takeRoll (media : MediaClass) (width thickness stretch : BitVec 16) (laminate : Bool) (s : State) :
    Evolves start alone b s (takeRoll media width thickness stretch laminate s) := by
  refine evolves_ite (fun _ => ?_) fun _ => evolves_raise _ s
  let profile : Profile := { media := media, width := width, thickness := thickness, stretch := stretch, laminate := laminate }
  have seeded : Evolves start alone true s
      { s with
        web := { s.web with profile := some profile }
        laneA := { s.laneA with stretch := clampStretch stretch.toInt }
        laneB := { s.laneB with stretch := clampStretch stretch.toInt } } :=
    .trans (.trans (.web true s { s.web with profile := some profile } { WebStep.refl true s.web with profile := by simp })
      (.lane true _ .a { s.laneA with stretch := clampStretch stretch.toInt }
        { LaneStep.refl s.laneA with stretch := fun _ => inStretch_clamp _ }))
      (.lane true _ .b { s.laneB with stretch := clampStretch stretch.toInt }
        { LaneStep.refl s.laneB with stretch := fun _ => inStretch_clamp _ })
  exact evolves_replanned (evolves_ite (fun _ => seeded.trans (evolves_raise _ _)) fun _ => seeded)

/-! ## The advance of P and the loss of position (R35, R38) -/

theorem evolves_runTaker (d : Nat) (t : Taker) (s : State) : Evolves start alone b s (runTaker d t s) := by
  cases t
  · exact evolves_expireWindows _ s
  · exact evolves_testShort _ s
  · exact evolves_issueTest _ s
  · exact evolves_passZones s
  · exact evolves_takeAbsence d s
  · exact evolves_passSplices s

theorem evolves_takeAdvance (d : Nat) (s : State) : Evolves start alone b s (takeAdvance d s) :=
  .trans (evolves_dropTurn s) (evolves_foldl _ (fun t s => evolves_runTaker d t s) _ _)

/-- P moves once the rest of the tracker stands; `x` is the tracker but for P. -/
theorem evolves_movePos (p : Word32) (x : Tracker) (s : State) (h : TrackerStep s.setup.revLimit s.tracker { x with p := p }) :
    Evolves start alone b s (movePos p { s with tracker := x }) := by
  have moved : Evolves start alone b s { s with tracker := { x with p := p } } := .tracker b s _ h
  exact evolves_ite (fun _ => moved) fun _ => moved.trans (evolves_takeAdvance _ _)

theorem spoilBoth_planCurrent {c : Cause} {s : State} (same : (spoilBoth c s).nip.zones = s.nip.zones) (h : PlanCurrent s) :
    PlanCurrent (spoilBoth c s) := by
  have zones : (spoilLane .b c (spoilLane .a c s)).nip.zones = s.nip.zones := same
  show (spoilLane .b c (spoilLane .a c s)).nip.plan = planOf (banned (spoilLane .b c (spoilLane .a c s)).web)
    (spoilLane .b c (spoilLane .a c s)).setup.policy (spoilLane .b c (spoilLane .a c s)).setup.bridge
    (spoilLane .b c (spoilLane .a c s)).nip.zones
  rw [zones, spoilLane_plan, spoilLane_plan, spoilLane_web, spoilLane_web, (inside_spoilLane .b c _).setup,
    (inside_spoilLane .a c s).setup]
  exact h

/-- What of the tracker stays in range where the position is lost (R35). -/
structure Losable (revLimit : Nat) (x y : Tracker) : Prop where
  debt : x.debt ≤ revLimit → y.debt ≤ revLimit
  frac : x.frac < 65536 → y.frac < 65536
  counters : InCount [x.jumps, x.outOfRange, x.reverseDiscarded] → InCount [y.jumps, y.outOfRange, y.reverseDiscarded]

theorem Losable.refl (revLimit : Nat) (x : Tracker) : Losable revLimit x x := ⟨fun h => h, fun h => h, fun h => h⟩

theorem evolves_enterLost (x : Tracker) (s : State) (h : Losable s.setup.revLimit s.tracker x) :
    Evolves start alone b s (enterLost { s with tracker := x }) := by
  have lost : Evolves start alone true s { s with tracker := { x with mode := .lost, speed := 0, sampleTimer := none } } :=
    .tracker true s _
      { agrees := fun k =>
          { still := by simp, tracking := by simp, estimated := by simp, holding := by simp, debt := h.debt k.debt }
        speed := by simp
        frac := h.frac
        counters := h.counters }
  refine .trans (evolves_nipChangeIf (lost.trans (evolves_spoilBoth .lost _)) fun same current => ?_) (evolves_raise _ _)
  exact spoilBoth_planCurrent (by simpa using same) current

/-! ## Samples (R23 to R29, R33, R34) -/

theorem debtAfter_le {d : Int} {debt rev : Nat} (h : debt ≤ rev) (accepted : ¬(rev < debtAfter d debt ∧ d < 0)) :
    debtAfter d debt ≤ rev := by
  unfold debtAfter at accepted ⊢
  split <;> split at accepted <;> omega

theorem speedAfter_le {v k dt : Nat} {d : Int} (h : v ≤ 256000) : speedAfter v d k dt ≤ 256000 := by
  unfold speedAfter clampNat
  split <;> omega

/-- `y` is the settled tracker `z` in TRACKING at P_enc, or in HOLDING, its sample timer running (R29, R33, R34). -/
structure Resumes (z y : Tracker) : Prop where
  mode : y.mode = .tracking ∧ y.p = y.pEnc ∨ y.mode = .holding
  timer : y.sampleTimer ≠ none
  same : y = { z with mode := y.mode, p := y.p, sampleTimer := y.sampleTimer, estAdvance := y.estAdvance, estFrac := y.estFrac,
                      estTime := y.estTime }

section Accepted

variable {c t : Word32} {r : Reference} {k : Nat} {s : State}

theorem trackerStep_settle {rev : Nat} {x y : Tracker}
    (accepted : ¬(rev < debtAfter (sdiff c r.count) x.debt ∧ sdiff c r.count < 0))
    (h : Resumes (settleSample c t r k x) y) : TrackerStep rev x y where
  agrees a := by
    have reference : y.reference ≠ none := by rw [h.same]; simp [settleSample]
    exact
    { still := by rcases h.mode with ⟨m, -⟩ | m <;> simp [m]
      tracking := by rcases h.mode with ⟨m, p⟩ | m <;> simp_all [h.timer]
      estimated := by rcases h.mode with ⟨m, -⟩ | m <;> simp [m]
      holding := fun _ => ⟨h.timer, by simp [reference]⟩
      debt := by rw [h.same]; exact debtAfter_le a.debt accepted }
  speed v := by rw [h.same]; exact speedAfter_le v
  frac _ := by rw [h.same]; exact Nat.mod_lt _ (by decide)
  counters n := by rw [h.same]; exact n

theorem losable_settle {rev : Nat} {x : Tracker}
    (accepted : ¬(rev < debtAfter (sdiff c r.count) x.debt ∧ sdiff c r.count < 0)) :
    Losable rev x (settleSample c t r k x) where
  debt h := debtAfter_le h accepted
  frac _ := Nat.mod_lt _ (by decide)
  counters n := n

/-- An accepted sample in TRACKING, ESTIMATED or HOLDING, with its state's own rule (R29, R33, R34). -/
theorem evolves_ownRule (accepted : ¬(s.setup.revLimit < debtAfter (sdiff c r.count) s.tracker.debt ∧ sdiff c r.count < 0))
    (positioned : s.tracker.mode ≠ .noDatum ∧ s.tracker.mode ≠ .lost) :
    Evolves start alone b s (ownRule { s with tracker := settleSample c t r k s.tracker }) := by
  have lost := losable_settle (t := t) (k := k) accepted
  unfold ownRule
  split
  next mode =>
    exact evolves_movePos _ { settleSample c t r k s.tracker with sampleTimer := some s.setup.ts } s
      (trackerStep_settle accepted ⟨.inl ⟨mode, rfl⟩, by simp, rfl⟩)
  · refine evolves_ite (fun _ => ?_) fun _ => evolves_ite (fun _ => ?_) fun _ => ?_
    · exact evolves_movePos _ _ s (trackerStep_settle accepted ⟨.inl ⟨rfl, rfl⟩, by simp, rfl⟩)
    · exact .tracker b s _ (trackerStep_settle accepted ⟨.inr rfl, by simp, rfl⟩)
    · exact evolves_enterLost _ s { Losable.refl s.setup.revLimit s.tracker with debt := lost.debt, frac := lost.frac }
  next mode =>
    refine evolves_ite (fun _ => ?_) fun _ => evolves_ite (fun _ => ?_) fun _ => ?_
    · exact evolves_movePos _ _ s (trackerStep_settle accepted ⟨.inl ⟨rfl, rfl⟩, by simp, rfl⟩)
    · exact .tracker b s { settleSample c t r k s.tracker with sampleTimer := some s.setup.ts }
        (trackerStep_settle accepted ⟨.inr mode, by simp, rfl⟩)
    · exact evolves_enterLost _ s lost
  next mode => exact absurd mode positioned.1
  next mode => exact absurd mode positioned.2

end Accepted

theorem inCount_tracker {x y z : Nat} : InCount [x, y, z] ↔ x ≤ 65535 ∧ y ≤ 65535 ∧ z ≤ 65535 := by simp [InCount]

/-- A change of the tracker's counters and jump run alone. -/
theorem trackerStep_counts {rev : Nat} {x : Tracker} (jumps run out reversed : Nat)
    (h : x.jumps ≤ 65535 → x.outOfRange ≤ 65535 → x.reverseDiscarded ≤ 65535 →
      jumps ≤ 65535 ∧ out ≤ 65535 ∧ reversed ≤ 65535) :
    TrackerStep rev x { x with jumps := jumps, jumpRun := run, outOfRange := out, reverseDiscarded := reversed } where
  agrees a := ⟨a.still, a.tracking, a.estimated, a.holding, a.debt⟩
  speed h := h
  frac h := h
  counters n := by
    obtain ⟨n1, n2, n3⟩ := inCount_tracker.mp n
    exact inCount_tracker.mpr (h n1 n2 n3)

theorem evolves_rejectJump (s : State) : Evolves start alone b s (rejectJump s) :=
  evolves_ite
    (fun _ => evolves_enterLost _ s
      { Losable.refl s.setup.revLimit s.tracker with counters := fun n => inCount_tracker.mpr ⟨bump_le _, (inCount_tracker.mp n).2⟩ })
    fun _ => .tracker b s { s.tracker with jumps := bump s.tracker.jumps, jumpRun := s.tracker.jumpRun + 1 }
      (trackerStep_counts _ _ _ _ fun _ h2 h3 => ⟨bump_le _, h2, h3⟩)

theorem evolves_takeDelta (c t : Word32) (r : Reference) (s : State)
    (positioned : s.tracker.mode ≠ .noDatum ∧ s.tracker.mode ≠ .lost) : Evolves start alone b s (takeDelta c t r s) :=
  evolves_ite (fun _ => evolves_rejectJump s) fun _ =>
    evolves_ite (fun _ => evolves_enterLost _ s { Losable.refl s.setup.revLimit s.tracker with debt := by simp }) fun accepted => evolves_ownRule accepted positioned

theorem evolves_setDatum (c t : Word32) (s : State) :
    Evolves start alone b s { s with tracker := setDatum c t s.setup.ts s.tracker } :=
  .tracker b s _
    { TrackerStep.refl s.setup.revLimit s.tracker with
      agrees := fun _ =>
        { still := by simp [setDatum], tracking := by simp [setDatum], estimated := by simp [setDatum]
          holding := by simp [setDatum], debt := Nat.zero_le _ }
      frac := fun _ => by simp [setDatum] }

theorem evolves_takeSample (c t : Word32) (s : State) : Evolves start alone b s (takeSample c t s) := by
  unfold takeSample
  split
  · exact .refl _ s
  · exact evolves_setDatum c t s
  · exact evolves_setDatum c t s
  next lost datum => exact evolves_takeDelta c t _ s ⟨datum, lost⟩

/-! ## The tracker's timers (R30, R31) and mark conversion (R40, R41) -/

theorem evolves_sampleExpiry (s : State) : Evolves start alone b s (sampleExpiry s) := by
  unfold sampleExpiry
  split
  next n running =>
    refine .trans (.tracker b s
      { s.tracker with mode := .estimated, estAdvance := 0, estFrac := 0, estTime := 0, sampleTimer := none }
      { TrackerStep.refl s.setup.revLimit s.tracker with agrees := fun a => ?_ }) (evolves_raise _ _)
    have referenced : s.tracker.reference ≠ none := by
      cases mode : s.tracker.mode
      · have := (a.still (.inl mode)).2; simp_all
      · exact (a.tracking mode).2.2
      · have := (a.estimated mode).1; simp_all
      · exact (a.holding mode).2
      · have := (a.still (.inr mode)).2; simp_all
    exact { still := by simp, tracking := by simp, estimated := fun _ => ⟨rfl, by simp, referenced⟩, holding := by simp
            debt := a.debt }
  · exact .refl _ s

theorem evolves_estimateTick (s : State) : Evolves start alone b s (estimateTick s) := by
  refine evolves_ite (fun estimated => ?_) fun _ => .refl _ s
  refine evolves_ite (fun _ => evolves_enterLost _ s { Losable.refl s.setup.revLimit s.tracker with }) fun _ => evolves_ite (fun _ => evolves_enterLost _ s { Losable.refl s.setup.revLimit s.tracker with }) fun early => ?_
  refine evolves_movePos _ _ s { TrackerStep.refl s.setup.revLimit s.tracker with agrees := fun a => ?_ }
  obtain ⟨timer, -, reference⟩ := a.estimated estimated
  exact { still := by simp [tickTracker, estimated], tracking := by simp [tickTracker, estimated]
          estimated := fun _ => ⟨timer, not_le.mp early, reference⟩
          holding := by simp [tickTracker, estimated], debt := a.debt }

theorem evolves_estimateExpiry (s : State) : Evolves start alone b s (estimateExpiry s) :=
  evolves_ite (fun _ => evolves_enterLost _ s { Losable.refl s.setup.revLimit s.tracker with }) fun _ => .refl _ s

theorem evolves_tickPosition (atOnce : Bool) (s : State) : Evolves start alone b s (tickPosition atOnce s) := by
  unfold tickPosition
  split
  next running =>
    refine evolves_ite (fun _ => evolves_sampleExpiry s) fun _ => .tracker b s _ { TrackerStep.refl s.setup.revLimit s.tracker with agrees := fun a => ?_ }
    exact { still := fun m => by have := (a.still m).2; simp_all
            tracking := fun m => ⟨(a.tracking m).1, by simp, (a.tracking m).2.2⟩
            estimated := fun m => by have := (a.estimated m).1; simp_all
            holding := fun m => ⟨by simp, (a.holding m).2⟩
            debt := a.debt }
  · exact evolves_estimateTick s

theorem evolves_markOut (s : State) : Evolves start alone b s (markOut s) :=
  .tracker b s { s.tracker with outOfRange := bump s.tracker.outOfRange }
    (trackerStep_counts _ _ _ _ fun h1 _ h3 => ⟨h1, bump_le _, h3⟩)

theorem evolves_markReversed (s : State) : Evolves start alone b s (markReversed s) :=
  .tracker b s { s.tracker with reverseDiscarded := bump s.tracker.reverseDiscarded }
    (trackerStep_counts _ _ _ _ fun h1 h2 _ => ⟨h1, h2, bump_le _⟩)

theorem evolves_convertMark (l : Lane) (shape : MarkShape) (tag : Byte) (c : Word32) (s : State)
    (older : alone → OlderClosed (s.lane l)) : Evolves start alone b s (convertMark l shape tag c s) := by
  refine evolves_ite (fun _ => evolves_markOut s) fun _ => evolves_ite (fun _ => evolves_markReversed s) fun _ => ?_
  split
  · exact evolves_markOut s
  · exact evolves_ite (fun _ => evolves_markOut s) fun _ => evolves_takeMark l shape tag _ s older

end Operations

end Sys2Proof.Machine
end

section
/-! PROOFS. The requests and the frames as chains of elementary changes; every command and every tick is one. -/

namespace Sys2Proof.Machine

/-- The command, or the request a received frame carries for the part, is LANE START. -/
def StartsLane (c : Instr) (s : State) : Prop :=
  match c with
  | .laneStart _ _ => True
  | .frameReceived .north bytes =>
      ∃ f, readFrame bytes = some f ∧ f.kind = 0x40#8 ∧ f.dst = s.nodeAddr ∧ f.payload.head? = some 0x20#8
  | .unknownRequest code _ _ => code = 0x20#8
  | _ => False

section Operations

variable {start : Lane → Prop} {alone : Prop} {b : Bool}

/-! ## Replies (R196, R197) -/

/-- A reply is a chain of elementary changes that leaves the places of the own normal queue as they were. -/
structure ReplyEvolves (start : Lane → Prop) (alone : Prop) (s : State) (r : Reply) : Prop where
  evolves : Evolves start alone false s r.state
  room : ownRoom r.state = ownRoom s

theorem replyEvolves_refuse (r : ResultCode) (s : State) : ReplyEvolves start alone s (refuse r s) := ⟨.refl _ s, rfl⟩

theorem replyEvolves_badField (n : Nat) (s : State) : ReplyEvolves start alone s (badField n s) := ⟨.refl _ s, rfl⟩

theorem ownRoom_congr {s t : State} (h : t.north = s.north) : ownRoom t = ownRoom s := by simp only [ownRoom, h]

theorem replyEvolves_accept {s t : State} (h : Evolves start alone false s t) (north : t.north = s.north) :
    ReplyEvolves start alone s (accept t) := ⟨h, ownRoom_congr north⟩

theorem replyEvolves_ite {c : Prop} [Decidable c] {s : State} {r q : Reply} (hr : c → ReplyEvolves start alone s r)
    (hq : ¬c → ReplyEvolves start alone s q) : ReplyEvolves start alone s (if c then r else q) := by
  split
  · exact hr ‹_›
  · exact hq ‹_›

theorem replyEvolves_sized {n : Nat} {body : List Byte} {s : State} {k : Reply} (h : ReplyEvolves start alone s k) :
    ReplyEvolves start alone s (sized n body s k) := replyEvolves_ite (fun _ => h) fun _ => replyEvolves_refuse _ s

theorem replyEvolves_validated {checks : List (Nat × Bool)} {s : State} {k : Reply} (h : ReplyEvolves start alone s k) :
    ReplyEvolves start alone s (validated checks s k) := by
  unfold validated
  split
  · exact replyEvolves_badField _ s
  · exact h

theorem replyEvolves_onLane {body : List Byte} {s : State} {k : Lane → Reply} (h : ∀ l, ReplyEvolves start alone s (k l)) :
    ReplyEvolves start alone s (onLane body s k) := by
  unfold onLane
  split
  · exact h _
  · exact replyEvolves_badField _ s

theorem replyEvolves_onStation {body : List Byte} {s : State} {k : Station → Reply}
    (h : ∀ st, ReplyEvolves start alone s (k st)) : ReplyEvolves start alone s (onStation body s k) := by
  unfold onStation
  split
  · exact h _
  · exact replyEvolves_badField _ s

/-! ## The Job Table (R12 to R14) -/

theorem inUseAt_putSlot {i : Nat} {r : Option JobRecord} {s : State} (unused : inUseAt i s = 0)
    (fresh : ∀ q, r = some q → q.inUse = 0) (j : Nat) : inUseAt j (putSlot i r s) = inUseAt j s := by
  by_cases e : i = j
  · subst e
    rw [unused]
    unfold inUseAt State.slot putSlot
    by_cases inside : i < s.jobs.length
    · cases r with
      | none => simp [inside]
      | some q => simp [inside, fresh q rfl]
    · rw [List.set_eq_of_length_le (Nat.le_of_not_lt inside)]
      exact unused
  · simp [inUseAt, State.slot, putSlot, List.getElem?_set_ne e]

theorem evolves_putSlot {i : Nat} {r : Option JobRecord} {s : State} (unused : inUseAt i s = 0)
    (fresh : ∀ q, r = some q → q.inUse = 0) : Evolves start alone b s (putSlot i r s) :=
  .jobs b s _ (List.length_set ..) (inUseAt_putSlot unused fresh)

theorem emptyFrom_isEmpty : ∀ {xs : List (Option JobRecord)} {n i : Nat}, emptyFrom n xs = some i → xs[i - n]? = some none ∧ n ≤ i
  | none :: _, n, i, h => by cases h; simp
  | some _ :: rest, n, i, h => by
    obtain ⟨slot, le⟩ := emptyFrom_isEmpty (xs := rest) h
    exact ⟨by rw [show i - n = (i - (n + 1)) + 1 by omega]; simpa using slot, by omega⟩

theorem replyEvolves_placeJob (mode : Nat) (d : JobDef) (s : State) : ReplyEvolves start alone s (placeJob mode d s) := by
  unfold placeJob
  split
  · refine replyEvolves_ite (fun _ => replyEvolves_refuse _ s) fun _ => replyEvolves_ite (fun _ => replyEvolves_refuse _ s) fun unused => ?_
    exact replyEvolves_accept (evolves_putSlot (Nat.eq_zero_of_not_pos unused) (by simp [freshRecord])) rfl
  · refine replyEvolves_ite (fun _ => replyEvolves_refuse _ s) fun _ => ?_
    split
    next empty =>
      have slot := (emptyFrom_isEmpty empty).1
      exact replyEvolves_accept (evolves_putSlot (by simp_all [inUseAt, State.slot]) (by simp [freshRecord])) rfl
    · exact replyEvolves_refuse _ s

theorem replyEvolves_writeJob (body : List Byte) (s : State) : ReplyEvolves start alone s (writeJobReply body s) :=
  replyEvolves_sized (replyEvolves_validated (replyEvolves_placeJob _ _ s))

theorem replyEvolves_deleteJob (body : List Byte) (s : State) : ReplyEvolves start alone s (deleteJobReply body s) := by
  refine replyEvolves_sized ?_
  split
  · exact replyEvolves_ite (fun _ => replyEvolves_refuse _ s) fun unused =>
      replyEvolves_accept (evolves_putSlot (Nat.eq_zero_of_not_pos unused) (by simp)) rfl
  · exact replyEvolves_refuse _ s

theorem replyEvolves_readJob (body : List Byte) (s : State) : ReplyEvolves start alone s (readJobReply body s) := by
  refine replyEvolves_sized ?_
  split
  · split
    · exact ⟨.rest false s s.nodeAddr s.lastId (s.jobReads + 1) s.turns s.pins, rfl⟩
    · exact replyEvolves_refuse _ s
  · exact replyEvolves_refuse _ s

/-! ## Stations, lanes and line setup (R70 to R74, R96, R97, R198) -/

theorem evolves_installStation (st : Station) (r : StationRecord) (s : State) (free : (s.station st).outstanding = none) :
    Evolves start alone b s (installStation st r s) := by
  have written : Evolves start alone b s (s.modStation st (takeRecord r)) := evolves_modStation st _ s
    { StationStep.refl _ with
      agrees := fun h => by
        have idle : (s.station st).mode ≠ .busy := fun busy => h.1.mp busy free
        cases he : r.enabled <;> cases hm : (s.station st).mode <;>
          simp_all [StationAgrees, takeRecord, modeAfterWrite, StationState.configured] }
  unfold installStation
  dsimp only
  exact evolves_ite (fun _ => written.trans (evolves_nipChange _)) fun _ =>
    evolves_ite (fun _ => written.trans (evolves_issueTest st _)) fun _ => written

theorem inside_installStation_north (st : Station) (r : StationRecord) (s : State) :
    (installStation st r s).north = s.north := by
  unfold installStation
  dsimp only
  split
  · rw [(inside_nipChange _).north, State.north_modStation]
  · split
    · rw [(inside_issueTest st _).north, State.north_modStation]
    · exact State.north_modStation s st _

theorem replyEvolves_writeStation (body : List Byte) (s : State) : ReplyEvolves start alone s (writeStationReply body s) := by
  refine replyEvolves_sized (replyEvolves_onStation fun st => replyEvolves_validated
    (replyEvolves_ite (fun _ => replyEvolves_refuse _ s) fun free => ?_))
  refine replyEvolves_accept (evolves_installStation st _ s ?_) (inside_installStation_north st _ s)
  simp only [Bool.or_eq_true, not_or, Option.not_isSome_iff_eq_none] at free
  exact free.1

theorem replyEvolves_clearStation (body : List Byte) (s : State) : ReplyEvolves start alone s (clearStationReply body s) :=
  replyEvolves_sized (replyEvolves_onStation fun st =>
    replyEvolves_accept (evolves_clearStation st s) (inside_clearStation st s).north)

theorem replyEvolves_writeLane (body : List Byte) (s : State) : ReplyEvolves start alone s (writeLaneReply body s) :=
  replyEvolves_sized (replyEvolves_validated (replyEvolves_onLane fun l => replyEvolves_ite
    (fun _ => replyEvolves_accept (evolves_modLane l _ s { LaneStep.refl _ with }) (State.north_modLane s l _)) fun _ => replyEvolves_refuse _ s))

theorem replyEvolves_writeLine (body : List Byte) (s : State) : ReplyEvolves start alone s (writeLineReply body s) :=
  replyEvolves_sized (replyEvolves_validated (replyEvolves_ite
    (fun idle => replyEvolves_accept (.line false s _ idle.1 idle.2) rfl) fun _ => replyEvolves_refuse _ s))

theorem evolves_nipStart (s : State) : Evolves start alone b s (nipStart s) := by
  refine .trans (evolves_ite (fun unknown => ?_) fun _ => .refl _ s) (evolves_nipChange _)
  exact .nip b s { s.nip with releaseRequest := true } { NipStep.refl b s with agrees := fun h => ⟨h.decided, h.engage, h.release, h.temp⟩ }

theorem nipStart_north (s : State) : (nipStart s).north = s.north := by
  unfold nipStart
  rw [(inside_nipChange _).north]
  split <;> rfl

theorem replyEvolves_laneStart (body : List Byte) (s : State) (allowed : ∀ l, (s.lane l).mode = .disabled → start l) :
    ReplyEvolves start alone s (laneStartReply body s) := by
  refine replyEvolves_sized (replyEvolves_onLane fun l => ?_)
  split
  next disabled =>
    refine replyEvolves_ite (fun _ => replyEvolves_accept (.trans ?_ (evolves_nipStart _)) ?_) fun _ => replyEvolves_refuse _ s
    · exact evolves_modLane l _ s { LaneStep.refl (start := start l) (s.lane l) with mode := .inr (.inr (.inr ⟨allowed l disabled, rfl⟩)) }
    · rw [nipStart_north, State.north_modLane]
  · exact replyEvolves_accept (.refl _ s) rfl
  · exact replyEvolves_refuse _ s

theorem replyEvolves_laneDrain (body : List Byte) (s : State) : ReplyEvolves start alone s (laneDrainReply body s) := by
  refine replyEvolves_sized (replyEvolves_onLane fun l => ?_)
  split
  next running =>
    refine replyEvolves_accept (.trans ?_ (evolves_drainTest l _)) ?_
    · exact evolves_modLane l _ s { LaneStep.refl (start := start l) (s.lane l) with mode := .inr (.inr (.inl ⟨rfl, running⟩)) }
    · rw [(inside_drainTest l _).north, State.north_modLane]
  · exact replyEvolves_accept (.refl _ s) rfl
  · exact replyEvolves_refuse _ s

theorem disableLane_nip (l : Lane) (s : State) : (disableLane l s).nip = s.nip := State.nip_modLane s l _

theorem evolves_stopLane (l : Lane) (s : State) : Evolves start alone b s (stopLane l s) := by
  have stopped : Evolves start alone true s (disableLane l (spoilLane l .stop s)) :=
    (evolves_spoilLane l .stop s).trans (evolves_disableLane l _ (spoilLane_empty l .stop s))
  have tested : ∀ {c : Bool} (u : State), Evolves start alone c u (issueTest (trimmerOf l) (issueTest (cutterOf l) u)) :=
    fun u => (evolves_issueTest _ u).trans (evolves_issueTest _ _)
  refine evolves_ite (fun _ => evolves_replanned (stopped.trans (tested _))) fun same => ?_
  refine .trans (.settled stopped fun current => ?_) (tested _)
  rw [disableLane_nip] at same
  have := spoilLane_planCurrent (by simpa using same) current
  unfold PlanCurrent at this ⊢
  rw [disableLane_nip, (inside_disableLane l _).setup]
  simpa [disableLane] using this

theorem inside_stopLane (l : Lane) (s : State) : Inside s (stopLane l s) := by
  have h := (((inside_spoilLane l .stop s).trans (inside_disableLane l _)).trans (inside_issueTest (cutterOf l) _)).trans
    (inside_issueTest (trimmerOf l) _)
  exact h.trans (inside_nipChangeIf _ _)

theorem replyEvolves_laneStop (body : List Byte) (s : State) : ReplyEvolves start alone s (laneStopReply body s) :=
  replyEvolves_sized (replyEvolves_onLane fun l => replyEvolves_accept (evolves_stopLane l s) (inside_stopLane l s).north)

/-! ## The other requests (R37, R51, R199 to R204, R209) -/

theorem replyEvolves_clearLost (body : List Byte) (s : State) : ReplyEvolves start alone s (clearLostReply body s) := by
  refine replyEvolves_sized (replyEvolves_ite (fun lost => replyEvolves_accept (.tracker false s _ ?_) rfl) fun _ => replyEvolves_refuse _ s)
  exact
    { TrackerStep.refl s.setup.revLimit s.tracker with
      agrees := fun a =>
        { still := fun _ => a.still (.inr lost), tracking := by simp [clearLostTracker], estimated := by simp [clearLostTracker]
          holding := by simp [clearLostTracker], debt := Nat.zero_le _ }
      frac := fun _ => by simp [clearLostTracker] }

theorem bumpSynthetic_segs (l m : Lane) (s : State) : ((bumpSynthetic l s).lane m).segs = (s.lane m).segs := by
  unfold bumpSynthetic
  by_cases e : m = l
  · subst e; simp
  · rw [State.lane_modLane_ne _ _ _ _ e]

theorem replyEvolves_injectMark (body : List Byte) (s : State) (older : alone → ∀ l, OlderClosed (s.lane l)) :
    ReplyEvolves start alone s (injectMarkReply body s) := by
  refine replyEvolves_sized (replyEvolves_validated ?_)
  split
  next l shape _ _ =>
    refine replyEvolves_accept ((evolves_bumpSynthetic l s).trans (evolves_takeMark l shape _ _ _ fun a => ?_)) ?_
    · unfold OlderClosed
      rw [bumpSynthetic_segs]
      exact older a l
    · rw [(inside_takeMark _ _ _ _ _).north, bumpSynthetic, State.north_modLane]
  · exact replyEvolves_badField _ s
  · exact replyEvolves_badField _ s

theorem replyEvolves_readStatus (body : List Byte) (s : State) : ReplyEvolves start alone s (readStatusReply body s) :=
  replyEvolves_sized (replyEvolves_ite (fun _ => ⟨.refl _ s, rfl⟩) fun _ =>
    replyEvolves_ite (fun _ => ⟨.refl _ s, rfl⟩) fun _ => replyEvolves_badField _ s)

theorem replyEvolves_readMap (body : List Byte) (s : State) : ReplyEvolves start alone s (readMapReply body s) :=
  replyEvolves_sized (replyEvolves_onLane fun _ => replyEvolves_ite (fun _ => ⟨.refl _ s, rfl⟩) fun _ => replyEvolves_badField _ s)

theorem replyEvolves_clearFlags (body : List Byte) (s : State) : ReplyEvolves start alone s (clearFlagsReply body s) :=
  replyEvolves_sized (replyEvolves_accept (.mgmt false s _ { MgmtStep.refl _ with }) rfl)

theorem replyEvolves_setAttnMask (body : List Byte) (s : State) : ReplyEvolves start alone s (setAttnMaskReply body s) :=
  replyEvolves_sized (replyEvolves_accept (.mgmt false s _ { MgmtStep.refl _ with }) rfl)

theorem evolves_zeroLane (l : Lane) (s : State) : Evolves start alone b s (s.setLane l (s.lane l).zeroed) :=
  .lane b s l _
    { LaneStep.refl (s.lane l) with counters := fun _ => by simp [InCount, laneCounters, LaneState.zeroed] }

theorem evolves_zeroStation (st : Station) (s : State) : Evolves start alone b s (s.setStation st (s.station st).zeroed) :=
  .station b s st _
    { agrees := fun h => h, counters := fun _ => by simp [InCount, stationCounters, StationState.zeroed] }

theorem evolves_zeroCounters (s : State) : Evolves start alone b s (zeroCounters s) := by
  have ports : Evolves start alone b s
      { s with north := { s.north with crcErrors := 0, fwdDrops := 0 }, south := { s.south with crcErrors := 0, fwdDrops := 0 } } :=
    .trans (.north b s { s.north with crcErrors := 0, fwdDrops := 0 } { NorthStep.refl _ with counters := fun _ => by simp [InCount] })
      (.south b _ { s.south with crcErrors := 0, fwdDrops := 0 } { SouthStep.refl _ with counters := fun _ => by simp [InCount] })
  refine ports.trans (.trans (.tracker b _ { s.tracker with jumps := 0, outOfRange := 0, reverseDiscarded := 0 }
    (trackerStep_counts 0 _ 0 0 fun _ _ _ => by simp)) ?_)
  refine .trans (evolves_zeroLane .a _) (.trans (evolves_zeroLane .b _) (.trans (evolves_zeroStation .lam _)
    (.trans (evolves_zeroStation .trimA _) (.trans (evolves_zeroStation .trimB _) (.trans (evolves_zeroStation .cutA _)
      (.trans (evolves_zeroStation .cutB _) ?_))))))
  exact .trans (.web b _ { s.web with unrecorded := 0 } { WebStep.refl _ _ with counters := fun _ => by simp [InCount] })
    (.mgmt b _ { s.mgmt with reportsLost := 0, requestsDropped := 0 } { MgmtStep.refl _ with counters := fun _ => by simp [InCount] })

theorem replyEvolves_clearCounters (body : List Byte) (s : State) : ReplyEvolves start alone s (clearCountersReply body s) :=
  replyEvolves_sized ⟨evolves_zeroCounters s, rfl⟩

theorem replyEvolves_replyTo (code : Byte) (body : List Byte) (s : State) (older : alone → ∀ l, OlderClosed (s.lane l))
    (allowed : code = 0x20#8 → ∀ l, (s.lane l).mode = .disabled → start l) :
    ReplyEvolves start alone s (replyTo code body s) := by
  unfold replyTo
  split
  · exact replyEvolves_writeJob body s
  · exact replyEvolves_deleteJob body s
  · exact replyEvolves_readJob body s
  · exact replyEvolves_writeStation body s
  · exact replyEvolves_writeLane body s
  · exact replyEvolves_writeLine body s
  next is20 => exact replyEvolves_laneStart body s (allowed (BitVec.eq_of_toNat_eq is20))
  · exact replyEvolves_laneDrain body s
  · exact replyEvolves_laneStop body s
  · exact replyEvolves_clearStation body s
  · exact replyEvolves_clearLost body s
  · exact replyEvolves_injectMark body s older
  · exact replyEvolves_readStatus body s
  · exact replyEvolves_readMap body s
  · exact replyEvolves_clearFlags body s
  · exact replyEvolves_setAttnMask body s
  · exact replyEvolves_clearCounters body s
  · exact replyEvolves_refuse _ s

/-! ## Served requests (R196, R210) -/

theorem evolves_dropRequest (s : State) : Evolves start alone b s (dropRequest s) :=
  .mgmt b s { s.mgmt with requestsDropped := bump s.mgmt.requestsDropped }
    { MgmtStep.refl _ with counters := fun h => inCount_pair.mpr ⟨(inCount_pair.mp h).1, bump_le _⟩ }

theorem evolves_answer (code token : Byte) {r : Reply} {s : State} (h : ReplyEvolves start alone s r) (room : ownRoom s ≠ 0) :
    Evolves start alone false s (answer code token r) :=
  h.evolves.trans (evolves_placeOwn _ _ (Nat.pos_of_ne_zero (h.room.symm ▸ room)))

theorem evolves_serve (code token : Byte) {reply : State → Reply} {s : State} (h : ReplyEvolves start alone s (reply s)) :
    Evolves start alone false s (serve code token reply s) :=
  .trans (evolves_ite (fun _ => evolves_dropRequest s) fun room => evolves_answer code token h room) (evolves_finish _)

theorem replyEvolves_lineReset (body : List Byte) (s : State) : ReplyEvolves start alone s (lineResetReply body s) :=
  replyEvolves_sized (replyEvolves_ite (fun _ => ⟨.refl _ s, rfl⟩) fun _ => replyEvolves_badField _ s)

theorem evolves_serveReset (token : Byte) (body : List Byte) (s : State) :
    Evolves start alone false s (serveReset token body s) := by
  refine .trans (evolves_ite (fun _ => evolves_dropRequest s) fun room => ?_) (evolves_finish _)
  have answered := evolves_answer 0x60#8 token (replyEvolves_lineReset (start := start) (alone := alone) body s) room
  exact evolves_ite (fun _ => answered.trans (.warm _ _ _ _)) fun _ => answered

theorem evolves_broadcastReset (body : List Byte) (s : State) : Evolves start alone b s (broadcastReset body s) :=
  evolves_ite (fun _ => .warm _ s _ _) fun _ => .refl _ s

theorem evolves_serveCode (code token : Byte) (body : List Byte) (s : State) (older : alone → ∀ l, OlderClosed (s.lane l))
    (allowed : code = 0x20#8 → ∀ l, (s.lane l).mode = .disabled → start l) :
    Evolves start alone false s (serveCode code token body s) :=
  evolves_ite (fun _ => evolves_serveReset token body s) fun _ => evolves_serve _ _ (replyEvolves_replyTo code body s older allowed)

/-! ## Frames (R180 to R186) -/

theorem evolves_enumerate (f : Frame) (s : State) : Evolves start alone b s (enumerate f s) := by
  have addressed : ∀ a, Evolves start alone b s { s with nodeAddr := a } := fun a =>
    .rest b s a s.lastId s.jobReads s.turns s.pins
  exact evolves_ite (fun _ => evolves_forwardSouth f s) fun _ =>
    evolves_ite (fun _ => (addressed _).trans (evolves_forwardSouth _ _)) fun _ => (addressed _).trans (evolves_forwardSouth _ _)

theorem evolves_dispatchPos (p : List Byte) (s : State) : Evolves start alone b s (dispatchPos p s) := by
  have sampled : ∀ u : State, Evolves start alone b u (finish (takeSample (word32 p 0) (word32 p 4) u)) := fun u =>
    (evolves_takeSample _ _ u).trans (evolves_finish _)
  have flagged : ∀ u : State,
      Evolves start alone b u (finish (takeFlags ((byteAt p 8).testBit 0) ((byteAt p 8).testBit 1) u)) := fun u =>
    (evolves_takeFlags _ _ u).trans (evolves_finish _)
  exact evolves_ite (fun _ => ((evolves_dropTurn s).trans (flagged _)).trans (sampled _)) fun _ =>
    ((evolves_dropTurn s).trans (sampled _)).trans (flagged _)

theorem evolves_dispatchMark (p : List Byte) (s : State) (older : alone → ∀ l, OlderClosed (s.lane l)) :
    Evolves start alone b s (dispatchMark p s) := by
  unfold dispatchMark
  split
  · exact (evolves_convertMark _ _ _ _ s fun a => older a _).trans (evolves_finish _)
  · exact .refl _ s
  · exact .refl _ s

theorem evolves_dispatchRoll (p : List Byte) (s : State) : Evolves start alone b s (dispatchRoll p s) := by
  unfold dispatchRoll
  split
  · exact evolves_ite (fun _ => (evolves_takeRoll _ _ _ _ _ s).trans (evolves_finish _)) fun _ => .refl _ s
  · exact .refl _ s
  · exact .refl _ s

theorem evolves_dispatchWatched (f : Frame) (s : State) (older : alone → ∀ l, OlderClosed (s.lane l)) :
    Evolves start alone b s (dispatchWatched f s) :=
  evolves_ite (fun _ => evolves_ite (fun _ => evolves_dispatchPos _ s) fun _ => .refl _ s) fun _ =>
    evolves_ite (fun _ => evolves_ite (fun _ => evolves_dispatchMark _ s older) fun _ => .refl _ s) fun _ =>
      evolves_ite (fun _ => evolves_dispatchRoll _ s) fun _ => .refl _ s

theorem evolves_dispatchConsumed (f : Frame) (s : State) : Evolves start alone b s (dispatchConsumed f s) := by
  refine evolves_ite (fun _ => ?_) fun _ =>
    evolves_ite (fun _ => evolves_ite (fun _ => (evolves_takeReply _ _ _ s).trans (evolves_finish _)) fun _ => .refl _ s) fun _ =>
      evolves_ite (fun _ => (evolves_takeReply _ _ _ s).trans (evolves_finish _)) fun _ => .refl _ s
  unfold dispatchStatus
  split
  · exact evolves_ite (fun _ => (evolves_takeStatus _ _ _ s).trans (evolves_finish _)) fun _ => .refl _ s
  · exact .refl _ s

theorem evolves_routeNorth (f : Frame) (s : State) (older : alone → ∀ l, OlderClosed (s.lane l))
    (allowed : f.kind = 0x40#8 → f.dst = s.nodeAddr → f.payload.head? = some 0x20#8 →
      ∀ l, (s.lane l).mode = .disabled → start l) : Evolves start alone false s (routeNorth f s) := by
  refine evolves_ite (fun _ => (evolves_enumerate f s).trans (evolves_finish _)) fun _ => evolves_ite (fun here => ?_) fun _ =>
    evolves_ite (fun _ => ?_) fun _ => (evolves_forwardSouth f s).trans (evolves_finish _)
  · refine evolves_ite (fun req => evolves_serveCode _ _ _ s older fun code => ?_) fun _ => .refl _ s
    refine allowed req.1 here ?_
    obtain ⟨x, rest, e⟩ := List.exists_cons_of_length_pos (Nat.lt_of_lt_of_le Nat.zero_lt_two req.2)
    rw [e] at code ⊢
    simpa using code
  · exact .trans (.trans (evolves_ite (fun _ => evolves_broadcastReset _ s) fun _ => .refl _ s) (evolves_forwardSouth f _))
      (evolves_finish _)

theorem forwardNorth_lane (f : Frame) (s : State) (l : Lane) : (forwardNorth f s).lane l = s.lane l := by
  unfold forwardNorth dropNorth
  split
  · cases l <;> rfl
  · cases l <;> rfl

theorem evolves_routeSouth (f : Frame) (s : State) (older : alone → ∀ l, OlderClosed (s.lane l)) :
    Evolves start alone b s (routeSouth f s) := by
  have forwarded : Evolves start alone b s (finish (forwardNorth f s)) := (evolves_forwardNorth f s).trans (evolves_finish _)
  refine evolves_ite (fun _ => forwarded.trans (evolves_dispatchWatched f _ fun a l => ?_)) fun _ =>
    evolves_ite (fun _ => evolves_dispatchConsumed f s) fun _ => forwarded
  rw [(endOfEvent_finish _).lane, forwardNorth_lane]
  exact older a l

/-! ## Link state changes (R179) -/

theorem evolves_goDown (p : Port) (receiving : Bool) (s : State) : Evolves start alone b s (goDown p receiving s) := by
  have down : Evolves start alone b s (match p with | .north => downNorth s | .south => downSouth s) := by
    cases p
    · exact .trans (.north b s { s.north with up := false, tx := none, own := [], fwd := [] }
        { NorthStep.refl s.north with agrees := fun _ => ⟨by simp, by simp⟩, own := by simp, fwd := by simp }) (evolves_dropNorth _ _)
    · exact .trans (.south b s { s.south with up := false, tx := none, urgent := [], fwd := [] }
        { SouthStep.refl s.south with agrees := fun _ => ⟨by simp, by simp⟩, fwd := by simp }) (evolves_dropSouth _ _)
  exact evolves_ite (fun _ => down.trans (evolves_crcError p _)) fun _ => down

theorem evolves_goUp (p : Port) (s : State) : Evolves start alone b s (goUp p s) := by
  cases p
  · exact .north b s _ { NorthStep.refl _ with agrees := fun h => ⟨by simp, h.2⟩ }
  · exact .south b s _ { SouthStep.refl _ with agrees := fun h => ⟨by simp, h.2⟩ }

/-- A DOWN port whose transmission ends has nothing to transmit (R179). -/
theorem evolves_endTransmission (p : Port) (s : State) : Evolves start alone b s (endTransmission p s) := by
  cases p
  · refine evolves_ite (fun sending => ?_) fun _ => .refl _ s
    by_cases up : s.north.up
    · exact .north b s _ (northStep_start up rfl rfl rfl (fun h => h) fun h => h)
    · have still := (northStart_spec { s.north with tx := none }).2.2.2.2.1 (by simpa using up)
      rw [still]
      exact .north b s _ { NorthStep.refl _ with agrees := fun h => by have := h.1 (by simpa using up); simp_all }
  · refine evolves_ite (fun sending => ?_) fun _ => .refl _ s
    by_cases up : s.south.up
    · exact .south b s _ (southStep_start up rfl rfl fun h => h)
    · have still := (southStart_spec { s.south with tx := none }).2.2.2.2.1 (by simpa using up)
      rw [still]
      exact .south b s _ { SouthStep.refl _ with agrees := fun h => by have := h.1 (by simpa using up); simp_all }

end Operations

end Sys2Proof.Machine
end

section
/-! PROOFS. Every command and every tick is a chain of elementary changes. -/

namespace Sys2Proof.Machine

section Commands

variable {start : Lane → Prop} {alone : Prop} {b : Bool}

/-! ## The block's own steps as commands -/

theorem cutHead_issued {l : Lane} {s : State} {act : Action} {fate : HeadFate} (h : cutHead l s = some (act, fate)) :
    cutFate l act s = fate := by
  unfold cutHead at h
  obtain ⟨a, -, e⟩ := Option.map_eq_some_iff.mp h
  cases e
  rfl

theorem trimHead_issued {l : Lane} {s : State} {act : Action} {fate : HeadFate} (h : trimHead l s = some (act, fate)) :
    trimFate l act s = fate := by
  unfold trimHead at h
  obtain ⟨a, -, e⟩ := Option.map_eq_some_iff.mp h
  cases e
  rfl

theorem evolves_issueHead (st : Station) (s : State) : Evolves start alone b s (issueHead st s) := by
  have cuts : ∀ l, Evolves start alone b s (issueCutHead l s) := fun l => by
    unfold issueCutHead
    split
    next due => exact evolves_issueCut l _ s (cutFate_issued (cutHead_issued due))
    · exact .refl _ s
  have knives : ∀ l, Evolves start alone b s (issueKnifeHead l s) := fun l => by
    unfold issueKnifeHead
    split
    next due => exact evolves_issueKnife l _ s (trimFate_issued (trimHead_issued due))
    · exact .refl _ s
  cases st
  · exact evolves_lamTest s
  · exact knives .a
  · exact knives .b
  · exact cuts .a
  · exact cuts .b

theorem evolves_skipHead (l : Lane) (s : State) : Evolves start alone b s (skipHead l s) := by
  unfold skipHead
  split
  · exact (evolves_skipCut l _ s).trans (evolves_cutTest l _)
  · exact .refl _ s

theorem evolves_cancelHead (st : Station) (s : State) : Evolves start alone b s (cancelHead st s) := by
  have cuts : ∀ l, Evolves start alone b s (cancelCutHead l s) := fun l => by
    unfold cancelCutHead
    split
    · exact (evolves_cancelCut l _ s).trans (evolves_cutTest l _)
    · exact .refl _ s
  have knives : ∀ l, Evolves start alone b s (cancelKnifeHead l s) := fun l => by
    unfold cancelKnifeHead
    split
    · exact (evolves_cancelKnife l _ s).trans (evolves_trimTest l _)
    · exact .refl _ s
  cases st
  · exact .refl _ s
  · exact knives .a
  · exact knives .b
  · exact cuts .a
  · exact cuts .b

theorem evolves_retireAt (l : Lane) (place : Nat) (s : State) : Evolves start alone b s (retireAt l place s) := by
  unfold retireAt
  split
  next here => exact evolves_ite (fun _ => evolves_retire l _ s (List.mem_of_getElem? here)) fun _ => .refl _ s
  · exact .refl _ s

theorem evolves_takeIf (due : Bool) {expiry : State → State} {s : State} (h : Evolves start alone b s (expiry s)) :
    Evolves start alone b s (takeIf due expiry s) := evolves_ite (fun _ => h) fun _ => .refl _ s

/-! ## Every command, every tick, every step -/

/-- Every command is a chain of elementary changes. A lane is started by LANE START only, and from DISABLED (R71, R74); where the
older segments of the maps are CLOSED, a registration meets a map with no OPEN segment (R53, R60). -/
theorem exec_evolves {c : Instr} {s t : State} (step : exec c s = .next t) (older : alone → ∀ l, OlderClosed (s.lane l))
    (allowed : StartsLane c s → ∀ l, (s.lane l).mode = .disabled → start l) : Evolves start alone false s t := by
  have ends : ∀ {u : State}, Evolves start alone false s u → Evolves start alone false s (finish u) :=
    fun h => h.trans (evolves_finish _)
  cases c <;> cases step
  case coldReset => exact .cold _ s
  case portDown p receiving => exact evolves_ite (fun _ => ends (evolves_goDown p receiving s)) fun _ => .refl _ s
  case portUp p => exact evolves_ite (fun _ => .refl _ s) fun _ => ends (evolves_goUp p s)
  case frameReceived p bytes =>
    refine evolves_ite (fun _ => ?_) fun _ => .refl _ s
    unfold arrive
    split
    · exact ends (evolves_crcError p s)
    next f read =>
      cases p
      · exact evolves_routeNorth f s older fun kind dst code => allowed ⟨f, read, kind, dst, code⟩
      · exact evolves_routeSouth f s older
  case transmissionEnd p => exact ends (evolves_endTransmission p s)
  -- the ENUM command, whose constructor's name is a word of Lean's own here
  next => exact evolves_ite (fun _ => ends (evolves_enumerate _ s)) fun _ => .refl _ s
  case posSample => exact ends (evolves_takeSample _ _ s)
  case posSampleFlags => exact ends (evolves_takeFlags _ _ s)
  case markConversion l _ _ _ => exact ends (evolves_convertMark l _ _ _ s fun a => older a l)
  case rollDescriptor => exact evolves_ite (fun _ => ends (evolves_takeRoll _ _ _ _ _ s)) fun _ => .refl _ s
  case status => exact ends (evolves_takeStatus _ _ _ s)
  case actDone => exact ends (evolves_takeReply _ _ _ s)
  case actFault => exact ends (evolves_takeReply _ _ _ s)
  case sampleTimerExpiry => exact ends (evolves_takeIf _ (evolves_sampleExpiry s))
  case estimateTick => exact ends (evolves_estimateTick s)
  case estimateTimeExpiry => exact ends (evolves_takeIf _ (evolves_estimateExpiry s))
  case actTimeoutExpiry st => exact ends (evolves_takeIf _ (evolves_timeoutExpiry st s))
  case validityTimerExpiry => exact ends (evolves_takeIf _ (evolves_validityExpiry s))
  case actionIssue st => exact ends (evolves_issueHead st s)
  case cutSkipped l => exact ends (evolves_skipHead l s)
  case headCancelled st => exact ends (evolves_cancelHead st s)
  case windowExpiry l => exact ends (evolves_expireWindows l s)
  case segmentRetirement l place => exact ends (evolves_retireAt l place s)
  case laneDrained l => exact ends (evolves_drainTest l s)
  case webBreak => exact ends (evolves_ite (fun _ => evolves_webBreak s) fun _ => .refl _ s)
  case zonePassing => exact ends (evolves_passZones s)
  case splicePassed => exact ends (evolves_passSplices s)
  case trimShort l => exact ends (evolves_testShort l s)
  case attnQueued => exact ((evolves_dropMarker s).trans (evolves_placeAttn _)).trans (evolves_refreshPins _)
  case reportQueued => exact (evolves_moveReports 1 s).trans (evolves_refreshPins _)
  case writeJob => exact evolves_serve _ _ (replyEvolves_writeJob _ s)
  case deleteJob => exact evolves_serve _ _ (replyEvolves_deleteJob _ s)
  case readJob => exact evolves_serve _ _ (replyEvolves_readJob _ s)
  case writeStation => exact evolves_serve _ _ (replyEvolves_writeStation _ s)
  case writeLane => exact evolves_serve _ _ (replyEvolves_writeLane _ s)
  case writeLine => exact evolves_serve _ _ (replyEvolves_writeLine _ s)
  case laneStart => exact evolves_serve _ _ (replyEvolves_laneStart _ s (allowed trivial))
  case laneDrain => exact evolves_serve _ _ (replyEvolves_laneDrain _ s)
  case laneStop => exact evolves_serve _ _ (replyEvolves_laneStop _ s)
  case clearStation => exact evolves_serve _ _ (replyEvolves_clearStation _ s)
  case clearLost => exact evolves_serve _ _ (replyEvolves_clearLost _ s)
  case injectMark => exact evolves_serve _ _ (replyEvolves_injectMark _ s older)
  case readStatus => exact evolves_serve _ _ (replyEvolves_readStatus _ s)
  case readMap => exact evolves_serve _ _ (replyEvolves_readMap _ s)
  case clearFlags => exact evolves_serve _ _ (replyEvolves_clearFlags _ s)
  case setAttnMask => exact evolves_serve _ _ (replyEvolves_setAttnMask _ s)
  case clearCounters => exact evolves_serve _ _ (replyEvolves_clearCounters _ s)
  case lineReset =>
    exact evolves_ite (fun _ => ends (evolves_broadcastReset _ s)) fun _ => evolves_serveReset _ _ s
  case unknownRequest => exact evolves_serveCode _ _ _ s older allowed

theorem evolves_runTick (atOnce : Bool) (t : TickTaker) (s : State) : Evolves start alone b s (runTick atOnce t s) := by
  cases t
  · exact (evolves_tickPosition atOnce s).trans (evolves_finish _)
  · exact (evolves_tickStation _ s).trans (evolves_finish _)
  · exact (evolves_tickValidity s).trans (evolves_finish _)

theorem evolves_tick (s : State) : Evolves start alone b s (tick s) :=
  .trans (evolves_dropTurn s) (evolves_foldl _ (fun t s => evolves_runTick _ t s) _ _)

theorem evolves_idle (s : State) : Evolves start alone b s (idle s) :=
  evolves_ite (fun _ => (evolves_sampleExpiry s).trans (evolves_finish _)) fun _ => evolves_tick s

end Commands

/-- A property that ignores the queue of waiting commands, and that every elementary change keeps, is kept by every step. -/
theorem step_keeps {P : State → Prop} {alone : Prop} (queue : ∀ s rest, P s → P { s with pending := rest })
    (older : alone → ∀ s, P s → ∀ l, OlderClosed (s.lane l))
    (kept : ∀ s t, Evolves (fun _ => True) alone false s t → P s → P t) :
    ∀ s t, P s → step s = .next t → P t := by
  intro s t hs e
  unfold step at e
  split at e
  · cases e
    exact kept s _ (evolves_idle s) hs
  next c rest _ =>
    have hq := queue s rest hs
    exact kept _ t (exec_evolves e (fun a => older a _ hq) fun _ _ _ => trivial) hq

end Sys2Proof.Machine
end

section
/-! PROOFS. Capacities and ranges (R1, R26, R27, R56, R62, R79, R80, R100, R188, R190, R207, R209): every elementary change keeps
them, so every step does. -/

namespace Sys2Proof.Machine

/-- A lane within its capacities and ranges, its counters included. -/
def LaneBounds (x : LaneState) : Prop := LaneBounded x ∧ InCount (laneCounters x)

/-- The capacities, with the counters by the part of the state that holds them. -/
structure Bounds (s : State) : Prop where
  laneA : LaneBounds s.laneA
  laneB : LaneBounds s.laneB
  lam : InCount (stationCounters s.lam)
  trimA : InCount (stationCounters s.trimA)
  trimB : InCount (stationCounters s.trimB)
  cutA : InCount (stationCounters s.cutA)
  cutB : InCount (stationCounters s.cutB)
  north : s.north.own.length ≤ 8 ∧ s.north.fwd.length ≤ 16 ∧ s.north.run ≤ 4 ∧ InCount [s.north.crcErrors, s.north.fwdDrops]
  south : s.south.fwd.length ≤ 16 ∧ InCount [s.south.crcErrors, s.south.fwdDrops]
  tracker : s.tracker.speed ≤ 256000 ∧ s.tracker.frac < 65536 ∧
    InCount [s.tracker.jumps, s.tracker.outOfRange, s.tracker.reverseDiscarded]
  zones : s.nip.zones.length ≤ 64
  web : s.web.splices.length ≤ 4 ∧ InCount [s.web.unrecorded]
  mgmt : s.mgmt.reports.length ≤ 16 ∧ InCount [s.mgmt.reportsLost, s.mgmt.requestsDropped]
  jobs : s.jobs.length = 64

theorem inCount_append (xs ys : List Nat) : InCount (xs ++ ys) ↔ InCount xs ∧ InCount ys := List.forall_mem_append

/-- The thirty counters by the part of the state that holds them (R209). -/
theorem inCount_counters (s : State) : InCount (counters s) ↔
    InCount [s.north.crcErrors, s.north.fwdDrops] ∧ InCount [s.south.crcErrors, s.south.fwdDrops] ∧
    InCount [s.tracker.jumps, s.tracker.outOfRange, s.tracker.reverseDiscarded] ∧
    (InCount (laneCounters s.laneA) ∧ InCount (laneCounters s.laneB)) ∧
    (InCount (stationCounters s.lam) ∧ InCount (stationCounters s.trimA) ∧ InCount (stationCounters s.trimB) ∧
      InCount (stationCounters s.cutA) ∧ InCount (stationCounters s.cutB)) ∧
    InCount [s.web.unrecorded] ∧ InCount [s.mgmt.reportsLost, s.mgmt.requestsDropped] := by
  have ports := inCount_append [s.north.crcErrors, s.north.fwdDrops] [s.south.crcErrors, s.south.fwdDrops]
  have others := inCount_append [s.web.unrecorded] [s.mgmt.reportsLost, s.mgmt.requestsDropped]
  simp only [List.cons_append, List.nil_append] at ports others
  simp only [counters, inCount_append, ports, others, and_assoc]

theorem capacities_iff (s : State) : Capacities s ↔ Bounds s := by
  constructor
  · intro h
    obtain ⟨north, south, tracker, ⟨laneA, laneB⟩, ⟨lam, trimA, trimB, cutA, cutB⟩, unrecorded, mgmt⟩ :=
      (inCount_counters s).mp h.counters
    exact
      { laneA := ⟨h.laneA, laneA⟩, laneB := ⟨h.laneB, laneB⟩, lam := lam, trimA := trimA, trimB := trimB, cutA := cutA
        cutB := cutB, north := ⟨h.own, h.northForward, h.run, north⟩, south := ⟨h.southForward, south⟩
        tracker := ⟨h.speed, h.fraction, tracker⟩, zones := h.zones, web := ⟨h.splices, unrecorded⟩
        mgmt := ⟨h.reports, mgmt⟩, jobs := h.jobs }
  · intro h
    obtain ⟨own, northForward, run, north⟩ := h.north
    obtain ⟨speed, fraction, tracker⟩ := h.tracker
    exact
      { laneA := h.laneA.1, laneB := h.laneB.1, zones := h.zones, splices := h.web.1, reports := h.mgmt.1, own := own
        northForward := northForward, southForward := h.south.1, run := run, jobs := h.jobs, speed := speed
        fraction := fraction
        counters := (inCount_counters s).mpr ⟨north, h.south.2, tracker, ⟨h.laneA.2, h.laneB.2⟩,
          ⟨h.lam, h.trimA, h.trimB, h.cutA, h.cutB⟩, h.web.2, h.mgmt.2⟩ }

theorem LaneStep.bounds {p : Prop} {x y : LaneState} (step : LaneStep p x y) (h : LaneBounds x) : LaneBounds y := by
  obtain ⟨⟨segs, cuts, knives, lo, hi, stretches⟩, counters⟩ := h
  obtain ⟨f, e, keeps⟩ := step.segs
  obtain ⟨lo', hi'⟩ := step.stretch ⟨lo, hi⟩
  refine ⟨⟨by rw [e, List.length_map]; exact segs, step.cuts.trans cuts, step.knives.trans knives, lo', hi', fun g hg => ?_⟩,
    step.counters counters⟩
  rw [e] at hg
  obtain ⟨g0, hg0, rfl⟩ := List.mem_map.mp hg
  exact (keeps g0).stretch (stretches g0 hg0)

theorem LaneGrows.bounds {p : Prop} {g : Segment} {x y : LaneState} (step : LaneGrows p g x y) (h : LaneBounds x) :
    LaneBounds y := by
  obtain ⟨⟨-, -, -, lo, hi, stretches⟩, counters⟩ := h
  refine ⟨⟨step.segRoom, step.cutRoom, step.knifeRoom, step.stretch.symm ▸ lo, step.stretch.symm ▸ hi, fun k hk => ?_⟩,
    step.counters.symm ▸ counters⟩
  rw [step.segs] at hk
  rcases List.mem_append.mp hk with old | new
  · exact stretches k old
  · rw [List.mem_singleton.mp new, step.segStretch]
    exact ⟨lo, hi⟩

theorem laneBounds_filter {x : LaneState} (p : Segment → Bool) (h : LaneBounds x) :
    LaneBounds { x with segs := x.segs.filter p } := by
  obtain ⟨⟨segs, cuts, knives, lo, hi, stretches⟩, counters⟩ := h
  exact ⟨⟨(List.length_filter_le _ _).trans segs, cuts, knives, lo, hi, fun g hg => stretches g (List.mem_filter.mp hg).1⟩, counters⟩

theorem laneBounds_reset (r : LaneRecord) : LaneBounds (LaneState.reset r) := by
  simp [LaneBounds, LaneBounded, LaneState.reset, InCount, laneCounters]

theorem Bounds.setLane {s : State} (h : Bounds s) {l : Lane} {y : LaneState} (bounds : LaneBounds (s.lane l) → LaneBounds y) :
    Bounds (s.setLane l y) := by
  cases l
  · exact { h with laneA := bounds h.laneA }
  · exact { h with laneB := bounds h.laneB }

theorem Bounds.setStation {s : State} (h : Bounds s) {st : Station} {y : StationState}
    (bounds : InCount (stationCounters (s.station st)) → InCount (stationCounters y)) : Bounds (s.setStation st y) := by
  cases st
  · exact { h with lam := bounds h.lam }
  · exact { h with trimA := bounds h.trimA }
  · exact { h with trimB := bounds h.trimB }
  · exact { h with cutA := bounds h.cutA }
  · exact { h with cutB := bounds h.cutB }

theorem Bounds.unmap {s : State} (h : Bounds s) (l : Lane) (g : Segment) : Bounds (unmap l g s) := by
  have left := h.setLane (l := l) (laneBounds_filter fun k => k.id ≠ g.id)
  exact
    { left with
      zones := (List.length_filter_le _ _).trans left.zones
      jobs := (List.length_modify ..).trans left.jobs }

theorem inCount_reset : InCount (stationCounters StationState.reset) := by
  simp [stationCounters, StationState.reset, InCount]

theorem bounds_cold (s : State) : Bounds (coldState s) where
  laneA := laneBounds_reset _
  laneB := laneBounds_reset _
  lam := inCount_reset
  trimA := inCount_reset
  trimB := inCount_reset
  cutA := inCount_reset
  cutB := inCount_reset
  north := by simp [coldState, NorthPort.reset, InCount]
  south := by simp [coldState, SouthPort.reset, InCount]
  tracker := by simp [coldState, State.reset, Tracker.reset, InCount]
  zones := by simp [coldState, State.reset, Nip.reset]
  web := by simp [coldState, State.reset, WebUnit.reset, InCount]
  mgmt := by simp [coldState, State.reset, Mgmt.reset, InCount]
  jobs := by simp [coldState, State.reset]

theorem inCount_warm (x : StationState) : InCount (stationCounters x.warm) := by
  simp [stationCounters, StationState.warm, StationState.reset, InCount]

theorem length_warmJobs (keep : Bool) (jobs : List (Option JobRecord)) : (warmJobs keep jobs).length = jobs.length := by
  unfold warmJobs
  split <;> simp

theorem length_warmOwn (answered : Bool) (own : List Frame) : (warmOwn answered own).length ≤ own.length := by
  unfold warmOwn
  split <;> simp

theorem bounds_warm {s : State} (h : Bounds s) (keep answered : Bool) : Bounds (warmReset keep answered s) where
  laneA := laneBounds_reset _
  laneB := laneBounds_reset _
  lam := inCount_warm _
  trimA := inCount_warm _
  trimB := inCount_warm _
  cutA := inCount_warm _
  cutB := inCount_warm _
  north := ⟨(length_warmOwn _ _).trans h.north.1, by simp [warmReset, NorthPort.warm, NorthPort.reset, InCount]⟩
  south := by simp [warmReset, SouthPort.warm, SouthPort.reset, InCount]
  tracker := by simp [warmReset, Tracker.reset, InCount]
  zones := by simp [warmReset, Nip.warm, Nip.reset]
  web := by simp [warmReset, WebUnit.reset, InCount]
  mgmt := by simp [warmReset, Mgmt.reset, InCount]
  jobs := (length_warmJobs _ _).trans h.jobs

/-- Every elementary change keeps the capacities, whether the plan is left behind or not. -/
theorem Evolves.bounds {start : Lane → Prop} {alone : Prop} {b : Bool} {s t : State} (e : Evolves start alone b s t) :
    Bounds s → Bounds t := by
  induction e with
  | refl => exact fun h => h
  | trans _ _ ih1 ih2 => exact fun h => ih2 (ih1 h)
  | settled _ _ ih => exact ih
  | lane b s l y step => exact fun h => h.setLane step.bounds
  | station b s st y step => exact fun h => h.setStation step.counters
  | south b s p step => exact fun h => { h with south := ⟨step.fwd h.south.1, step.counters h.south.2⟩ }
  | north b s p step =>
    intro h
    obtain ⟨own, fwd, run, counters⟩ := h.north
    exact { h with north := ⟨step.own own, step.fwd fwd, step.run run, step.counters counters⟩ }
  | tracker b s k step =>
    intro h
    obtain ⟨speed, frac, counters⟩ := h.tracker
    exact { h with tracker := ⟨step.speed speed, step.frac frac, step.counters counters⟩ }
  | nip b s n step => exact fun h => { h with zones := step.room h.zones }
  | web b s w step => exact fun h => { h with web := ⟨step.splices h.web.1, step.counters h.web.2⟩ }
  | mgmt b s m step => exact fun h => { h with mgmt := ⟨step.reports h.mgmt.1, step.counters h.mgmt.2⟩ }
  | jobs b s js length _ => exact fun h => { h with jobs := length.trans h.jobs }
  | leaves b s l g _ _ => exact fun h => h.unmap l g
  | registers b s l slot r g y _ _ _ step =>
    intro h
    have copied : Bounds (s.modSlot slot takeCopy) := { h with jobs := (List.length_modify ..).trans h.jobs }
    have grown := copied.setLane (l := l) (y := y) (by rw [modSlot_lane]; exact step.bounds)
    exact { grown with }
  | line b s x _ _ => exact fun h => { h with }
  | cold b s => exact fun _ => bounds_cold s
  | warm b s keep answered => exact fun h => bounds_warm h keep answered
  | rest => exact fun h => { h with }

/-- Settles O54: the capacities do not read the queue of commands, and every elementary change keeps them. -/
theorem stepKeepsCapacities : Obligations.StepKeepsCapacities :=
  step_keeps (alone := False)
    (fun s rest h => by
      rw [capacities_iff] at h ⊢
      exact { h with })
    (fun impossible => impossible.elim)
    fun s t e h => (capacities_iff t).mpr (e.bounds ((capacities_iff s).mp h))

end Sys2Proof.Machine
end

section
/-! PROOFS. The in-use counts of the job records (R17): a record's count and the segments registered from its slot change
together, since the segments of a map have serials of their own. -/

namespace Sys2Proof.Machine

/-- The segments of both maps registered from slot `i`. -/
def users (i : Nat) (s : State) : Nat := usersOf i (s.lane .a) + usersOf i (s.lane .b)

theorem jobsAgree_iff (s : State) :
    JobsAgree s ↔ (∀ l, SerialsDistinct s.nextSeg (s.lane l)) ∧ ∀ i, inUseAt i s = users i s :=
  ⟨fun h => ⟨fun | .a => h.laneA | .b => h.laneB, h.counts⟩, fun h => ⟨h.1 .a, h.1 .b, h.2⟩⟩

/-! ## One lane -/

theorem LaneStep.serials {p : Prop} {x y : LaneState} (step : LaneStep p x y) {n : Nat} (h : SerialsDistinct n x) :
    SerialsDistinct n y := by
  obtain ⟨f, e, keeps⟩ := step.segs
  have ids : y.segs.map (fun g => g.id) = x.segs.map (fun g => g.id) := by
    rw [e, List.map_map]
    exact List.map_congr_left fun g _ => (keeps g).id
  refine ⟨ids.symm ▸ h.1, fun g hg => ?_⟩
  rw [e] at hg
  obtain ⟨g0, hg0, rfl⟩ := List.mem_map.mp hg
  exact (keeps g0).id.symm ▸ h.2 g0 hg0

theorem LaneStep.usersOf {p : Prop} {x y : LaneState} (step : LaneStep p x y) (i : Nat) : usersOf i y = usersOf i x := by
  obtain ⟨f, e, keeps⟩ := step.segs
  unfold Machine.usersOf
  rw [e, List.filter_map, List.length_map]
  exact congrArg List.length (List.filter_congr fun g _ => by simp [(keeps g).slot])

theorem usersOf_grows {p : Prop} {g : Segment} {x y : LaneState} (step : LaneGrows p g x y) (i : Nat) :
    usersOf i y = usersOf i x + if g.slot = i then 1 else 0 := by
  simp only [usersOf, step.segs, List.filter_append, List.length_append, List.filter_singleton]
  split <;> simp_all

theorem serialsDistinct_grows {p : Prop} {g : Segment} {x y : LaneState} (step : LaneGrows p g x y) {n : Nat}
    (fresh : g.id = n) (h : SerialsDistinct n x) : SerialsDistinct (n + 1) y := by
  obtain ⟨nodup, below⟩ := h
  refine ⟨?_, fun k hk => ?_⟩
  · rw [step.segs, List.map_append, List.nodup_append]
    refine ⟨nodup, by simp, fun a ha c hc => ?_⟩
    obtain ⟨k, hk, rfl⟩ := List.mem_map.mp ha
    rw [List.map_singleton, List.mem_singleton] at hc
    exact hc ▸ fresh ▸ Nat.ne_of_lt (below k hk)
  · rw [step.segs] at hk
    rcases List.mem_append.mp hk with old | new
    · exact Nat.lt_succ_of_lt (below k old)
    · rw [List.mem_singleton.mp new, fresh]
      exact Nat.lt_succ_self n

/-- A lane whose map has lost the segment of this serial. -/
def LaneState.without (id : Nat) (x : LaneState) : LaneState := { x with segs := x.segs.filter (fun h => h.id ≠ id) }

theorem serialsDistinct_without {n : Nat} {x : LaneState} (id : Nat) (h : SerialsDistinct n x) :
    SerialsDistinct n (x.without id) :=
  ⟨h.1.sublist (List.filter_sublist.map _), fun g hg => h.2 g (List.mem_filter.mp hg).1⟩

/-- With serials of their own, removing a segment by its serial removes that one segment. -/
theorem length_filter_serial {g : Segment} (p : Segment → Bool) : ∀ {xs : List Segment}, (xs.map (fun h => h.id)).Nodup → g ∈ xs →
    ((xs.filter (fun h => h.id ≠ g.id)).filter p).length + (if p g then 1 else 0) = (xs.filter p).length
  | x :: xs, nodup, mem => by
    obtain ⟨apart, rest⟩ := List.nodup_cons.mp nodup
    rcases List.mem_cons.mp mem with rfl | mem
    · have kept : xs.filter (fun h => h.id ≠ g.id) = xs := List.filter_eq_self.mpr fun h hh => by
        simp only [ne_eq, decide_not, Bool.not_eq_eq_eq_not, Bool.not_true, decide_eq_false_iff_not]
        exact fun e => apart (List.mem_map.mpr ⟨h, hh, e⟩)
      rw [List.filter_cons_of_neg (by simp), kept, List.filter_cons]
      split <;> simp
    · have other : x.id ≠ g.id := fun e => apart (List.mem_map.mpr ⟨g, mem, e.symm⟩)
      have ih := length_filter_serial p rest mem
      rw [List.filter_cons_of_pos (by simpa using other), List.filter_cons, List.filter_cons]
      by_cases px : p x = true
      · simp only [px, if_true, List.length_cons]
        omega
      · simp only [px, Bool.false_eq_true, if_false]
        exact ih

theorem usersOf_without {n : Nat} {x : LaneState} {g : Segment} (h : SerialsDistinct n x) (mem : g ∈ x.segs) (i : Nat) :
    usersOf i (x.without g.id) + (if g.slot = i then 1 else 0) = usersOf i x := by
  have := length_filter_serial (fun k => k.slot = i) h.1 mem
  simpa [usersOf, LaneState.without] using this

/-! ## The whole state -/

theorem users_setLane (i : Nat) (s : State) (l : Lane) (y : LaneState) :
    users i (s.setLane l y) + usersOf i (s.lane l) = users i s + usersOf i y := by
  cases l
  · show usersOf i y + usersOf i s.laneB + usersOf i s.laneA = usersOf i s.laneA + usersOf i s.laneB + usersOf i y
    omega
  · show usersOf i s.laneA + usersOf i y + usersOf i s.laneB = usersOf i s.laneA + usersOf i s.laneB + usersOf i y
    omega

theorem serialsDistinct_setLane {s : State} {l : Lane} {y : LaneState} {n : Nat} (h : ∀ m, SerialsDistinct n (s.lane m))
    (hy : SerialsDistinct n y) (m : Lane) : SerialsDistinct n ((s.setLane l y).lane m) := by
  by_cases e : m = l
  · subst e; simpa using hy
  · rw [State.lane_setLane_ne s l m y e]; exact h m

theorem slot_modSlot (i j : Nat) (f : JobRecord → JobRecord) (s : State) :
    (s.modSlot j f).slot i = if j = i then (s.slot i).map f else s.slot i := by
  unfold State.modSlot State.slot
  rw [List.getElem?_modify]
  split
  · cases s.jobs[i]? <;> rfl
  · simp

theorem inUseAt_takeCopy {slot : Nat} {r : JobRecord} {s : State} (held : s.slot slot = some r) (i : Nat) :
    inUseAt i (s.modSlot slot takeCopy) = inUseAt i s + if slot = i then 1 else 0 := by
  unfold inUseAt
  rw [slot_modSlot]
  by_cases e : slot = i
  · subst e; simp [held, takeCopy]
  · simp [e]

theorem inUseAt_releaseJob (slot i : Nat) (s : State) :
    inUseAt i (releaseJob slot s) = inUseAt i s - if slot = i then 1 else 0 := by
  unfold inUseAt releaseJob
  rw [slot_modSlot]
  by_cases e : slot = i
  · cases s.slot i <;> simp [e]
  · simp [e]

theorem unmap_lane (l m : Lane) (g : Segment) (s : State) : (unmap l g s).lane m =
    (s.setLane l ((s.lane l).without g.id)).lane m := by
  rw [unmap, releaseJob, modSlot_lane, dropZones_lane]
  rfl

theorem inUseAt_unmap (l : Lane) (g : Segment) (i : Nat) (s : State) :
    inUseAt i (unmap l g s) = inUseAt i s - if g.slot = i then 1 else 0 := by
  rw [unmap, inUseAt_releaseJob]
  congr 1
  simp only [inUseAt, State.slot, dropZones_jobs, State.jobs_modLane]

theorem jobsAgree_unmap {s : State} (h : JobsAgree s) {l : Lane} {g : Segment} (mem : g ∈ (s.lane l).segs) :
    JobsAgree (unmap l g s) := by
  obtain ⟨serials, counts⟩ := (jobsAgree_iff s).mp h
  refine (jobsAgree_iff _).mpr ⟨fun m => ?_, fun i => ?_⟩
  · have next : (unmap l g s).nextSeg = s.nextSeg := by cases l <;> rfl
    rw [unmap_lane, next]
    exact serialsDistinct_setLane serials (serialsDistinct_without g.id (serials l)) m
  · have lanes := users_setLane i s l ((s.lane l).without g.id)
    have one := usersOf_without (serials l) mem i
    have same : users i (unmap l g s) = users i (s.setLane l ((s.lane l).without g.id)) := by
      rw [users, unmap_lane, unmap_lane, users]
    rw [inUseAt_unmap, counts i, same]
    omega

theorem jobsAgree_registers {s : State} (h : JobsAgree s) {alone : Prop} {l : Lane} {slot : Nat} {r : JobRecord} {g : Segment}
    {y : LaneState} (held : s.slot slot = some r) (id : g.id = s.nextSeg) (here : g.slot = slot)
    (step : LaneGrows alone g (s.lane l) y) :
    JobsAgree { (s.modSlot slot takeCopy).setLane l y with nextSeg := s.nextSeg + 1 } := by
  obtain ⟨serials, counts⟩ := (jobsAgree_iff s).mp h
  refine (jobsAgree_iff _).mpr ⟨fun m => ?_, fun i => ?_⟩
  · refine serialsDistinct_setLane (fun k => ?_) (serialsDistinct_grows step id (serials l)) m
    rw [modSlot_lane]
    exact ⟨(serials k).1, fun g hg => Nat.lt_succ_of_lt ((serials k).2 g hg)⟩
  · have lanes := users_setLane i (s.modSlot slot takeCopy) l y
    have before : users i (s.modSlot slot takeCopy) = users i s := by simp only [users, modSlot_lane]
    rw [modSlot_lane, usersOf_grows step i, before, here] at lanes
    have count := inUseAt_takeCopy held i
    have after : inUseAt i { (s.modSlot slot takeCopy).setLane l y with nextSeg := s.nextSeg + 1 } =
        inUseAt i (s.modSlot slot takeCopy) := by
      simp only [inUseAt, State.slot, State.jobs_setLane]
    show inUseAt i { (s.modSlot slot takeCopy).setLane l y with nextSeg := s.nextSeg + 1 } = users i ((s.modSlot slot takeCopy).setLane l y)
    rw [after, count, counts i]
    omega

theorem inUseAt_warmJobs (keep answered : Bool) (s : State) (i : Nat) : inUseAt i (warmReset keep answered s) = 0 := by
  have none_or : ∀ r, (warmReset keep answered s).slot i = some r → r.inUse = 0 := by
    intro r h
    unfold State.slot warmReset warmJobs at h
    cases keep
    · cases s.jobs[i]? <;> simp at h
    · cases e : s.jobs[i]? with
      | none => simp [e] at h
      | some x => cases x with
        | none => simp [e] at h
        | some q => simp only [e, if_true, List.getElem?_map, Option.map_some, Option.getD_some] at h; cases h; rfl
  unfold inUseAt
  split
  next r h => exact none_or r h
  · rfl

theorem jobsAgree_of_empty {t : State} (empty : ∀ l, (t.lane l).segs = []) (unused : ∀ i, inUseAt i t = 0) : JobsAgree t :=
  (jobsAgree_iff t).mpr ⟨fun l => by simp [SerialsDistinct, empty], fun i => by rw [users, usersOf, usersOf, empty, empty, unused]; rfl⟩

theorem jobsAgree_cold (s : State) : JobsAgree (coldState s) :=
  jobsAgree_of_empty (fun l => by cases l <;> rfl) fun i => by
    have none : (coldState s).slot i = none := by
      unfold State.slot coldState State.reset
      rw [List.getElem?_replicate]
      split <;> rfl
    rw [inUseAt, none]

theorem jobsAgree_warm (keep answered : Bool) (s : State) : JobsAgree (warmReset keep answered s) :=
  jobsAgree_of_empty (fun l => by cases l <;> rfl) (inUseAt_warmJobs keep answered s)

/-- Every elementary change keeps the in-use counts. -/
theorem Evolves.jobsAgree {start : Lane → Prop} {alone : Prop} {b : Bool} {s t : State} (e : Evolves start alone b s t) :
    JobsAgree s → JobsAgree t := by
  induction e with
  | refl => exact fun h => h
  | trans _ _ ih1 ih2 => exact fun h => ih2 (ih1 h)
  | settled _ _ ih => exact ih
  | lane b s l y step =>
    intro h
    obtain ⟨serials, counts⟩ := (jobsAgree_iff s).mp h
    refine (jobsAgree_iff _).mpr ⟨fun m => ?_, fun i => ?_⟩
    · rw [State.nextSeg_setLane]
      exact serialsDistinct_setLane serials (step.serials (serials l)) m
    · have lanes := users_setLane i s l y
      rw [step.usersOf] at lanes
      have same : inUseAt i (s.setLane l y) = inUseAt i s := by simp only [inUseAt, State.slot, State.jobs_setLane]
      rw [same, counts i]
      omega
  | station b s st y step =>
    intro h
    cases st <;> exact ⟨h.laneA, h.laneB, h.counts⟩
  | jobs b s js _ same => exact fun h => ⟨h.laneA, h.laneB, fun i => (same i).trans (h.counts i)⟩
  | leaves b s l g mem _ => exact fun h => jobsAgree_unmap h mem
  | registers b s l slot r g y held id here step => exact fun h => jobsAgree_registers h held id here step
  | cold b s => exact fun _ => jobsAgree_cold s
  | warm b s keep answered => exact fun _ => jobsAgree_warm keep answered s
  | south | north | tracker | nip | web | mgmt | line | rest => exact fun h => ⟨h.laneA, h.laneB, h.counts⟩

/-- Settles O56: the counts do not read the queue of commands, and every elementary change keeps them. -/
theorem stepKeepsInUseCounts : Obligations.StepKeepsInUseCounts :=
  step_keeps (alone := False) (fun _ _ h => ⟨h.laneA, h.laneB, h.counts⟩) (fun impossible => impossible.elim)
    fun _ _ e h => e.jobsAgree h

end Sys2Proof.Machine
end

section
/-! PROOFS. The nip plan, the owners of the zone entries, the empty maps of DISABLED lanes and the CLOSED older segments (R46, R60,
R73, R74, R125, R129 to R131): what the maps agree on is kept by every elementary change, the plan by every chain of them that does
not leave it behind. -/

namespace Sys2Proof.Machine

/-- A lane whose map is empty while DISABLED, and has no OPEN segment but the newest (R46, R60, R73, R74). -/
def LaneTidy (x : LaneState) : Prop := (x.mode = .disabled → x.segs = []) ∧ OlderClosed x

/-- What the maps agree on, whether or not the plan is current. -/
structure MapsAgree (s : State) : Prop where
  owners : EntriesOwned s s.nip.zones
  tidy : ∀ l, LaneTidy (s.lane l)

theorem planAgrees_iff (s : State) : PlanAgrees s ↔ MapsAgree s ∧ PlanCurrent s :=
  ⟨fun h => ⟨⟨h.owners, fun l => ⟨h.disabled l, h.closed l⟩⟩, h.plan⟩,
   fun ⟨maps, plan⟩ => ⟨plan, maps.owners, fun l => (maps.tidy l).1, fun l => (maps.tidy l).2⟩⟩

/-! ## One lane -/

theorem LaneStep.inMap {p : Prop} {x y : LaneState} (step : LaneStep p x y) (k : Nat) : inMap y k = inMap x k := by
  obtain ⟨f, e, keeps⟩ := step.segs
  unfold Machine.inMap
  rw [e, List.any_map]
  exact List.any_congr rfl fun g => by simp [(keeps g).id]

theorem LaneStep.tidy {p : Prop} {x y : LaneState} (step : LaneStep p x y) (h : LaneTidy x) : LaneTidy y := by
  obtain ⟨f, e, keeps⟩ := step.segs
  refine ⟨fun disabled => ?_, fun g hg => ?_⟩
  · have empty : x.segs = [] := by
      rcases step.mode with m | ⟨-, empty⟩ | ⟨m, -⟩ | ⟨-, m⟩
      · exact h.1 (m ▸ disabled)
      · exact empty
      · exact absurd (disabled.symm.trans m) (by decide)
      · exact absurd (disabled.symm.trans m) (by decide)
    rw [e, empty, List.map_nil]
  · rw [e, ← List.map_dropLast] at hg
    obtain ⟨g0, hg0, rfl⟩ := List.mem_map.mp hg
    exact (keeps g0).closed (h.2 g0 hg0)

theorem LaneGrows.inMap {p : Prop} {g : Segment} {x y : LaneState} (step : LaneGrows p g x y) {k : Nat}
    (h : inMap x k = true) : inMap y k = true := by
  unfold Machine.inMap at h ⊢
  rw [step.segs, List.any_append, h, Bool.true_or]

theorem LaneGrows.tidy {g : Segment} {x y : LaneState} (step : LaneGrows True g x y) : LaneTidy y := by
  refine ⟨fun disabled => absurd (disabled.symm.trans step.mode) (by decide), fun k hk => ?_⟩
  rw [step.segs, List.dropLast_concat] at hk
  exact step.closed trivial k hk

theorem mem_dropLast_filter {p : Segment → Bool} {xs : List Segment} {g : Segment} (h : g ∈ (xs.filter p).dropLast) :
    g ∈ xs.dropLast := by
  rcases List.eq_nil_or_concat xs with rfl | ⟨front, last, rfl⟩
  · simp at h
  · rw [List.concat_eq_append, List.filter_append] at h
    rw [List.concat_eq_append, List.dropLast_concat]
    by_cases keep : p last = true
    · rw [List.filter_singleton, keep, cond_true, List.dropLast_concat] at h
      exact (List.mem_filter.mp h).1
    · rw [List.filter_singleton, Bool.eq_false_iff.mpr keep, cond_false, List.append_nil] at h
      exact (List.mem_filter.mp (List.mem_of_mem_dropLast h)).1

theorem laneTidy_without {x : LaneState} (id : Nat) (h : LaneTidy x) : LaneTidy (x.without id) :=
  ⟨fun disabled => by rw [LaneState.without, h.1 disabled]; rfl, fun g hg => h.2 g (mem_dropLast_filter hg)⟩

theorem laneTidy_reset (r : LaneRecord) : LaneTidy (LaneState.reset r) :=
  ⟨fun _ => rfl, fun g hg => by simp [LaneState.reset] at hg⟩

/-! ## The whole state -/

theorem laneTidy_setLane {s : State} {l : Lane} {y : LaneState} (h : ∀ m, LaneTidy (s.lane m)) (hy : LaneTidy y) (m : Lane) :
    LaneTidy ((s.setLane l y).lane m) := by
  by_cases e : m = l
  · subst e; simpa using hy
  · rw [State.lane_setLane_ne s l m y e]; exact h m

/-- A change of one lane that keeps every serial of its map in the map keeps the entries owned. -/
theorem entriesOwned_setLane {s : State} {zones : List ZoneEntry} {l : Lane} {y : LaneState} (h : EntriesOwned s zones)
    (kept : ∀ k, inMap (s.lane l) k = true → inMap y k = true) : EntriesOwned (s.setLane l y) zones := by
  intro e he
  have owned := h e he
  by_cases same : e.lane = l
  · rw [same] at owned ⊢
    rw [State.lane_setLane]
    exact kept _ owned
  · rwa [State.lane_setLane_ne s l _ y same]

theorem unmap_zones (l : Lane) (g : Segment) (s : State) : (unmap l g s).nip.zones =
    s.nip.zones.filter (fun e => !(decide (e.lane = l) && decide (e.seg = g.id))) := by
  rw [unmap, releaseJob, State.nip_modSlot, dropZones_zones, State.nip_modLane]

theorem mapsAgree_unmap {s : State} (h : MapsAgree s) (l : Lane) (g : Segment) : MapsAgree (unmap l g s) where
  owners e he := by
    rw [unmap_zones, List.mem_filter] at he
    obtain ⟨mem, stays⟩ := he
    have owned := h.owners e mem
    rw [unmap_lane]
    by_cases same : e.lane = l
    · have other : e.seg ≠ g.id := by simpa [same] using stays
      rw [same] at owned ⊢
      rw [State.lane_setLane]
      unfold inMap LaneState.without at *
      obtain ⟨k, hk, id⟩ := List.any_eq_true.mp owned
      exact List.any_eq_true.mpr ⟨k, List.mem_filter.mpr ⟨hk, by simp_all⟩, id⟩
    · rwa [State.lane_setLane_ne s l _ _ same]
  tidy m := by
    rw [unmap_lane]
    exact laneTidy_setLane h.tidy (laneTidy_without g.id (h.tidy l)) m

theorem mapsAgree_empty {t : State} (zones : t.nip.zones = []) (lanes : ∀ l, ∃ r, t.lane l = LaneState.reset r) : MapsAgree t where
  owners := by simp [EntriesOwned, zones]
  tidy l := by
    obtain ⟨r, e⟩ := lanes l
    rw [e]
    exact laneTidy_reset r

/-- Every elementary change keeps what the maps agree on. -/
theorem Evolves.mapsAgree {start : Lane → Prop} {b : Bool} {s t : State} (e : Evolves start True b s t) :
    MapsAgree s → MapsAgree t := by
  induction e with
  | refl => exact fun h => h
  | trans _ _ ih1 ih2 => exact fun h => ih2 (ih1 h)
  | settled _ _ ih => exact ih
  | lane b s l y step =>
    intro h
    refine ⟨?_, laneTidy_setLane h.tidy (step.tidy (h.tidy l))⟩
    rw [State.nip_setLane]
    exact entriesOwned_setLane h.owners fun k hk => (step.inMap k).trans hk
  | station b s st y _ => intro h; cases st <;> exact ⟨h.owners, h.tidy⟩
  | nip b s n step => exact fun h => ⟨step.owned h.owners, h.tidy⟩
  | leaves b s l g _ _ => exact fun h => mapsAgree_unmap h l g
  | registers b s l slot r g y _ _ _ step =>
    intro h
    refine ⟨?_, fun m => laneTidy_setLane (s := s.modSlot slot takeCopy) (fun k => by rw [modSlot_lane]; exact h.tidy k)
      step.tidy m⟩
    have zones : ((s.modSlot slot takeCopy).setLane l y).nip.zones = s.nip.zones := by rw [State.nip_setLane, State.nip_modSlot]
    show EntriesOwned ((s.modSlot slot takeCopy).setLane l y) ((s.modSlot slot takeCopy).setLane l y).nip.zones
    rw [zones]
    refine entriesOwned_setLane (fun e he => ?_) fun k hk => step.inMap (by rwa [modSlot_lane] at hk)
    rw [modSlot_lane]
    exact h.owners e he
  | cold b s => exact fun _ => mapsAgree_empty rfl fun | .a => ⟨_, rfl⟩ | .b => ⟨_, rfl⟩
  | warm b s keep answered => exact fun _ => mapsAgree_empty rfl fun | .a => ⟨_, rfl⟩ | .b => ⟨_, rfl⟩
  | south | north | tracker | web | mgmt | jobs | line | rest => exact fun h => ⟨h.owners, h.tidy⟩

/-- With both lanes DISABLED no zone entry has an owner, so there is none. -/
theorem zones_nil_of_disabled {s : State} (h : MapsAgree s) (a : s.laneA.mode = .disabled) (c : s.laneB.mode = .disabled) :
    s.nip.zones = [] := by
  have empty : ∀ l, (s.lane l).segs = [] := fun | .a => (h.tidy .a).1 a | .b => (h.tidy .b).1 c
  refine List.eq_nil_iff_forall_not_mem.mpr fun e he => ?_
  have owned := h.owners e he
  simp [inMap, empty] at owned

theorem planOf_nil (ban : Bool) (policy : Policy) (bridge : Nat) : planOf ban policy bridge [] = [] := by
  cases ban <;> cases policy <;> rfl

/-- A chain that does not leave the plan behind keeps it current. -/
theorem Evolves.planCurrent {start : Lane → Prop} {b : Bool} {s t : State} (e : Evolves start True b s t) :
    b = false → MapsAgree s → PlanCurrent s → PlanCurrent t := by
  induction e with
  | refl => exact fun _ _ h => h
  | trans first _ ih1 ih2 => exact fun hb maps h => ih2 hb (first.mapsAgree maps) (ih1 hb maps h)
  | settled _ kept _ => exact fun _ _ h => kept h
  | lane b s l y _ =>
    intro _ _ h
    cases l <;> exact h
  | station b s st y _ =>
    intro _ _ h
    cases st <;> exact h
  | nip b s n step =>
    intro hb _ h
    obtain ⟨plan, zones⟩ := step.plan hb
    show n.plan = planOf (banned s.web) s.setup.policy s.setup.bridge n.zones
    rw [plan, zones]
    exact h
  | web b s w step =>
    intro hb _ h
    have same : banned w = banned s.web := by unfold banned; rw [step.profile hb]
    show s.nip.plan = planOf (banned w) s.setup.policy s.setup.bridge s.nip.zones
    rw [same]
    exact h
  | leaves b s l g _ unowned =>
    intro hb _ h
    have none := unowned hb
    have kept : (unmap l g s).nip.zones = s.nip.zones := by
      rw [unmap_zones]
      refine List.filter_eq_self.mpr fun e he => ?_
      have := (List.any_eq_false.mp none) e he
      simpa [imp_iff_not_or] using this
    have rest : (unmap l g s).nip.plan = s.nip.plan ∧ (unmap l g s).web = s.web ∧ (unmap l g s).setup = s.setup := by
      cases l <;> exact ⟨rfl, rfl, rfl⟩
    obtain ⟨plan, web, setup⟩ := rest
    unfold PlanCurrent
    rw [kept, plan, web, setup]
    exact h
  | registers b s l slot r g y _ _ _ _ =>
    intro _ _ h
    cases l <;> exact h
  | line b s x a c =>
    intro _ maps h
    have zones := zones_nil_of_disabled maps a c
    unfold PlanCurrent at h
    show s.nip.plan = planOf (banned s.web) x.policy x.bridge s.nip.zones
    rw [zones, planOf_nil] at h
    rw [zones, planOf_nil, h]
  | cold b s => exact fun _ _ _ => (planOf_nil _ _ _).symm
  | warm b s keep answered => exact fun _ _ _ => (planOf_nil _ _ _).symm
  | south | north | tracker | mgmt | jobs | rest => exact fun _ _ h => h

/-- Settles O57: registration meets a map whose older segments are CLOSED, by the invariant itself, so both inductions apply. -/
theorem stepKeepsPlanCurrent : Obligations.StepKeepsPlanCurrent :=
  step_keeps (alone := True) (fun _ _ h => ⟨h.plan, h.owners, h.disabled, h.closed⟩) (fun _ _ h l => h.closed l) fun s t e h => by
    obtain ⟨maps, plan⟩ := (planAgrees_iff s).mp h
    exact (planAgrees_iff t).mpr ⟨e.mapsAgree maps, e.planCurrent rfl maps plan⟩

end Sys2Proof.Machine
end

section
/-! PROOFS. What the blocks agree on (R25, R29, R35, R97, R132, R134, R141, R177, R179, R189, R190), the output lines (R175, R176,
R206), what every command keeps of the queue of commands, and which commands start a lane (R74). -/

namespace Sys2Proof.Machine

/-! ## Ports, tracker, stations and Nip Planner -/

/-- What the blocks agree on, the output lines apart. -/
structure BlocksAgree (s : State) : Prop where
  north : NorthAgrees s.north
  south : SouthAgrees s.south
  tracker : TrackerAgrees s.tracker s.setup.revLimit
  stations : ∀ st, StationAgrees (s.station st)
  nip : NipAgrees s.nip

theorem agrees_iff (s : State) : Agrees s ↔ BlocksAgree s ∧ LinesShown s :=
  ⟨fun h => ⟨⟨⟨h.ports.northDown, h.ports.northIdle⟩, ⟨h.ports.southDown, h.ports.southIdle⟩, h.tracker, h.stations, h.nip⟩, h.pins⟩,
   fun ⟨h, pins⟩ => ⟨⟨h.north.1, h.north.2, h.south.1, h.south.2⟩, h.tracker, h.stations, h.nip, pins⟩⟩

theorem BlocksAgree.setStation {s : State} (h : BlocksAgree s) {st : Station} {y : StationState} (hy : StationAgrees y) :
    BlocksAgree (s.setStation st y) := by
  have stations : ∀ z, StationAgrees ((s.setStation st y).station z) := fun z => by
    by_cases e : z = st
    · subst e; rwa [State.station_setStation]
    · rw [State.station_setStation_ne s st z y e]; exact h.stations z
  cases st <;> exact ⟨h.north, h.south, h.tracker, stations, h.nip⟩

theorem stationAgrees_reset : StationAgrees StationState.reset := by
  simp [StationAgrees, StationState.reset, StationState.configured]

theorem stationAgrees_warm (x : StationState) : StationAgrees x.warm := by
  unfold StationAgrees StationState.warm
  cases e : x.configured <;> simp_all [StationState.reset, StationState.configured]

theorem trackerAgrees_reset (revLimit : Nat) : TrackerAgrees Tracker.reset revLimit := by
  constructor <;> simp [Tracker.reset]

theorem nipAgrees_reset : NipAgrees Nip.reset := by
  constructor <;> simp [Nip.reset]

theorem blocksAgree_cold (s : State) : BlocksAgree (coldState s) where
  north := ⟨fun _ => rfl, fun _ => ⟨rfl, rfl⟩⟩
  south := ⟨fun _ => rfl, fun _ => ⟨rfl, rfl⟩⟩
  tracker := trackerAgrees_reset _
  stations st := by cases st <;> exact stationAgrees_reset
  nip := nipAgrees_reset

theorem blocksAgree_warm {s : State} (h : BlocksAgree s) (keep answered : Bool) : BlocksAgree (warmReset keep answered s) where
  north := ⟨h.north.1, fun idle => ⟨by
    show warmOwn answered s.north.own = []
    rw [(h.north.2 idle).1]
    cases answered <;> rfl, rfl⟩⟩
  south := ⟨h.south.1, fun _ => ⟨rfl, rfl⟩⟩
  tracker := trackerAgrees_reset _
  stations st := by cases st <;> exact stationAgrees_warm _
  nip := ⟨nipAgrees_reset.decided, nipAgrees_reset.engage, nipAgrees_reset.release, nipAgrees_reset.temp⟩

theorem trackerAgrees_line {k : Tracker} {old : Nat} (h : TrackerAgrees k old) (new : Nat) :
    TrackerAgrees { k with debt := min k.debt new } new :=
  ⟨h.still, h.tracking, h.estimated, h.holding, Nat.min_le_right _ _⟩

/-- Every elementary change keeps what the blocks agree on. -/
theorem Evolves.blocksAgree {start : Lane → Prop} {alone : Prop} {b : Bool} {s t : State} (e : Evolves start alone b s t) :
    BlocksAgree s → BlocksAgree t := by
  induction e with
  | refl => exact fun h => h
  | trans _ _ ih1 ih2 => exact fun h => ih2 (ih1 h)
  | settled _ _ ih => exact ih
  | lane b s l y _ =>
    intro h
    cases l <;> exact ⟨h.north, h.south, h.tracker, h.stations, h.nip⟩
  | station b s st y step => exact fun h => h.setStation (step.agrees (h.stations st))
  | south b s p step => exact fun h => { h with south := step.agrees h.south }
  | north b s p step => exact fun h => { h with north := step.agrees h.north }
  | tracker b s k step => exact fun h => { h with tracker := step.agrees h.tracker }
  | nip b s n step => exact fun h => { h with nip := step.agrees h.nip }
  | leaves b s l g _ _ =>
    intro h
    have nip : NipAgrees (unmap l g s).nip := by cases l <;> exact ⟨h.nip.decided, h.nip.engage, h.nip.release, h.nip.temp⟩
    cases l <;> exact ⟨h.north, h.south, h.tracker, h.stations, nip⟩
  | registers b s l slot r g y _ _ _ _ =>
    intro h
    cases l <;> exact ⟨h.north, h.south, h.tracker, h.stations, h.nip⟩
  | line b s x _ _ => exact fun h => { h with tracker := trackerAgrees_line h.tracker x.revLimit }
  | cold b s => exact fun _ => blocksAgree_cold s
  | warm b s keep answered => exact fun h => blocksAgree_warm h keep answered
  | web | mgmt | jobs | rest => exact fun h => { h with }

/-! ## The output lines -/

theorem linesShown_refreshPins (s : State) : LinesShown (refreshPins s) := linesShown_of_pins _ rfl

theorem linesShown_finish (s : State) : LinesShown (finish s) := linesShown_refreshPins _

theorem linesShown_cold (s : State) : LinesShown (coldState s) := by
  have levels : State.reset.pins = pinLevels State.reset := by decide
  exact linesShown_of_pins _ levels

/-- The output lines read neither the queue of commands nor the turns. -/
theorem LinesShown.queues {s : State} (h : LinesShown s) (rest : List Instr) (turns : List Turn) :
    LinesShown { s with pending := rest, turns := turns } where
  stop0 := ⟨h.stop0.disabled, h.stop0.active, h.stop0.released, h.stop0.driven⟩
  stop1 := ⟨h.stop1.disabled, h.stop1.active, h.stop1.released, h.stop1.driven⟩
  attnN := h.attnN

theorem linesShown_ite {c : Prop} [Decidable c] {t u : State} (ht : c → LinesShown t) (hu : ¬c → LinesShown u) :
    LinesShown (if c then t else u) := by
  split
  · exact ht ‹_›
  · exact hu ‹_›

theorem linesShown_dispatchWatched (f : Frame) {s : State} (h : LinesShown s) : LinesShown (dispatchWatched f s) := by
  have pos : LinesShown (dispatchPos f.payload s) := by
    unfold dispatchPos
    split <;> exact linesShown_finish _
  have mark : LinesShown (dispatchMark f.payload s) := by
    unfold dispatchMark
    split
    · exact linesShown_finish _
    · exact h
    · exact h
  have roll : LinesShown (dispatchRoll f.payload s) := by
    unfold dispatchRoll
    split
    · exact linesShown_ite (fun _ => linesShown_finish _) fun _ => h
    · exact h
    · exact h
  exact linesShown_ite (fun _ => linesShown_ite (fun _ => pos) fun _ => h) fun _ =>
    linesShown_ite (fun _ => linesShown_ite (fun _ => mark) fun _ => h) fun _ => linesShown_ite (fun _ => roll) fun _ => h

theorem linesShown_dispatchConsumed (f : Frame) {s : State} (h : LinesShown s) : LinesShown (dispatchConsumed f s) := by
  have status : LinesShown (dispatchStatus f s) := by
    unfold dispatchStatus
    split
    · exact linesShown_ite (fun _ => linesShown_finish _) fun _ => h
    · exact h
  exact linesShown_ite (fun _ => status) fun _ =>
    linesShown_ite (fun _ => linesShown_ite (fun _ => linesShown_finish _) fun _ => h) fun _ =>
      linesShown_ite (fun _ => linesShown_finish _) fun _ => h

theorem linesShown_serveCode (code token : Byte) (body : List Byte) (s : State) : LinesShown (serveCode code token body s) :=
  linesShown_ite (fun _ => linesShown_finish _) fun _ => linesShown_finish _

theorem linesShown_arrive (p : Port) (bytes : List Byte) {s : State} (h : LinesShown s) : LinesShown (arrive p bytes s) := by
  unfold arrive
  split
  · exact linesShown_finish _
  · cases p
    · exact linesShown_ite (fun _ => linesShown_finish _) fun _ => linesShown_ite
        (fun _ => linesShown_ite (fun _ => linesShown_serveCode _ _ _ _) fun _ => h) fun _ =>
        linesShown_ite (fun _ => linesShown_finish _) fun _ => linesShown_finish _
    · exact linesShown_ite (fun _ => linesShown_dispatchWatched _ (linesShown_finish _)) fun _ =>
        linesShown_ite (fun _ => linesShown_dispatchConsumed _ h) fun _ => linesShown_finish _

/-- Every command ends its event with the output lines at their levels, or leaves the state as it was, or resets it. -/
theorem exec_linesShown {c : Instr} {s t : State} (step : exec c s = .next t) (h : LinesShown s) : LinesShown t := by
  cases c <;> cases step
  case coldReset => exact linesShown_cold s
  case portDown => exact linesShown_ite (fun _ => linesShown_finish _) fun _ => h
  case portUp => exact linesShown_ite (fun _ => h) fun _ => linesShown_finish _
  case frameReceived p bytes => exact linesShown_ite (fun _ => linesShown_arrive p bytes h) fun _ => h
  case transmissionEnd => exact linesShown_finish _
  -- the ENUM command, whose constructor's name is a word of Lean's own here
  next => exact linesShown_ite (fun _ => linesShown_finish _) fun _ => h
  case rollDescriptor => exact linesShown_ite (fun _ => linesShown_finish _) fun _ => h
  case attnQueued => exact linesShown_refreshPins _
  case reportQueued => exact linesShown_refreshPins _
  case lineReset => exact linesShown_ite (fun _ => linesShown_finish _) fun _ => linesShown_finish _
  case unknownRequest code token body => exact linesShown_serveCode code token body s
  all_goals exact linesShown_finish _

theorem linesShown_runTick (atOnce : Bool) (k : TickTaker) (s : State) : LinesShown (runTick atOnce k s) := by
  cases k <;> exact linesShown_finish _

theorem linesShown_idle {s : State} (h : LinesShown s) : LinesShown (idle s) := by
  refine linesShown_ite (fun _ => linesShown_finish _) fun _ => ?_
  have ticks : ∀ (ks : List TickTaker) (u : State), LinesShown u →
      LinesShown (ks.foldl (fun acc k => runTick s.turn.expiryAtOnce k acc) u) := by
    intro ks
    induction ks with
    | nil => exact fun _ hu => hu
    | cons k ks ih => exact fun u _ => ih _ (linesShown_runTick _ k u)
  exact ticks _ _ (h.queues s.pending s.turns.tail)

theorem step_linesShown {s t : State} (e : step s = .next t) (h : LinesShown s) : LinesShown t := by
  unfold step at e
  split at e
  · cases e
    exact linesShown_idle h
  next c rest _ => exact exec_linesShown e (h.queues rest s.turns)

theorem stepKeepsBlocks : ∀ s t : State, BlocksAgree s → step s = .next t → BlocksAgree t :=
  step_keeps (alone := False) (fun _ _ h => ⟨h.north, h.south, h.tracker, h.stations, h.nip⟩) (fun impossible => impossible.elim)
    fun _ _ e => e.blocksAgree

/-- Settles O55: the blocks agree by the elementary changes, the output lines because every event sets them last. -/
theorem stepKeepsAgreement : Obligations.StepKeepsAgreement := by
  intro s t h e
  obtain ⟨blocks, lines⟩ := (agrees_iff s).mp h
  exact (agrees_iff t).mpr ⟨stepKeepsBlocks s t blocks e, step_linesShown e lines⟩

/-! ## Completion, the queue of commands, and reset -/

/-- Settles O1: by the definition of a step. -/
theorem stepTakesFrontCommand : Obligations.StepTakesFrontCommand := fun _ _ _ => rfl

/-- Every elementary change leaves the queue of commands alone. -/
theorem Evolves.pending {start : Lane → Prop} {alone : Prop} {b : Bool} {s t : State} (e : Evolves start alone b s t) :
    t.pending = s.pending := by
  induction e with
  | trans _ _ ih1 ih2 => exact ih2.trans ih1
  | settled _ _ ih => exact ih
  | lane b s l y _ => cases l <;> rfl
  | station b s st y _ => cases st <;> rfl
  | leaves b s l g _ _ => cases l <;> rfl
  | registers b s l _ _ _ _ _ _ _ _ => cases l <;> rfl
  | refl | south | north | tracker | nip | web | mgmt | jobs | line | cold | warm | rest => rfl

theorem exec_completes (c : Instr) (s : State) : ∃ t, exec c s = .next t := by
  cases c <;> exact ⟨_, rfl⟩

/-- Settles O2: each command's meaning is a next state, reached by elementary changes, which leave the queue alone. -/
theorem everyCommandCompletes : Obligations.EveryCommandCompletes := by
  intro c s
  obtain ⟨t, step⟩ := exec_completes c s
  have changes : Evolves (fun _ => True) False false s t :=
    exec_evolves step (fun impossible => impossible.elim) fun _ _ _ => trivial
  exact ⟨t, step, changes.pending⟩

/-- Settles O4: the reset state, field by field. -/
theorem coldResetValues : Obligations.ColdResetValues := by
  intro s
  refine ⟨coldState s, rfl, ?_⟩
  have lanes : ∀ l, ∃ r, (coldState s).lane l = LaneState.reset r := fun | .a => ⟨_, rfl⟩ | .b => ⟨_, rfl⟩
  have stations : ∀ st, (coldState s).station st = StationState.reset := fun st => by cases st <;> rfl
  refine ⟨rfl, rfl, rfl, rfl, rfl, rfl, rfl, rfl, rfl, rfl, rfl, rfl, rfl, rfl, fun l => ?_, rfl, rfl, fun st => ?_, ?_⟩
  · obtain ⟨r, e⟩ := lanes l
    rw [e]
    exact ⟨rfl, rfl, rfl, rfl, rfl, rfl, rfl, rfl, rfl⟩
  · rw [stations st]
    exact ⟨rfl, rfl, rfl⟩
  · repeat' constructor

/-- Settles O58: the reset state is one the cold reset leaves. -/
theorem resetMeetsInvariants : Obligations.ResetMeetsInvariants := by
  exact ⟨(capacities_iff _).mpr (bounds_cold State.reset),
    (agrees_iff _).mpr ⟨blocksAgree_cold State.reset, linesShown_cold State.reset⟩, jobsAgree_cold State.reset,
    (planAgrees_iff _).mpr ⟨mapsAgree_empty rfl fun | .a => ⟨_, rfl⟩ | .b => ⟨_, rfl⟩, (planOf_nil _ _ _).symm⟩⟩

/-! ## Starting a lane (R71, R74) -/

/-- Where a chain of elementary changes leaves a lane RUNNING that was not, `start` permits it. -/
theorem Evolves.starts {start : Lane → Prop} {alone : Prop} {b : Bool} {s t : State} (e : Evolves start alone b s t) (l : Lane) :
    (s.lane l).mode ≠ .running → (t.lane l).mode = .running → start l := by
  induction e with
  | @trans b s t u _ _ ih1 ih2 =>
    intro before after
    by_cases between : (t.lane l).mode = .running
    · exact ih1 before between
    · exact ih2 between after
  | settled _ _ ih => exact ih
  | lane b s m y step =>
    intro before after
    by_cases same : l = m
    · subst same
      rw [State.lane_setLane] at after
      rcases step.mode with e | ⟨e, -⟩ | ⟨e, -⟩ | ⟨allowed, -⟩
      · exact absurd (e.symm.trans after) before
      · exact absurd (e.symm.trans after) (by decide)
      · exact absurd (e.symm.trans after) (by decide)
      · exact allowed
    · rw [State.lane_setLane_ne s m l y same] at after
      exact absurd after before
  | registers b s m slot r g y _ _ _ step =>
    intro before after
    have same : ((s.modSlot slot takeCopy).setLane m y).lane l = if l = m then y else s.lane l := by
      split
      next e => rw [e, State.lane_setLane]
      next e => rw [State.lane_setLane_ne _ m l y e, modSlot_lane]
    have running := same ▸ after
    split at running
    next e => exact absurd (e ▸ step.running) before
    · exact absurd running before
  | leaves b s m g _ _ =>
    intro before after
    rw [unmap_lane] at after
    by_cases same : l = m
    · subst same
      rw [State.lane_setLane] at after
      exact absurd after before
    · rw [State.lane_setLane_ne s m l _ same] at after
      exact absurd after before
  | station b s st y _ =>
    intro before after
    cases st <;> exact absurd after before
  | cold b s =>
    intro _ after
    have disabled : ((coldState s).lane l).mode = .disabled := by cases l <;> rfl
    exact absurd (disabled.symm.trans after) (by decide)
  | warm b s keep answered =>
    intro _ after
    have disabled : ((warmReset keep answered s).lane l).mode = .disabled := by cases l <;> rfl
    exact absurd (disabled.symm.trans after) (by decide)
  | refl | south | north | tracker | nip | web | mgmt | jobs | line | rest => exact fun before after => absurd after before

/-- Settles O60: a lane is started by the elementary change that only the LANE START command permits, from DISABLED. -/
theorem onlyLaneStartRunsLane : Obligations.OnlyLaneStartRunsLane := by
  intro c s t l step before after
  have changes : Evolves (fun m => StartsLane c s ∧ (s.lane m).mode = .disabled) False false s t :=
    exec_evolves step (fun impossible => impossible.elim) fun starts _ disabled => ⟨starts, disabled⟩
  obtain ⟨starts, disabled⟩ := changes.starts l before after
  exact ⟨disabled, starts⟩

end Sys2Proof.Machine
end

section
/-! PROOFS. The bytes of frames and bodies (section 9.2), what a port takes as a frame (R180, R181), arbitration (R189, R190), link
state changes (R179) and enumeration (R182). -/

namespace Sys2Proof.Machine

/-! ## Fields of a byte list (section 9.2) -/

@[simp] theorem byteAt_cons_zero (b : Byte) (bs : List Byte) : byteAt (b :: bs) 0 = b.toNat := rfl
@[simp] theorem byteAt_cons_succ (b : Byte) (bs : List Byte) (i : Nat) : byteAt (b :: bs) (i + 1) = byteAt bs i := rfl

theorem byteAt_lt (bs : List Byte) (i : Nat) : byteAt bs i < 256 := (bs.getD i 0#8).isLt

theorem field16_lt (bs : List Byte) (i : Nat) : field16 bs i < 65536 := by
  have := byteAt_lt bs i
  have := byteAt_lt bs (i + 1)
  unfold field16
  omega

theorem byteAt_append_left {xs : List Byte} {i : Nat} (h : i < xs.length) (ys : List Byte) :
    byteAt (xs ++ ys) i = byteAt xs i := by
  unfold byteAt
  rw [List.getD_append _ _ _ _ h]

theorem byteAt_append_right (xs ys : List Byte) (i : Nat) : byteAt (xs ++ ys) (xs.length + i) = byteAt ys i := by
  unfold byteAt
  rw [List.getD_append_right _ _ _ _ (Nat.le_add_right _ _), Nat.add_sub_cancel_left]

@[simp] theorem field16_cons_succ (b : Byte) (bs : List Byte) (i : Nat) : field16 (b :: bs) (i + 1) = field16 bs i := rfl
@[simp] theorem field32_cons_succ (b : Byte) (bs : List Byte) (i : Nat) : field32 (b :: bs) (i + 1) = field32 bs i := rfl

theorem field16_append_right (xs ys : List Byte) (i : Nat) : field16 (xs ++ ys) (xs.length + i) = field16 ys i := by
  rw [field16, field16, byteAt_append_right, Nat.add_assoc, byteAt_append_right]

theorem field32_append_right (xs ys : List Byte) (i : Nat) : field32 (xs ++ ys) (xs.length + i) = field32 ys i := by
  rw [field32, field32, field16_append_right, Nat.add_assoc, field16_append_right]

@[simp] theorem length_be8 (n : Nat) : (be8 n).length = 1 := rfl
@[simp] theorem length_be16 (n : Nat) : (be16 n).length = 2 := rfl
@[simp] theorem length_be32 (n : Nat) : (be32 n).length = 4 := rfl

theorem field16_be16 (n : Nat) (ys : List Byte) : field16 (be16 n ++ ys) 0 = n % 65536 := by
  show (BitVec.ofNat 8 (n / 256)).toNat * 256 + (BitVec.ofNat 8 n).toNat = n % 65536
  rw [BitVec.toNat_ofNat, BitVec.toNat_ofNat]
  omega

theorem field32_be32 (n : Nat) (ys : List Byte) : field32 (be32 n ++ ys) 0 = n % 4294967296 := by
  show ((BitVec.ofNat 8 (n / 16777216)).toNat * 256 + (BitVec.ofNat 8 (n / 65536)).toNat) * 65536 +
    ((BitVec.ofNat 8 (n / 256)).toNat * 256 + (BitVec.ofNat 8 n).toNat) = n % 4294967296
  rw [BitVec.toNat_ofNat, BitVec.toNat_ofNat, BitVec.toNat_ofNat, BitVec.toNat_ofNat]
  omega

/-- The two bytes that a two-byte field is read from are the ones it is written as. -/
theorem be16_bytes (a b : Byte) : be16 (a.toNat * 256 + b.toNat) = [a, b] := by
  have ha := a.isLt
  have hb := b.isLt
  unfold be16
  congr 1
  · exact BitVec.eq_of_toNat_eq (by rw [BitVec.toNat_ofNat]; omega)
  · exact congrArg (· :: []) (BitVec.eq_of_toNat_eq (by rw [BitVec.toNat_ofNat]; omega))

theorem be16_toNat (x : BitVec 16) : be16 x.toNat = [x.extractLsb' 8 8, x.extractLsb' 0 8] := by
  unfold be16
  have high : BitVec.ofNat 8 (x.toNat / 256) = x.extractLsb' 8 8 :=
    BitVec.eq_of_toNat_eq (by simp [BitVec.extractLsb'_toNat, Nat.shiftRight_eq_div_pow])
  have low : BitVec.ofNat 8 x.toNat = x.extractLsb' 0 8 := BitVec.eq_of_toNat_eq (by simp [BitVec.extractLsb'_toNat])
  rw [high, low]

/-! ## Frames as bytes (R180, R181) -/

theorem length_checked (f : Frame) : f.checked.length = 4 + f.payload.length := by
  rw [Frame.checked, List.length_append]
  rfl

theorem length_wire (f : Frame) : f.wire.length = 6 + f.payload.length := by
  rw [Frame.wire, List.length_append, length_checked, length_be16]
  omega

theorem byteAt_wire_length {f : Frame} (fits : f.payload.length ≤ 200) : byteAt f.wire 3 = f.payload.length := by
  show (BitVec.ofNat 8 f.payload.length).toNat = f.payload.length
  rw [BitVec.toNat_ofNat]
  exact Nat.mod_eq_of_lt (by omega)

theorem take_wire (f : Frame) : f.wire.take (4 + f.payload.length) = f.checked := by
  rw [Frame.wire, ← length_checked, List.take_left]

theorem field16_wire_check (f : Frame) : field16 f.wire (4 + f.payload.length) = (crc16 f.checked).toNat := by
  have := field16_append_right f.checked (be16 (crc16 f.checked).toNat) 0
  rw [Nat.add_zero, length_checked] at this
  rw [Frame.wire, this, ← List.append_nil (be16 _), field16_be16]
  exact Nat.mod_eq_of_lt (crc16 f.checked).isLt

/-- The bytes of a frame of LEN at most 200 read back as that frame (R180). -/
theorem readFrame_wire {f : Frame} (fits : f.payload.length ≤ 200) : readFrame f.wire = some f := by
  have length := length_wire f
  unfold readFrame
  simp only
  rw [byteAt_wire_length fits, if_neg (by omega), take_wire, field16_wire_check, if_pos rfl]
  have payload : (f.wire.drop 4).take f.payload.length = f.payload := by
    show (f.payload ++ be16 (crc16 f.checked).toNat).take f.payload.length = f.payload
    exact List.take_left
  rw [payload]
  rfl

/-- What a port takes as a frame: LEN at most 200, as many bytes as LEN gives, and CHK (R180). -/
def Received (bytes : List Byte) : Prop :=
  6 ≤ bytes.length ∧ byteAt bytes 3 ≤ 200 ∧ bytes.length = 6 + byteAt bytes 3 ∧
    (crc16 (bytes.take (4 + byteAt bytes 3))).toNat = field16 bytes (4 + byteAt bytes 3)

theorem readFrame_eq_some {bytes : List Byte} {f : Frame} (h : readFrame bytes = some f) :
    Received bytes ∧ f = { dst := bytes.getD 0 0#8, src := bytes.getD 1 0#8, kind := bytes.getD 2 0#8,
                           payload := (bytes.drop 4).take (byteAt bytes 3) } := by
  unfold readFrame at h
  simp only at h
  split at h
  · cases h
  next lengths =>
    split at h
    next check =>
      cases h
      exact ⟨⟨by omega, by omega, by omega, check⟩, rfl⟩
    · cases h

theorem readFrame_eq_none {bytes : List Byte} (h : ¬Received bytes) : readFrame bytes = none := by
  unfold readFrame Received at *
  simp only
  split
  · rfl
  next lengths =>
    rw [if_neg fun check => h ⟨by omega, by omega, by omega, check⟩]

/-- Bytes that are received are those of the frame read (R180, R181). -/
theorem wire_of_readFrame {bytes : List Byte} {f : Frame} (h : readFrame bytes = some f) :
    f.wire = bytes ∧ f.payload.length ≤ 200 := by
  obtain ⟨⟨six, short, length, check⟩, rfl⟩ := readFrame_eq_some h
  match bytes, six with
  | b0 :: b1 :: b2 :: b3 :: rest, _ =>
    simp only [byteAt_cons_succ, byteAt_cons_zero, List.length_cons] at short length check
    have rests : rest.length = b3.toNat + 2 := by omega
    have payload : (rest.take b3.toNat).length = b3.toNat := by rw [List.length_take]; omega
    have lengthByte : BitVec.ofNat 8 b3.toNat = b3 := by simp
    have checked : (b0 :: b1 :: b2 :: b3 :: rest).take (4 + b3.toNat) = b0 :: b1 :: b2 :: b3 :: rest.take b3.toNat := by
      rw [Nat.add_comm]
      rfl
    have checkBytes : be16 (field16 (b0 :: b1 :: b2 :: b3 :: rest) (4 + b3.toNat)) = rest.drop b3.toNat := by
      obtain ⟨x, y, e⟩ := List.length_eq_two.mp (show (rest.drop b3.toNat).length = 2 by rw [List.length_drop]; omega)
      have split := field16_append_right (rest.take b3.toNat) (rest.drop b3.toNat) 0
      rw [payload, List.take_append_drop, Nat.add_zero, e] at split
      rw [Nat.add_comm 4]
      show be16 (field16 rest b3.toNat) = _
      rw [split, e]
      exact be16_bytes x y
    refine ⟨?_, by show (rest.take b3.toNat).length ≤ 200; omega⟩
    show b0 :: b1 :: b2 :: BitVec.ofNat 8 (rest.take b3.toNat).length :: rest.take b3.toNat ++
      be16 (crc16 (b0 :: b1 :: b2 :: BitVec.ofNat 8 (rest.take b3.toNat).length :: rest.take b3.toNat)).toNat = _
    rw [payload, lengthByte, ← checked, check, checkBytes, checked]
    simp only [List.cons_append, List.take_append_drop]

/-- Settles O8: the check is R181's generator, and reading takes apart what writing put together. -/
theorem frameBytesRoundTrip : Obligations.FrameBytesRoundTrip := by
  refine ⟨fun f => ?_, ?_, fun f fits => readFrame_wire fits, fun bytes f h => wire_of_readFrame h⟩
  · show f.wire = f.checked ++ [(wireCheck f.checked).extractLsb' 8 8, (wireCheck f.checked).extractLsb' 0 8]
    rw [Frame.wire, crc16_wireCheck, be16_toNat]
  · rw [← crc16_wireCheck]
    decide +kernel

/-! ## Reception (R180) -/

theorem EndOfEvent.of_finish {u v : State} (h : u = v) : EndOfEvent u (finish v) := h ▸ endOfEvent_finish u


theorem exec_frameReceived {p : Port} {s : State} (up : portUp p s = true) (bytes : List Byte) :
    exec (.frameReceived p bytes) s = .next (arrive p bytes s) := by
  show Host.Outcome.next (if portUp p s then arrive p bytes s else s) = _
  rw [if_pos up]

theorem arrive_bad {bytes : List Byte} (bad : ¬Received bytes) (p : Port) (s : State) :
    arrive p bytes s = finish (crcError p s) := by
  unfold arrive
  rw [readFrame_eq_none bad]

theorem arrive_north {f : Frame} (fits : f.payload.length ≤ 200) (s : State) : arrive .north f.wire s = routeNorth f s := by
  unfold arrive
  rw [readFrame_wire fits]

theorem arrive_south {f : Frame} (fits : f.payload.length ≤ 200) (s : State) : arrive .south f.wire s = routeSouth f s := by
  unfold arrive
  rw [readFrame_wire fits]

/-- Settles O7: bytes that fail a reception check are no frame, and the port counts them. -/
theorem badFrameIsCounted : Obligations.BadFrameIsCounted := by
  intro s bytes fails
  have bad : ¬Received bytes := by
    rintro ⟨six, short, length, check⟩
    rw [crc16_wireCheck] at check
    rcases fails with h | h | h | h
    · omega
    · omega
    · omega
    · exact h check
  refine ⟨fun up => ⟨_, exec_frameReceived (p := .north) up bytes, ?_⟩, fun up => ⟨_, exec_frameReceived (p := .south) up bytes, ?_⟩⟩
  · rw [arrive_bad bad]
    exact endOfEvent_finish _
  · rw [arrive_bad bad]
    exact endOfEvent_finish _

/-! ## Arbitration (R189, R190) -/

theorem southStart_idle {p : SouthPort} (up : p.up = true) : { p with tx := none }.start =
    match p.urgent, p.fwd with
    | a :: r, _ => { p with tx := some a, urgent := r }
    | [], b :: q => { p with tx := some b, fwd := q }
    | [], [] => { p with tx := none } := by
  unfold SouthPort.start SouthPort.choose
  cases hu : p.urgent <;> cases hf : p.fwd <;> simp [up]

theorem northStart_idle {p : NorthPort} (up : p.up = true) : { p with tx := none }.start =
    match p.own, p.fwd with
    | a :: r, [] => { p with tx := some a, own := r, run := 0 }
    | a :: r, b :: q =>
        if p.run = 4 then { p with tx := some a, own := r, run := 0 } else { p with tx := some b, fwd := q, run := p.run + 1 }
    | [], b :: q => { p with tx := some b, fwd := q, run := 0 }
    | [], [] => { p with tx := none } := by
  unfold NorthPort.start NorthPort.choose
  cases ho : p.own <;> cases hf : p.fwd <;> simp [up]

/-- Settles O6: the transmission ends, and the arbiter of the freed transmitter chooses. -/
theorem portArbitration : Obligations.PortArbitration := by
  refine ⟨fun s f sending up => ⟨_, rfl, ?_⟩, fun s f sending up => ⟨_, rfl, ?_⟩⟩
  · have ends : endTransmission .south s = { s with south := { s.south with tx := none }.start } := by
      simp [endTransmission, sending]
    rw [ends]
    exact .of_finish (congrArg (fun p => { s with south := p }) (southStart_idle up).symm)
  · have ends : endTransmission .north s = { s with north := { s.north with tx := none }.start } := by
      simp [endTransmission, sending]
    rw [ends]
    exact .of_finish (congrArg (fun p => { s with north := p }) (northStart_idle up).symm)

/-! ## Link state changes (R179) -/

theorem txCount_eq (tx : Option Frame) : txCount tx = if tx = none then 0 else 1 := by cases tx <;> rfl

/-- LINK_ERROR set again changes nothing more, whatever the ports have become in between. -/
theorem linkError_again (s : State) (p : NorthPort) (q : SouthPort) :
    raise prioLinkError { raise prioLinkError s with north := p, south := q } =
      raise prioLinkError { s with north := p, south := q } := by
  have set : attnHas (s.mgmt.flags ||| attnBit prioLinkError) prioLinkError = true := by
    simp [attnHas, attnBit, prioLinkError]
  simp [raise, set, BitVec.or_assoc]

theorem goDown_north (receiving : Bool) (s : State) (lost : Nat)
    (h : lost = s.north.fwd.length + s.north.own.length + txCount s.north.tx) :
    goDown .north receiving s =
      (let u :=
        { s with
          north :=
            { s.north with
              up := false, tx := none, fwd := [], own := []
              fwdDrops := if lost = 0 then s.north.fwdDrops else bumpBy lost s.north.fwdDrops
              crcErrors := if receiving then bump s.north.crcErrors else s.north.crcErrors } }
      if lost = 0 ∧ receiving = false then u else raise prioLinkError u) := by
  have down : goDown .north receiving s = if receiving then crcError .north (downNorth s) else downNorth s := rfl
  have drop : downNorth s = dropNorth lost { s with north := { s.north with up := false, tx := none, fwd := [], own := [] } } := by
    rw [h]
    rfl
  rw [down, drop, dropNorth]
  by_cases none : lost = 0
  · cases receiving <;> simp [none, crcError]
  · cases receiving
    · simp [none]
    · simp only [none, if_false, if_true, false_and]
      exact linkError_again _ _ s.south

theorem goDown_south (receiving : Bool) (s : State) (lost : Nat)
    (h : lost = s.south.urgent.length + s.south.fwd.length + txCount s.south.tx) :
    goDown .south receiving s =
      (let u :=
        { s with
          south :=
            { s.south with
              up := false, tx := none, urgent := [], fwd := []
              fwdDrops := if lost = 0 then s.south.fwdDrops else bumpBy lost s.south.fwdDrops
              crcErrors := if receiving then bump s.south.crcErrors else s.south.crcErrors } }
      if lost = 0 ∧ receiving = false then u else raise prioLinkError u) := by
  have down : goDown .south receiving s = if receiving then crcError .south (downSouth s) else downSouth s := rfl
  have drop : downSouth s = dropSouth lost { s with south := { s.south with up := false, tx := none, urgent := [], fwd := [] } } := by
    rw [h]
    rfl
  rw [down, drop, dropSouth]
  by_cases none : lost = 0
  · cases receiving <;> simp [none, crcError]
  · cases receiving
    · simp [none]
    · simp only [none, if_false, if_true, false_and]
      exact linkError_again _ s.north _

theorem exec_portDown {p : Port} {s : State} (up : portUp p s = true) (receiving : Bool) :
    exec (.portDown p receiving) s = .next (finish (goDown p receiving s)) := by
  show Host.Outcome.next (if portUp p s then finish (goDown p receiving s) else s) = _
  rw [if_pos up]

theorem exec_portUp {p : Port} {s : State} (down : portUp p s = false) : exec (.portUp p) s = .next (finish (goUp p s)) := by
  show Host.Outcome.next (if portUp p s then s else finish (goUp p s)) = _
  rw [if_neg (by rw [down]; exact Bool.false_ne_true)]

/-- A pending ATTN at an idle north port with nothing queued begins transmission at the end of the event (R205, R208). -/
theorem attn_starts {u t : State} (e : EndOfEvent u t) (up : u.north.up = true) (own : u.north.own = []) (fwd : u.north.fwd = [])
    (idle : u.north.tx = none) (pending : u.mgmt.pendingAttn = true) (selected : u.mgmt.flags &&& u.mgmt.mask ≠ 0#14) :
    t.north.tx = some (attnFrame u) ∧ t.mgmt.pendingAttn = false := by
  have due : attnDue u = true := by simp [attnDue, pending, selected, ownRoom, up, own]
  obtain ⟨n, -, north, -⟩ := e.placed
  refine ⟨?_, by rw [e.marker, due]; simp⟩
  have first : placedOwn u.north [attnFrame u] = { u.north with tx := some (attnFrame u), run := 0 } := by
    simp [placedOwn, NorthPort.start, NorthPort.choose, up, own, fwd, idle]
  rw [north, due, if_pos rfl, placedOwn_append, first, placedOwn_busy _ _ (by simp)]

/-- Settles O5: what each change of a link state does to its port, and the end of the event after it. -/
theorem portLinkChanges : Obligations.PortLinkChanges := by
  refine ⟨fun s receiving => ⟨fun up => ?_, fun up => ?_⟩, fun s => ⟨fun down => ?_, fun down => ?_⟩⟩
  · refine ⟨_, exec_portDown (p := .north) up receiving, ?_⟩
    exact .of_finish (goDown_north receiving s _ (by rw [txCount_eq])).symm
  · refine ⟨_, exec_portDown (p := .south) up receiving, ?_⟩
    exact .of_finish (goDown_south receiving s _ (by rw [txCount_eq])).symm
  · exact ⟨_, exec_portUp (p := .south) down, endOfEvent_finish _⟩
  · refine ⟨_, exec_portUp (p := .north) down, endOfEvent_finish _, fun pending selected own fwd idle => ?_⟩
    exact attn_starts (u := goUp .north s) (endOfEvent_finish _) rfl own fwd idle pending selected

/-! ## Forwarding and enumeration (R182, R188) -/

theorem forwardSouth_eq (f : Frame) (s : State) : forwardSouth f s = southForwarded f s := by
  unfold forwardSouth southForwarded
  simp only [Bool.and_eq_true, decide_eq_true_eq]
  rfl

theorem forwardNorth_eq (f : Frame) (s : State) : forwardNorth f s = northForwarded f s := by
  unfold forwardNorth northForwarded
  simp only [Bool.and_eq_true, decide_eq_true_eq]
  rfl

theorem exec_enum {s : State} (up : s.north.up = true) (dst src : Byte) (payload : List Byte) :
    exec (.enum dst src payload) s =
      .next (finish (enumerate { dst := dst, src := src, kind := kindEnum, payload := payload } s)) := by
  show Host.Outcome.next (if s.north.up then _ else s) = _
  rw [if_pos up]

/-- Settles O11: by LEN and by the range of the next address. -/
theorem enumAssignsAddress : Obligations.EnumAssignsAddress := by
  intro s dst src up
  refine ⟨fun payload length => ⟨_, exec_enum up dst src payload, ?_⟩,
    fun next low high => ⟨_, exec_enum up dst src [next], ?_⟩, fun next out => ⟨_, exec_enum up dst src [next], ?_⟩⟩
  · rw [enumerate, if_pos length, forwardSouth_eq]
    exact endOfEvent_finish _
  · have enumerated : enumerate { dst := dst, src := src, kind := kindEnum, payload := [next] } s =
        southForwarded { dst := dst, src := src, kind := kindEnum, payload := [next + 1#8] } { s with nodeAddr := next } := by
      rw [← forwardSouth_eq]
      exact if_pos (And.intro low high)
    have ends := endOfEvent_finish (enumerate { dst := dst, src := src, kind := kindEnum, payload := [next] } s)
    refine ⟨ends.nodeAddr.trans ?_, enumerated ▸ ends⟩
    rw [enumerated]
    unfold southForwarded
    split <;> rfl
  · have enumerated : enumerate { dst := dst, src := src, kind := kindEnum, payload := [next] } s =
        southForwarded { dst := dst, src := src, kind := kindEnum, payload := [next] } { s with nodeAddr := 0#8 } := by
      rw [← forwardSouth_eq]
      unfold enumerate
      rw [if_neg (by simp), if_neg]
      rintro ⟨low, high⟩
      rcases out with rfl | out
      · exact absurd (show 1 ≤ (0#8).toNat from low) (by decide)
      · exact absurd (Nat.le_trans out high) (by decide)
    have ends := endOfEvent_finish (enumerate { dst := dst, src := src, kind := kindEnum, payload := [next] } s)
    refine ⟨ends.nodeAddr.trans ?_, enumerated ▸ ends⟩
    rw [enumerated]
    unfold southForwarded
    split <;> rfl

end Sys2Proof.Machine
end

section
/-! PROOFS. Frames from the north and from the south: which part of the unit takes them (R182, R184 to R186, R195 to R197, R210). -/

namespace Sys2Proof.Machine

/-! ## Requests as frames carry them (R196, R197) -/

/-- A request command is its code served (R196, R197). -/
theorem exec_requestOf (code token : Byte) (body : List Byte) (s : State) :
    exec (requestOf code token body) s = .next (serveCode code token body s) := by
  have named : ∀ k : Nat, k < 256 → code.toNat = k → code = BitVec.ofNat 8 k := fun k hk e =>
    BitVec.eq_of_toNat_eq (by rw [BitVec.toNat_ofNat, e]; omega)
  unfold requestOf
  split
  all_goals first
    | (next e => rw [named _ (by decide) e]; rfl)
    | rfl

theorem lineResetReply_invalid {body : List Byte} (h : ¬∃ keep : Byte, body = [keep] ∧ keep.toNat ≤ 1) (s : State) :
    (lineResetReply body s).result ≠ .ok := by
  unfold lineResetReply sized
  split
  next one =>
    obtain ⟨keep, rfl⟩ := List.length_eq_one_iff.mp one
    have outside : ¬byteAt [keep] 0 ≤ 1 := fun valid => h ⟨keep, rfl, valid⟩
    rw [if_neg outside]
    simp [badField]
  · simp [refuse]

theorem broadcastReset_invalid {body : List Byte} (h : ¬∃ keep : Byte, body = [keep] ∧ keep.toNat ≤ 1) (s : State) :
    broadcastReset body s = s := if_neg (lineResetReply_invalid h s)

theorem broadcastReset_valid {keep : Byte} (h : keep.toNat ≤ 1) (s : State) :
    broadcastReset [keep] s = warmReset (keepTables [keep]) false s := by
  refine if_pos ?_
  show (sized 1 [keep] s (if byteAt [keep] 0 ≤ 1 then accept s else badField 1 s)).result = .ok
  rw [byteAt_cons_zero, if_pos h]
  rfl

/-! ## The output lines and the end of an event -/

theorem moveReports_pins (p : Pins) : ∀ (n : Nat) (u : State), moveReports n { u with pins := p } = { moveReports n u with pins := p }
  | 0, _ => rfl
  | n + 1, u => by
    by_cases h : u.mgmt.reports ≠ [] ∧ 2 ≤ ownRoom u
    · have one : moveReport { u with pins := p } = { moveReport u with pins := p } := by
        unfold moveReport
        cases u.mgmt.reports <;> rfl
      have moved : moveReports (n + 1) { u with pins := p } = moveReports n (moveReport { u with pins := p }) := if_pos h
      have before : moveReports (n + 1) u = moveReports n (moveReport u) := if_pos h
      rw [moved, before, one]
      exact moveReports_pins p n _
    · have before : moveReports (n + 1) u = u := if_neg h
      rw [before]
      exact if_neg h

/-- The end of an event sets the output lines anew, whatever they were. -/
theorem finish_ignores_pins (p : Pins) (u : State) : finish { u with pins := p } = finish u := by
  have marker : dropMarker { u with pins := p } = { dropMarker u with pins := p } := by
    unfold dropMarker
    split <;> rfl
  have attn : ∀ v : State, placeAttn { v with pins := p } = { placeAttn v with pins := p } := fun v => by
    by_cases h : (v.mgmt.pendingAttn && decide (0 < ownRoom v) && !attnWaits v) = true
    · have before : placeAttn v = placeOwn (ownFrame kindAttn (attnPayload v.mgmt) v)
          { v with mgmt := { v.mgmt with pendingAttn := false } } := if_pos h
      rw [before]
      exact if_pos h
    · have before : placeAttn v = v := if_neg h
      rw [before]
      exact if_neg h
  have filled : fillOwn { u with pins := p } = { fillOwn u with pins := p } := by
    unfold fillOwn
    rw [marker, attn]
    exact moveReports_pins p _ _
  rw [finish, filled]
  rfl

theorem southForwarded_pins (f : Frame) (p : Pins) (u : State) :
    southForwarded f { u with pins := p } = { southForwarded f u with pins := p } := by
  unfold southForwarded
  split <;> rfl

/-- With no flag set and no report waiting the end of an event only sets the output lines. -/
theorem finish_quiet {u : State} (flags : u.mgmt.flags = 0#14) (marker : u.mgmt.pendingAttn = false)
    (reports : u.mgmt.reports = []) : finish u = { u with pins := pinLevels u } := by
  have marked : dropMarker u = u := by
    rw [dropMarker, flags, if_pos (BitVec.zero_and)]
    have same : { u.mgmt with pendingAttn := false } = u.mgmt := by rw [← marker]
    rw [same]
  have placed : placeAttn u = u := by simp [placeAttn, marker]
  have filled : fillOwn u = u := by
    rw [fillOwn, marked, placed, reports]
    rfl
  rw [finish, filled, refreshPins]

/-! ## Frames from the north (R184) -/

theorem exec_northFrame {s : State} (up : s.north.up = true) {f : Frame} (fits : f.payload.length ≤ 200) :
    exec (.frameReceived .north f.wire) s = .next (routeNorth f s) := by
  rw [exec_frameReceived (p := .north) up, arrive_north fits]

theorem routeNorth_enum {f : Frame} (kind : f.kind = 0x01#8) (s : State) : routeNorth f s = finish (enumerate f s) :=
  if_pos kind

theorem routeNorth_here {f : Frame} {s : State} (kind : f.kind ≠ 0x01#8) (dst : f.dst = s.nodeAddr) :
    routeNorth f s = consumeNorth f s := by
  rw [routeNorth, if_neg (show f.kind ≠ kindEnum from kind), if_pos dst]

/-- A frame for another node is forwarded; a broadcast LINE RESET is first acted on, which does nothing where it is invalid. -/
theorem routeNorth_away {f : Frame} {s : State} (kind : f.kind ≠ 0x01#8) (dst : f.dst ≠ s.nodeAddr)
    (invalid : ¬(f.dst = 63#8 ∧ f.kind = 0x40#8 ∧ ∃ token keep, f.payload = [0x60#8, token, keep] ∧ keep.toNat ≤ 1)) :
    routeNorth f s = finish (southForwarded f s) := by
  rw [routeNorth, if_neg (show f.kind ≠ kindEnum from kind), if_neg dst, ← forwardSouth_eq]
  split
  next reset =>
    obtain ⟨broadcast, code⟩ := reset
    simp only [isLineReset, Bool.and_eq_true, decide_eq_true_eq] at code
    obtain ⟨⟨req, nonempty⟩, lineReset⟩ := code
    have nothing : (if 2 ≤ f.payload.length then broadcastReset (f.payload.drop 2) s else s) = s := by
      split
      next two =>
        refine broadcastReset_invalid (fun valid => invalid ⟨broadcast, req, ?_⟩) s
        obtain ⟨keep, body, range⟩ := valid
        match e : f.payload, two with
        | a :: token :: rest, _ =>
          rw [e] at body lineReset
          exact ⟨token, keep, by rw [show a = 0x60#8 from lineReset, show rest = [keep] from body], range⟩
      · rfl
    rw [broadcastNorth, nothing]
  · rfl

/-- Settles O9: by kind, destination and body. -/
theorem northFrameRouted : Obligations.NorthFrameRouted := by
  intro s up
  refine ⟨fun dst src payload fits => ?_, fun src code token body fits => ?_, fun f fits kind dst other => ?_,
    fun f fits kind dst invalid => ?_, fun src token keep addr range => ?_⟩
  · rw [exec_northFrame up fits, exec_enum up]
    exact congrArg _ (routeNorth_enum rfl s)
  · rw [exec_northFrame up (by simp only [List.length_cons]; omega), exec_requestOf, routeNorth_here (show (0x40#8 : Byte) ≠ 0x01#8 by decide) rfl]
    exact congrArg _ (if_pos ⟨rfl, by simp⟩)
  · rw [exec_northFrame up fits, routeNorth_here kind dst]
    refine congrArg _ (if_neg ?_)
    rintro ⟨req, two⟩
    rcases other with h | h
    · exact h req
    · exact absurd two (Nat.not_le.mpr h)
  · rw [exec_northFrame up fits, routeNorth_away kind dst invalid]
    exact ⟨_, rfl, endOfEvent_finish _⟩
  · have reset := broadcastReset_valid range s
    have quiet : finish (broadcastReset [keep] s) = { broadcastReset [keep] s with pins := pinLevels (broadcastReset [keep] s) } := by
      rw [reset]
      exact finish_quiet rfl rfl rfl
    refine ⟨_, _, rfl, exec_northFrame up (by simp), ?_⟩
    have route : routeNorth { dst := 63#8, src := src, kind := 0x40#8, payload := [0x60#8, token, keep] } s =
        finish (southForwarded { dst := 63#8, src := src, kind := 0x40#8, payload := [0x60#8, token, keep] }
          (broadcastReset [keep] s)) := by
      rw [routeNorth, if_neg (show (0x40#8 : Byte) ≠ kindEnum by decide), if_neg (Ne.symm addr), if_pos ⟨rfl, rfl⟩, ← forwardSouth_eq]
      rfl
    rw [route]
    show EndOfEvent (southForwarded _ (finish (broadcastReset [keep] s))) _
    rw [quiet, southForwarded_pins, ← finish_ignores_pins]
    exact endOfEvent_finish _

/-! ## Frames from the south (R185, R186) -/

theorem exec_southFrame {s : State} (up : s.south.up = true) {f : Frame} (fits : f.payload.length ≤ 200) :
    exec (.frameReceived .south f.wire) s = .next (routeSouth f s) := by
  rw [exec_frameReceived (p := .south) up, arrive_south fits]

theorem routeSouth_watched {f : Frame} (kind : f.kind = 0x10#8 ∨ f.kind = 0x11#8 ∨ f.kind = 0x12#8) (s : State) :
    routeSouth f s = dispatchWatched f (finish (northForwarded f s)) := by
  have watched : isWatched f = true := by
    rcases kind with h | h | h <;> simp [isWatched, h, kindPos, kindMark, kindRoll]
  rw [routeSouth, if_pos watched, forwardNorth_eq]

theorem isWatched_eq_false {f : Frame} (kind : f.kind ≠ 0x10#8 ∧ f.kind ≠ 0x11#8 ∧ f.kind ≠ 0x12#8) : isWatched f = false := by
  simp [isWatched, kind, kindPos, kindMark, kindRoll]

theorem isConsumed_iff (f : Frame) : isConsumed f = true ↔ f.kind = 0x20#8 ∨ f.kind = 0x31#8 ∨ f.kind = 0x32#8 := by
  rw [isConsumed, Bool.or_eq_true, Bool.or_eq_true, or_assoc]
  exact or_congr decide_eq_true_iff (or_congr decide_eq_true_iff decide_eq_true_iff)

theorem addressedHere_iff (f : Frame) (s : State) :
    addressedHere f s = true ↔ f.dst = s.nodeAddr ∧ 1 ≤ s.nodeAddr.toNat ∧ s.nodeAddr.toNat ≤ 62 := by
  simp [addressedHere, and_assoc]

theorem routeSouth_here {f : Frame} {s : State} (kind : f.kind = 0x20#8 ∨ f.kind = 0x31#8 ∨ f.kind = 0x32#8)
    (here : f.dst = s.nodeAddr ∧ 1 ≤ s.nodeAddr.toNat ∧ s.nodeAddr.toNat ≤ 62) : routeSouth f s = dispatchConsumed f s := by
  have unwatched : isWatched f = false :=
    isWatched_eq_false (by rcases kind with h | h | h <;> rw [h] <;> decide)
  rw [routeSouth, unwatched, (isConsumed_iff f).mpr kind, (addressedHere_iff f s).mpr here]
  rfl

theorem routeSouth_away {f : Frame} {s : State} (kind : f.kind ≠ 0x10#8 ∧ f.kind ≠ 0x11#8 ∧ f.kind ≠ 0x12#8)
    (away : ¬((f.kind = 0x20#8 ∨ f.kind = 0x31#8 ∨ f.kind = 0x32#8) ∧
      f.dst = s.nodeAddr ∧ 1 ≤ s.nodeAddr.toNat ∧ s.nodeAddr.toNat ≤ 62)) :
    routeSouth f s = finish (northForwarded f s) := by
  have other : (isConsumed f && addressedHere f s) = false := by
    rw [← Bool.not_eq_true, Bool.and_eq_true, isConsumed_iff, addressedHere_iff]
    exact away
  rw [routeSouth, isWatched_eq_false kind, other, forwardNorth_eq]
  rfl

theorem word32_be32 (x : Word32) (pre rest : List Byte) : word32 (pre ++ (be32 x.toNat ++ rest)) pre.length = x := by
  have field := field32_append_right pre (be32 x.toNat ++ rest) 0
  rw [Nat.add_zero, field32_be32] at field
  rw [word32, field, Nat.mod_eq_of_lt x.isLt]
  simp

theorem word16_be16 (x : BitVec 16) (pre rest : List Byte) : word16 (pre ++ (be16 x.toNat ++ rest)) pre.length = x := by
  have field := field16_append_right pre (be16 x.toNat ++ rest) 0
  rw [Nat.add_zero, field16_be16] at field
  rw [word16, field, Nat.mod_eq_of_lt x.isLt]
  simp

/-- The codes of section 9.2 of a lane, a mark shape and a sensor state as bytes. -/
def laneByte : Lane → Byte
  | .a => 0#8
  | .b => 1#8

def shapeByte : MarkShape → Byte
  | .cue => 1#8
  | .pitch => 2#8
  | .tail => 3#8

def sensorByte : NipSensor → Byte
  | .opened => 0#8
  | .closed => 1#8

theorem dispatchMark_bytes (l : Lane) (shape : MarkShape) (tag : Byte) (c : Word32) (s : State) :
    dispatchMark (laneByte l :: shapeByte shape :: tag :: be32 c.toNat) s = finish (convertMark l shape tag c s) := by
  have count : word32 (laneByte l :: shapeByte shape :: tag :: be32 c.toNat) 3 = c := by
    simpa using word32_be32 c [laneByte l, shapeByte shape, tag] []
  unfold dispatchMark
  rw [count]
  cases l <;> cases shape <;> rfl

theorem dispatchRoll_bytes (m : MediaClass) (width thickness stretch : BitVec 16) (laminate : Bool) (low : 1 ≤ width.toNat)
    (high : width.toNat ≤ 32000) (s : State) :
    dispatchRoll (BitVec.ofNat 8 (mediaCode m) :: (be16 width.toNat ++ be16 thickness.toNat ++ be16 stretch.toNat ++
      [if laminate then 1#8 else 0#8])) s = finish (takeRoll m width thickness stretch laminate s) := by
  generalize hp : BitVec.ofNat 8 (mediaCode m) :: (be16 width.toNat ++ be16 thickness.toNat ++ be16 stretch.toNat ++
      [if laminate then 1#8 else 0#8]) = p
  have w : word16 p 1 = width := by
    rw [← hp]
    simpa using word16_be16 width [BitVec.ofNat 8 (mediaCode m)]
      (be16 thickness.toNat ++ (be16 stretch.toNat ++ [if laminate then 1#8 else 0#8]))
  have t : word16 p 3 = thickness := by
    rw [← hp]
    simpa using word16_be16 thickness (BitVec.ofNat 8 (mediaCode m) :: be16 width.toNat)
      (be16 stretch.toNat ++ [if laminate then 1#8 else 0#8])
  have x : word16 p 5 = stretch := by
    rw [← hp]
    simpa using word16_be16 stretch (BitVec.ofNat 8 (mediaCode m) :: (be16 width.toNat ++ be16 thickness.toNat))
      [if laminate then 1#8 else 0#8]
  have width16 : field16 p 1 = width.toNat := by
    have := congrArg BitVec.toNat w
    rwa [word16, BitVec.toNat_ofNat, Nat.mod_eq_of_lt (field16_lt p 1)] at this
  have media : mediaOfCode (byteAt p 0) = some m := by
    rw [← hp]
    cases m <;> rfl
  have last : flagOfCode (byteAt p 7) = some laminate := by
    rw [← hp]
    cases laminate <;> rfl
  have range : inRange 1 32000 (field16 p 1) = true := by
    rw [width16]
    simp [inRange, low, high]
  unfold dispatchRoll
  rw [media, last]
  simp only [range, w, t, x, if_true]

/-- The events of a POS frame at the tracker and at the Web Event Unit (R164). -/
def sampleEvent (c stamp : Word32) (s : State) : State := finish (takeSample c stamp s)
def flagsEvent (flags : Byte) (s : State) : State := finish (takeFlags (flags.getLsbD 0) (flags.getLsbD 1) s)

theorem dispatchPos_bytes (c stamp : Word32) (flags : Byte) (s : State) :
    dispatchPos (be32 c.toNat ++ be32 stamp.toNat ++ [flags]) s =
      if s.turn.unitFirst then sampleEvent c stamp (flagsEvent flags s.dropTurn)
      else flagsEvent flags (sampleEvent c stamp s.dropTurn) := by
  have count : word32 (be32 c.toNat ++ be32 stamp.toNat ++ [flags]) 0 = c := by
    simpa using word32_be32 c [] (be32 stamp.toNat ++ [flags])
  have stamped : word32 (be32 c.toNat ++ be32 stamp.toNat ++ [flags]) 4 = stamp := by
    simpa using word32_be32 stamp (be32 c.toNat) [flags]
  have flag : byteAt (be32 c.toNat ++ be32 stamp.toNat ++ [flags]) 8 = flags.toNat := rfl
  unfold dispatchPos
  rw [count, stamped, flag]
  rfl

theorem finish_turn (u : State) : (finish u).turn = u.turn := by
  rw [State.turn, (endOfEvent_finish u).turns]
  rfl

theorem northForwarded_turn (f : Frame) (u : State) : (northForwarded f u).turn = u.turn := by
  unfold northForwarded
  split <;> rfl

/-! The codes of no defined value (section 9.2). -/

theorem laneOfCode_undefined : ∀ {n : Nat}, 1 < n → laneOfCode n = none
  | _ + 2, _ => rfl

theorem flagOfCode_undefined : ∀ {n : Nat}, 1 < n → flagOfCode n = none
  | _ + 2, _ => rfl

theorem sensorOfCode_undefined : ∀ {n : Nat}, 1 < n → sensorOfCode n = none
  | _ + 2, _ => rfl

theorem shapeOfCode_undefined : ∀ {n : Nat}, n = 0 ∨ 3 < n → shapeOfCode n = none
  | 0, _ => rfl
  | _ + 4, _ => rfl

theorem mediaOfCode_undefined : ∀ {n : Nat}, n = 0 ∨ 5 < n → mediaOfCode n = none
  | 0, _ => rfl
  | _ + 6, _ => rfl

/-- A watched frame that its dispatch does not hand on (R186). -/
theorem dispatchWatched_unread {f : Frame}
    (h : (f.kind = 0x10#8 ∧ f.payload.length ≠ 9) ∨ (f.kind = 0x11#8 ∧ f.payload.length ≠ 7) ∨
      (f.kind = 0x12#8 ∧ f.payload.length ≠ 8) ∨
      (f.kind = 0x11#8 ∧ (1 < byteAt f.payload 0 ∨ byteAt f.payload 1 = 0 ∨ 3 < byteAt f.payload 1)) ∨
      (f.kind = 0x12#8 ∧ (byteAt f.payload 0 = 0 ∨ 5 < byteAt f.payload 0 ∨ field16 f.payload 1 = 0 ∨
        32000 < field16 f.payload 1 ∨ 1 < byteAt f.payload 7))) (s : State) : dispatchWatched f s = s := by
  have pos : f.kind = 0x10#8 → dispatchWatched f s = if f.payload.length = 9 then dispatchPos f.payload s else s := fun k =>
    if_pos k
  have mark : f.kind = 0x11#8 → dispatchWatched f s = if f.payload.length = 7 then dispatchMark f.payload s else s := fun k => by
    rw [dispatchWatched, k, if_neg (by decide), if_pos (show (0x11#8 : Byte) = kindMark from rfl)]
  have roll : f.kind = 0x12#8 → dispatchWatched f s = if f.payload.length = 8 then dispatchRoll f.payload s else s := fun k => by
    rw [dispatchWatched, k, if_neg (by decide), if_neg (by decide)]
  rcases h with ⟨k, length⟩ | ⟨k, length⟩ | ⟨k, length⟩ | ⟨k, codes⟩ | ⟨k, codes⟩
  · rw [pos k, if_neg length]
  · rw [mark k, if_neg length]
  · rw [roll k, if_neg length]
  · have undefined : dispatchMark f.payload s = s := by
      unfold dispatchMark
      rcases codes with h | h
      · rw [laneOfCode_undefined h]
      · rw [shapeOfCode_undefined h]
        cases laneOfCode (byteAt f.payload 0) <;> rfl
    rw [mark k, undefined, ite_self]
  · have undefined : dispatchRoll f.payload s = s := by
      unfold dispatchRoll
      by_cases outside : field16 f.payload 1 = 0 ∨ 32000 < field16 f.payload 1
      · have range : inRange 1 32000 (field16 f.payload 1) = false := by
          rw [← Bool.not_eq_true]
          simp only [inRange, Bool.and_eq_true, decide_eq_true_eq]
          omega
        rw [range]
        cases mediaOfCode (byteAt f.payload 0) <;> cases flagOfCode (byteAt f.payload 7) <;> rfl
      · by_cases media : byteAt f.payload 0 = 0 ∨ 5 < byteAt f.payload 0
        · rw [mediaOfCode_undefined media]
        · rw [flagOfCode_undefined (show 1 < byteAt f.payload 7 by omega)]
          cases mediaOfCode (byteAt f.payload 0) <;> rfl
    rw [roll k, undefined, ite_self]

/-- A consumed frame that its dispatch discards (R186). -/
theorem dispatchConsumed_unread {f : Frame}
    (h : (f.kind = 0x20#8 ∧ (f.payload.length ≠ 2 ∨ 1 < byteAt f.payload 1)) ∨ (f.kind = 0x31#8 ∧ f.payload.length ≠ 2) ∨
      (f.kind = 0x32#8 ∧ f.payload.length ≠ 3)) (s : State) : dispatchConsumed f s = s := by
  rcases h with ⟨k, wrong⟩ | ⟨k, length⟩ | ⟨k, length⟩
  · have undefined : dispatchStatus f s = s := by
      unfold dispatchStatus
      rcases wrong with h | h
      · cases sensorOfCode (byteAt f.payload 1) with
        | none => rfl
        | some x => exact if_neg h
      · rw [sensorOfCode_undefined h]
    rw [dispatchConsumed, if_pos (show f.kind = kindStatus from k), undefined]
  · rw [dispatchConsumed, k, if_neg (by decide), if_pos (show (0x31#8 : Byte) = kindActDone from rfl), if_neg length]
  · rw [dispatchConsumed, k, if_neg (by decide), if_neg (by decide), if_neg length]

/-- Settles O10: watched frames are forwarded and dispatched, consumed ones taken or discarded, all others forwarded. -/
theorem southFrameDispatched : Obligations.SouthFrameDispatched := by
  intro s dst src up
  refine ⟨fun l shape tag c => ?_, fun m width thickness stretch laminate low high => ?_, fun c stamp flags => ?_,
    fun here low high => ⟨fun raw x => ?_, fun id => ?_, fun id code => ?_⟩,
    fun f fits => ⟨fun forwarded => ?_, fun here low high wrong => ?_⟩⟩
  · refine (exec_southFrame up (by simp)).trans ?_
    rw [routeSouth_watched (by simp)]
    exact congrArg _ (dispatchMark_bytes l shape tag c _)
  · refine (exec_southFrame up (by simp)).trans ?_
    rw [routeSouth_watched (by simp)]
    have range : inRange 1 32000 width.toNat = true := by simp [inRange, low, high]
    refine congrArg _ ((dispatchRoll_bytes m width thickness stretch laminate low high _).trans ?_)
    exact (if_pos range).symm
  · have turn := (finish_turn _).trans
      (northForwarded_turn { dst := dst, src := src, kind := 0x10#8, payload := be32 c.toNat ++ be32 stamp.toNat ++ [flags] } s)
    refine ⟨fun order => ⟨_, rfl, ?_⟩, fun order => ⟨_, rfl, ?_⟩⟩
    all_goals
      refine (exec_southFrame up (by simp)).trans ?_
      rw [routeSouth_watched (by simp)]
      refine congrArg _ ((dispatchPos_bytes c stamp flags _).trans ?_)
      rw [turn, order]
      rfl
  · refine (exec_southFrame up (by simp)).trans ?_
    rw [routeSouth_here (.inl rfl) ⟨here, here ▸ low, here ▸ high⟩]
    cases x <;> rfl
  · refine (exec_southFrame up (by simp)).trans ?_
    rw [routeSouth_here (.inr (.inl rfl)) ⟨here, here ▸ low, here ▸ high⟩]
    have read : word16 (be16 id.toNat) 0 = id := by simpa using word16_be16 id [] []
    show Host.Outcome.next (finish (takeReply src (word16 (be16 id.toNat) 0) none s)) = _
    rw [read]
    rfl
  · refine (exec_southFrame up (by simp)).trans ?_
    rw [routeSouth_here (.inr (.inr rfl)) ⟨here, here ▸ low, here ▸ high⟩]
    have read : word16 (be16 id.toNat ++ [code]) 0 = id := by simpa using word16_be16 id [] [code]
    show Host.Outcome.next (finish (takeReply src (word16 (be16 id.toNat ++ [code]) 0) (some code) s)) = _
    rw [read]
    rfl
  · refine ⟨_, exec_southFrame up fits, ?_⟩
    by_cases watched : f.kind = 0x10#8 ∨ f.kind = 0x11#8 ∨ f.kind = 0x12#8
    · have unread : dispatchWatched f (finish (northForwarded f s)) = finish (northForwarded f s) := by
        refine dispatchWatched_unread ?_ _
        rcases forwarded with h | h | h | h | h | h | ⟨kind, -⟩
        · simp only [List.mem_cons, List.not_mem_nil, or_false, not_or] at h
          obtain ⟨n1, n2, n3, -⟩ := h
          rcases watched with k | k | k <;> contradiction
        · exact .inl h
        · exact .inr (.inl h)
        · exact .inr (.inr (.inl h))
        · exact .inr (.inr (.inr (.inl h)))
        · exact .inr (.inr (.inr (.inr h)))
        · rcases watched with k | k | k <;> rw [k] at kind <;> exact absurd kind (by decide)
      rw [routeSouth_watched watched, unread]
      exact endOfEvent_finish _
    · rw [routeSouth_away (by simpa [not_or] using watched)]
      · exact endOfEvent_finish _
      · rintro ⟨kind, here, low, high⟩
        rcases forwarded with h | ⟨k, -⟩ | ⟨k, -⟩ | ⟨k, -⟩ | ⟨k, -⟩ | ⟨k, -⟩ | ⟨-, away⟩
        · simp only [List.mem_cons, List.not_mem_nil, or_false, not_or] at h
          obtain ⟨-, -, -, n1, n2, n3⟩ := h
          rcases kind with k | k | k <;> contradiction
        · exact watched (.inl k)
        · exact watched (.inr (.inl k))
        · exact watched (.inr (.inr k))
        · exact watched (.inr (.inl k))
        · exact watched (.inr (.inr k))
        · rcases away with h | h | h
          · exact h here
          · omega
          · omega
  · rw [exec_southFrame up fits, routeSouth_here (by rcases wrong with ⟨k, -⟩ | ⟨k, -⟩ | ⟨k, -⟩ <;> simp [k]) ⟨here, low, high⟩,
      dispatchConsumed_unread wrong]

end Sys2Proof.Machine
end

section
/-! PROOFS. Requests at the Management and Reporting Unit: refusals (R196, R197), the line setup record (R198), flags, mask and
counters (R204, R209), LINE RESET (R210), and the frames the unit places itself (R205, R207, R208). -/

namespace Sys2Proof.Machine

/-! ## Refusals (R196, R197) -/

/-- The length of the body of each request of R197's table but LINE RESET. -/
def bodyLengths : List (Byte × Nat) :=
  [(0x01#8, 147), (0x02#8, 1), (0x03#8, 1), (0x10#8, 46), (0x11#8, 8), (0x12#8, 34), (0x20#8, 1), (0x21#8, 1), (0x22#8, 1),
    (0x30#8, 1), (0x31#8, 0), (0x32#8, 8), (0x40#8, 1), (0x41#8, 2), (0x50#8, 2), (0x51#8, 2), (0x52#8, 0)]

theorem replyTo_badLen {code : Byte} {n : Nat} {body : List Byte} (listed : (code, n) ∈ bodyLengths) (length : body.length ≠ n)
    (s : State) : replyTo code body s = refuse .badLen s := by
  simp only [bodyLengths, List.mem_cons, List.not_mem_nil, or_false, Prod.mk.injEq] at listed
  rcases listed with ⟨rfl, rfl⟩ | ⟨rfl, rfl⟩ | ⟨rfl, rfl⟩ | ⟨rfl, rfl⟩ | ⟨rfl, rfl⟩ | ⟨rfl, rfl⟩ | ⟨rfl, rfl⟩ | ⟨rfl, rfl⟩ |
    ⟨rfl, rfl⟩ | ⟨rfl, rfl⟩ | ⟨rfl, rfl⟩ | ⟨rfl, rfl⟩ | ⟨rfl, rfl⟩ | ⟨rfl, rfl⟩ | ⟨rfl, rfl⟩ | ⟨rfl, rfl⟩ | ⟨rfl, rfl⟩
  all_goals exact if_neg length

theorem replyTo_unknown {code : Byte} (unlisted : code ∉ requestCodes) (body : List Byte) (s : State) :
    replyTo code body s = refuse .unknownRequest s := by
  have other : ∀ k : Byte, k ∈ requestCodes → code.toNat ≠ k.toNat := fun k hk e =>
    unlisted (BitVec.eq_of_toNat_eq e ▸ hk)
  simp only [requestCodes, List.mem_cons, List.not_mem_nil, or_false, forall_eq_or_imp, forall_eq] at other
  unfold replyTo
  split
  all_goals first
    | rfl
    | (next e => exact absurd e (by simp_all))

theorem serveCode_listed {code : Byte} (other : code ≠ 0x60#8) (token : Byte) (body : List Byte) (s : State) :
    serveCode code token body s = serve code token (replyTo code body) s := if_neg other

theorem serveCode_full {s : State} (full : ownRoom s = 0) (code token : Byte) (body : List Byte) :
    serveCode code token body s = finish (dropRequest s) := by
  unfold serveCode
  split
  · rw [serveReset, if_pos full]
  · exact serve_full code token _ s full

/-- A LINE RESET that is refused is answered like every other request (R197, R210). -/
theorem serveReset_refused {token : Byte} {body : List Byte} {s : State} (room : 0 < ownRoom s)
    (refused : (lineResetReply body s).result ≠ .ok) :
    serveReset token body s = serve 0x60#8 token (lineResetReply body) s := by
  have invalid : answerReset token body s = answer 0x60#8 token (lineResetReply body s) := if_neg refused
  rw [serve_room _ _ _ _ room, serveReset, if_neg (Nat.pos_iff_ne_zero.mp room), invalid]

/-- Settles O53: no place, a code of no request, or another body length. -/
theorem requestRefused : Obligations.RequestRefused := by
  intro s code token body
  refine ⟨fun full => ?_, fun room unlisted => ?_, fun n room listed length => ?_⟩
  · rw [exec_requestOf, serveCode_full full]
    exact ⟨_, rfl, endOfEvent_finish _⟩
  · have other : code ≠ 0x60#8 := fun e => unlisted (e ▸ by decide)
    refine ⟨serveCode code token body s, rfl, ?_⟩
    rw [serveCode_listed other]
    exact serve_answered room (replyTo_unknown unlisted body s)
  · rw [exec_requestOf]
    refine ⟨_, rfl, ?_⟩
    by_cases reset : code = 0x60#8
    · subst reset
      have one : n = 1 := by simpa using listed
      have reply : lineResetReply body s = refuse .badLen s := if_neg (one ▸ length)
      have served : serveCode 0x60#8 token body s = serve 0x60#8 token (lineResetReply body) s :=
        serveReset_refused room (by rw [reply]; simp [refuse])
      rw [served]
      exact serve_answered room reply
    · have named : (code, n) ∈ bodyLengths := by
        have shorter : (code, n) ∈ bodyLengths ++ [(0x60#8, 1)] := listed
        rcases List.mem_append.mp shorter with h | h
        · exact h
        · exact absurd (congrArg Prod.fst (List.mem_singleton.mp h)) reset
      rw [serveCode_listed reset]
      exact serve_answered room (replyTo_badLen named length s)

/-! ## Flags, mask and counters (R204, R206, R209) -/

theorem EndOfEvent.linesShown {u t : State} (h : EndOfEvent u t) : LinesShown t := linesShown_of_pins t h.pins

theorem Answered.linesShown {u t : State} {f : Frame} (h : Answered u f t) : LinesShown t := EndOfEvent.linesShown h

/-- The thirty counters are 0 in a state whose event began from one where they are. -/
theorem EndOfEvent.counters {u t : State} (h : EndOfEvent u t) : counters t = counters u := by
  unfold Machine.counters
  rw [h.crcErrors, h.fwdDrops, h.south, h.tracker, h.laneA, h.laneB, h.web, h.reportsLost, h.requestsDropped]
  have stations := h.station
  rw [show t.lam = u.lam from stations .lam, show t.trimA = u.trimA from stations .trimA,
    show t.trimB = u.trimB from stations .trimB, show t.cutA = u.cutA from stations .cutA,
    show t.cutB = u.cutB from stations .cutB]

theorem counters_placeOwn (f : Frame) (s : State) : counters (placeOwn f s) = counters s := by
  obtain ⟨-, crc, drops⟩ := northStart_keeps { s.north with own := s.north.own ++ [f] }
  unfold counters
  rw [show (placeOwn f s).north.crcErrors = s.north.crcErrors from crc, show (placeOwn f s).north.fwdDrops = s.north.fwdDrops from drops]
  rfl

theorem clearFlagsReply_eq (a b : Byte) (s : State) : clearFlagsReply [a, b] s =
    accept { s with mgmt := { s.mgmt with flags := s.mgmt.flags &&& ~~~(BitVec.ofNat 14 (a.toNat * 256 + b.toNat)) } } := rfl

theorem setAttnMaskReply_eq (a b : Byte) (s : State) : setAttnMaskReply [a, b] s =
    accept { s with mgmt := { s.mgmt with mask := BitVec.ofNat 14 (a.toNat * 256 + b.toNat) } } := rfl

theorem clearCountersReply_eq (s : State) : clearCountersReply [] s = accept (zeroCounters s) := rfl

/-- Settles O51: each of the three is accepted with its own change, and the output lines take their levels at the end. -/
theorem flagsMaskAndCountersSet : Obligations.FlagsMaskAndCountersSet := by
  refine ⟨fun u t h => h.linesShown, fun s token a b room => ?_⟩
  have flags := serve_accepted (code := 0x50#8) (token := token) (reply := clearFlagsReply [a, b]) room (clearFlagsReply_eq a b s) rfl
  have mask := serve_accepted (code := 0x51#8) (token := token) (reply := setAttnMaskReply [a, b]) room (setAttnMaskReply_eq a b s) rfl
  have zero := serve_accepted (code := 0x52#8) (token := token) (reply := clearCountersReply []) room (clearCountersReply_eq s) rfl
  refine ⟨⟨_, rfl, flags.linesShown, flags⟩, ⟨_, rfl, mask.linesShown, mask⟩, ⟨_, rfl, zero.linesShown, ?_, zero⟩⟩
  rw [EndOfEvent.counters zero, counters_placeOwn]
  rfl

/-! ## The frames the unit places itself (R205, R207, R208) -/

/-- Settles O39: each places the one frame it names and sets the output lines. -/
theorem attnAndReportQueued : Obligations.AttnAndReportQueued := by
  intro s
  have kept : ∀ (fs : List Frame) (f : Frame), Carries s f ∨ f ∈ fs →
      (placedOwn s.north fs).tx = some f ∨ f ∈ (placedOwn s.north fs).own := fun fs f h =>
    placedOwn_carries fs s.north f (by rcases h with (h | h) | h <;> simp [h])
  refine ⟨fun pending selected room none => ?_, fun r rest waiting room => ?_⟩
  · have due : attnDue s = true := by simp [attnDue, pending, selected, room]; exact none
    have placed : exec .attnQueued s = .next { s with
        north := placedOwn s.north [attnFrame s], mgmt := { s.mgmt with pendingAttn := false }, pins := pinLevels s } := by
      show Host.Outcome.next (refreshPins (placeAttn (dropMarker s))) = _
      rw [placeAttn_spec, due]
      simp only [if_true, Bool.not_true, Bool.and_false]
      rfl
    exact ⟨_, placed, rfl, kept [attnFrame s] _ (.inr (by simp)), fun f h => kept [attnFrame s] f (.inl h)⟩
  · have moved : exec .reportQueued s = .next { s with
        north := placedOwn s.north [reportFrame s r], mgmt := { s.mgmt with reports := rest }, pins := pinLevels s } := by
      have one : moveReports 1 s = moveReport s := if_pos ⟨by rw [waiting]; simp, room⟩
      have frame : moveReport s = placeOwn (reportFrame s r) { s with mgmt := { s.mgmt with reports := rest } } := by
        unfold moveReport
        rw [waiting, ← reportFrame_eq]
      show Host.Outcome.next (refreshPins (moveReports 1 s)) = _
      rw [one, frame]
      rfl
    exact ⟨_, moved, rfl, kept [reportFrame s r] _ (.inr (by simp)), fun f h => kept [reportFrame s r] f (.inl h)⟩

/-! ## LINE RESET (R195, R210) -/

theorem finish_warm (keep answered : Bool) (s : State) :
    finish (warmReset keep answered s) = { warmReset keep answered s with pins := pinLevels (warmReset keep answered s) } :=
  finish_quiet rfl rfl rfl

theorem lineResetReply_valid {keep : Byte} (h : keep.toNat ≤ 1) (s : State) : lineResetReply [keep] s = accept s := by
  have inside : byteAt [keep] 0 ≤ 1 := h
  rw [lineResetReply, if_pos inside]
  rfl

theorem lineResetReply_badField {keep : Byte} (h : 2 ≤ keep.toNat) (s : State) : lineResetReply [keep] s = badField 1 s := by
  have outside : ¬byteAt [keep] 0 ≤ 1 := Nat.not_le.mpr h
  rw [lineResetReply, if_neg outside]
  rfl

/-- The state a valid LINE RESET leaves: the warm reset of the state in which a unicast one has placed its RESP. -/
def resetFrom (broadcast : Bool) (token : Byte) (s : State) : State :=
  if broadcast then s else placeOwn (respTo s 0x60#8 token 0 0 []) s

theorem exec_lineReset_valid {broadcast : Bool} {token keep : Byte} {s : State} (room : broadcast = true ∨ 0 < ownRoom s)
    (h : keep.toNat ≤ 1) : exec (.lineReset broadcast token [keep]) s =
      .next (finish (warmReset (keepTables [keep]) (!broadcast) (resetFrom broadcast token s))) := by
  cases broadcast with
  | true => exact congrArg (fun u => Host.Outcome.next (finish u)) (broadcastReset_valid h s)
  | false =>
    have free : 0 < ownRoom s := by simpa using room
    have served : serveReset token [keep] s = finish (answerReset token [keep] s) := by
      rw [serveReset, if_neg (Nat.pos_iff_ne_zero.mp free)]
    have valid : answerReset token [keep] s =
        warmReset (keepTables [keep]) true (answer 0x60#8 token (lineResetReply [keep] s)) := by
      have ok : (lineResetReply [keep] s).result = .ok := by rw [lineResetReply_valid h]; rfl
      exact if_pos ok
    rw [lineResetReply_valid h] at valid
    show Host.Outcome.next (serveReset token [keep] s) = _
    rw [served, valid]
    rfl

/-- Of the own normal queue a unicast LINE RESET leaves its RESP, unless that has gone into transmission (R195). -/
theorem warmOwn_resp {own rest : List Frame} {f : Frame} (h : rest <:+ own ++ [f]) :
    warmOwn true rest = if rest = [] then [] else [f] := by
  rcases List.eq_nil_or_concat rest with rfl | ⟨front, last, rfl⟩
  · rfl
  · have same : last = f := by
      obtain ⟨pre, e⟩ := h
      rw [List.concat_eq_append, ← List.append_assoc] at e
      exact (List.append_inj' e rfl).2 |> List.cons.inj |>.1
    rw [List.concat_eq_append, if_neg (by simp), same]
    simp [warmOwn]

/-- Settles O52: a valid body resets every block, a bad KEEP_TABLES is refused. -/
theorem lineResetKeepsRecords : Obligations.LineResetKeepsRecords := by
  intro s token keep broadcast room
  by_cases bad : 2 ≤ keep.toNat
  · cases broadcast with
    | true =>
      have nothing : broadcastReset [keep] s = s := broadcastReset_invalid
        (by rintro ⟨k, e, h⟩; cases e; omega) s
      refine ⟨_, congrArg (fun u => Host.Outcome.next (finish u)) nothing, fun _ => ⟨fun _ => endOfEvent_finish s, by simp⟩,
        fun h => absurd bad (by omega)⟩
    | false =>
      have free : 0 < ownRoom s := by simpa using room
      have reply := lineResetReply_badField bad s
      have served : serveReset token [keep] s = serve 0x60#8 token (lineResetReply [keep]) s :=
        serveReset_refused free (by rw [reply]; simp [badField])
      refine ⟨_, congrArg Host.Outcome.next served, fun _ => ⟨by simp, fun _ => ?_⟩, fun h => absurd bad (by omega)⟩
      exact serve_answered free reply
  · have valid : keep.toNat ≤ 1 := by omega
    have run := exec_lineReset_valid (token := token) room valid
    rw [finish_warm] at run
    refine ⟨_, run, fun h => absurd h bad, fun _ => ⟨fun all => ?_, fun one => ?_, ?_⟩⟩
    · subst all
      exact ⟨rfl, rfl⟩
    · subst one
      have own := northStart_own { s.north with own := s.north.own ++ [respTo s 0x60#8 token 0 0 []] }
      have left := warmOwn_resp own
      have carried := carries_placeOwn (respTo s 0x60#8 token 0 0 []) s
      have queue : (warmReset (keepTables [keep]) (!false) (resetFrom false token s)).north.own =
          if (placeOwn (respTo s 0x60#8 token 0 0 []) s).north.own = [] then [] else [respTo s 0x60#8 token 0 0 []] := left
      have tx : (warmReset (keepTables [keep]) (!false) (resetFrom false token s)).north.tx =
          (placeOwn (respTo s 0x60#8 token 0 0 []) s).north.tx := rfl
      refine ⟨fun f hf => ?_, ?_, ?_, fun sending => ?_⟩
      · rw [queue] at hf
        split at hf
        · exact absurd hf (by simp)
        · exact List.mem_singleton.mp hf
      · rw [queue]
        split <;> simp
      · unfold Carries
        rw [queue, tx]
        rcases carried with h | h
        · exact .inl h
        · exact .inr (by rw [if_neg (List.ne_nil_of_mem h)]; simp)
      · have still := congrArg NorthPort.tx
          (northStart_busy { s.north with own := s.north.own ++ [respTo s 0x60#8 token 0 0 []] } sending)
        exact tx.trans still
    · have up : (resetFrom broadcast token s).north.up = s.north.up := by
        cases broadcast
        · exact (northStart_keeps _).1
        · rfl
      have rest : resetFrom broadcast token s = { s with north := (resetFrom broadcast token s).north } := by
        cases broadcast <;> rfl
      have kept : ∀ k : Byte, keep = k → keepTables [keep] = decide (k.toNat = 1) := fun k e => by subst e; rfl
      rw [rest]
      refine ⟨up, rfl, rfl, rfl, rfl, rfl, rfl, rfl, rfl, rfl, rfl, rfl, rfl, rfl, rfl, rfl, fun l => ?_, fun st => ?_,
        rfl, rfl, rfl, rfl, rfl, rfl, rfl, rfl, rfl, rfl, rfl, rfl, rfl, fun one => ?_, fun zero => ?_⟩
      · cases l <;> exact ⟨rfl, rfl, rfl, rfl, rfl, rfl, rfl, rfl, rfl, rfl⟩
      · cases st <;> exact ⟨rfl, rfl, rfl⟩
      · subst one
        rfl
      · subst zero
        rfl

/-! ## The line setup record (R22, R198) -/

section LineReply

variable {body : List Byte} {s : State}

theorem writeLineReply_badField {n : Nat} (len : body.length = 34) (fails : firstFailing (lineChecks body) = some n) :
    writeLineReply body s = badField n s := by
  simp [writeLineReply, sized, validated, len, fails]

theorem writeLineReply_wrongState (len : body.length = 34) (valid : firstFailing (lineChecks body) = none)
    (busy : s.laneA.mode ≠ .disabled ∨ s.laneB.mode ≠ .disabled) : writeLineReply body s = refuse .wrongState s := by
  have no : ¬(s.laneA.mode = .disabled ∧ s.laneB.mode = .disabled) := fun ⟨a, b⟩ => by
    rcases busy with h | h <;> contradiction
  simp only [writeLineReply, sized, validated, len, valid, if_true, if_neg no]

theorem writeLineReply_replaces (len : body.length = 34) (valid : firstFailing (lineChecks body) = none)
    (a : s.laneA.mode = .disabled) (b : s.laneB.mode = .disabled) :
    writeLineReply body s = accept (installLine (bodyLine body) s) := by
  simp [writeLineReply, sized, validated, len, valid, a, b]

end LineReply

/-- Settles O46: the fields in order, then the lanes' states, then the record and the limited debt. -/
theorem lineWritten : Obligations.LineWritten := by
  intro s token body room len
  obtain ⟨valid, failing⟩ := lineChecks_fields body
  refine ⟨_, rfl, fun n fails => serve_answered room (writeLineReply_badField len ((failing n).mpr fails)),
    fun holds => ⟨fun busy => serve_answered room (writeLineReply_wrongState len (valid.mpr holds) busy), fun a b => ?_⟩⟩
  have answered := serve_accepted (code := 0x12#8) (token := token) room
    (writeLineReply_replaces len (valid.mpr holds) a b) rfl
  have setup : (serve 0x12#8 token (writeLineReply body) s).setup = bodyLine body := EndOfEvent.setup answered
  rw [setup]
  exact ⟨rfl, rfl, rfl, rfl, rfl, rfl, rfl, rfl, rfl, rfl, rfl, rfl, rfl, answered⟩

end Sys2Proof.Machine
end

section
/-! PROOFS. The bytes of the READ STATUS and READ MAP responses, field by field (R200, R201, R209). -/

namespace Sys2Proof.Machine

/-! ## Fields as they are written (section 9.2) -/

theorem byte_written (n : Nat) : (BitVec.ofNat 8 n).toNat = n % 256 := BitVec.toNat_ofNat ..

/-- A number written into two or four bytes reads back, at whatever place of the body they stand. -/
theorem field16_written (n : Nat) :
    (BitVec.ofNat 8 (n / 256)).toNat * 256 + (BitVec.ofNat 8 n).toNat = n % 65536 := field16_be16 n []

theorem field32_written (n : Nat) :
    ((BitVec.ofNat 8 (n / 16777216)).toNat * 256 + (BitVec.ofNat 8 (n / 65536)).toNat) * 65536 +
      ((BitVec.ofNat 8 (n / 256)).toNat * 256 + (BitVec.ofNat 8 n).toNat) = n % 4294967296 := field32_be32 n []

theorem field16_head (a b : Byte) (bs : List Byte) : field16 (a :: b :: bs) 0 = a.toNat * 256 + b.toNat := rfl

theorem field32_head (a b c d : Byte) (bs : List Byte) :
    field32 (a :: b :: c :: d :: bs) 0 = (a.toNat * 256 + b.toNat) * 65536 + (c.toNat * 256 + d.toNat) := rfl

theorem field16_written_word (x : BitVec 16) :
    (BitVec.ofNat 8 (x.toNat / 256)).toNat * 256 + (BitVec.ofNat 8 x.toNat).toNat = x.toNat :=
  (field16_written _).trans (Nat.mod_eq_of_lt x.isLt)

theorem field32_written_word (x : Word32) :
    ((BitVec.ofNat 8 (x.toNat / 16777216)).toNat * 256 + (BitVec.ofNat 8 (x.toNat / 65536)).toNat) * 65536 +
      ((BitVec.ofNat 8 (x.toNat / 256)).toNat * 256 + (BitVec.ofNat 8 x.toNat).toNat) = x.toNat :=
  (field32_written _).trans (Nat.mod_eq_of_lt x.isLt)

/-! ## READ STATUS part 0 (R200) -/

/-- The bytes of READ STATUS part 0 before the knife plans, and after the media profile. -/
def statusHead (s : State) : List Byte := statusTracker s ++ statusLanes s ++ statusNip s.nip

def statusTail (s : State) : List Byte :=
  be16 s.mgmt.flags.toNat ++ be16 s.mgmt.mask.toNat ++ be8 (linkStateCode s) ++ be8 s.mgmt.reports.length

theorem statusPart0_eq (s : State) : statusPart0 s =
    statusHead s ++ (knifePlanBytes s.laneA.knifePlan ++ (knifePlanBytes s.laneB.knifePlan ++
      (profileBytes s.web.profile ++ statusTail s))) := by
  simp only [statusPart0, statusHead, statusTail, List.append_assoc]

theorem length_statusHead (s : State) : (statusHead s).length = 36 := rfl

theorem length_knifePlanBytes (p : KnifePlan) : (knifePlanBytes p).length = 5 := by cases p <;> rfl

theorem length_profileBytes (p : Option Profile) : (profileBytes p).length = 9 := by cases p <;> rfl

/-- Reading on from the start of a part of a body that stands behind `k` bytes. -/
theorem byteAt_behind {xs : List Byte} {k : Nat} (h : xs.length = k) (ys : List Byte) (i : Nat) :
    byteAt (xs ++ ys) (k + i) = byteAt ys i := h ▸ byteAt_append_right xs ys i

theorem field16_behind {xs : List Byte} {k : Nat} (h : xs.length = k) (ys : List Byte) (i : Nat) :
    field16 (xs ++ ys) (k + i) = field16 ys i := h ▸ field16_append_right xs ys i

theorem planLaidOut_bytes {xs : List Byte} {k : Nat} (h : xs.length = k) (p : KnifePlan) (rest : List Byte) :
    PlanLaidOut (xs ++ (knifePlanBytes p ++ rest)) k p := by
  have code := byteAt_behind h (knifePlanBytes p ++ rest) 0
  have near := field16_behind h (knifePlanBytes p ++ rest) 1
  have far := field16_behind h (knifePlanBytes p ++ rest) 3
  rw [Nat.add_zero] at code
  cases p with
  | parked =>
    refine ⟨code.trans ?_, near.trans ?_, far.trans ?_⟩
    all_goals simp [knifePlanBytes, be8, be16, field16_head]
  | pair n f =>
    simp only [knifePlanBytes, be8, be16, List.cons_append, List.nil_append, field16_cons_succ, field16_head,
      field16_written] at near far
    exact ⟨code, near, far⟩
  | unknown =>
    refine ⟨code.trans ?_, near.trans ?_, far.trans ?_⟩
    all_goals simp [knifePlanBytes, be8, be16, field16_head]

/-- The profile's nine bytes, as R200 lays them out. -/
theorem profileBytes_fields (profile : Option Profile) (rest : List Byte) :
    match profile with
    | none => ∀ i, i ≤ 8 → byteAt (profileBytes profile ++ rest) i = 0
    | some p => byteAt (profileBytes profile ++ rest) 0 = 1 ∧
        (byteAt (profileBytes profile ++ rest) 1 =
          match p.media with | .paper => 1 | .vinyl => 2 | .mesh => 3 | .fabric => 4 | .film => 5) ∧
        field16 (profileBytes profile ++ rest) 2 = p.width.toNat ∧ field16 (profileBytes profile ++ rest) 4 = p.thickness.toNat ∧
        field16 (profileBytes profile ++ rest) 6 = p.stretch.toNat ∧
        byteAt (profileBytes profile ++ rest) 8 = if p.laminate then 1 else 0 := by
  cases profile with
  | none =>
    intro i hi
    match i, hi with
    | 0, _ | 1, _ | 2, _ | 3, _ | 4, _ | 5, _ | 6, _ | 7, _ | 8, _ => rfl
  | some p =>
    refine ⟨rfl, ?_, field16_written_word _, field16_written_word _, field16_written_word _, ?_⟩
    · show (BitVec.ofNat 8 (mediaCode p.media)).toNat = _
      cases p.media <;> rfl
    · show (BitVec.ofNat 8 (if p.laminate then 1 else 0)).toNat = _
      cases p.laminate <;> rfl

theorem linkStateCode_bits (s : State) : (BitVec.ofNat 8 (linkStateCode s)).toNat.testBit 0 = s.north.up ∧
    (BitVec.ofNat 8 (linkStateCode s)).toNat.testBit 1 = s.south.up ∧ (BitVec.ofNat 8 (linkStateCode s)).toNat < 4 := by
  unfold linkStateCode
  cases s.north.up <;> cases s.south.up <;> decide

/-- READ STATUS part 0 has each field at its offset (R200). -/
theorem statusLaidOut (s : State) : StatusLaidOut s (statusPart0 s) := by
  rw [statusPart0_eq]
  have planA := length_knifePlanBytes s.laneA.knifePlan
  have planB := length_knifePlanBytes s.laneB.knifePlan
  have profile := length_profileBytes s.web.profile
  have headPlan : (statusHead s ++ knifePlanBytes s.laneA.knifePlan).length = 41 := by
    rw [List.length_append, planA, length_statusHead]
  have headPlans : (statusHead s ++ knifePlanBytes s.laneA.knifePlan ++ knifePlanBytes s.laneB.knifePlan).length = 46 := by
    rw [List.length_append, planB, headPlan]
  have headProfile : (statusHead s ++ knifePlanBytes s.laneA.knifePlan ++ knifePlanBytes s.laneB.knifePlan ++
      profileBytes s.web.profile).length = 55 := by
    rw [List.length_append, profile, headPlans]
  have media := profileBytes_fields s.web.profile (statusTail s)
  exact
    { length := by
        simp only [List.length_append, length_statusHead, planA, planB, profile]
        rfl
      part := ⟨rfl, rfl, rfl⟩
      node := rfl
      tracker := by
        show (BitVec.ofNat 8 (trackerCode s.tracker.mode)).toNat = _
        cases s.tracker.mode <;> rfl
      position := field32_written_word _
      speed := field32_written _
      debt := field16_written _
      advance := field32_written _
      stretchA := field16_written_word _
      stretchB := field16_written_word _
      lanes := by
        constructor
        · show (BitVec.ofNat 8 (laneModeCode s.laneA.mode)).toNat = _
          cases s.laneA.mode <;> rfl
        · show (BitVec.ofNat 8 (laneModeCode s.laneB.mode)).toNat = _
          cases s.laneB.mode <;> rfl
      stations := by
        have code : ∀ m, (BitVec.ofNat 8 (stationModeCode m)).toNat = stationStateAs m := fun m => by cases m <;> rfl
        exact ⟨code _, code _, code _, code _, code _⟩
      nip := by
        show (BitVec.ofNat 8 (nipCode s.nip.commanded)).toNat = _
        cases s.nip.commanded <;> rfl
      outcome := by
        show (BitVec.ofNat 8 (outcomeCode s.nip.last)).toNat = _
        cases s.nip.last with
        | none => rfl
        | some t => cases e : t.outcome <;> simp [outcomeCode, e]
      sensor := by
        show (BitVec.ofNat 8 (sensorCode s.nip.sensor)).toNat = _
        cases s.nip.sensor with
        | none => rfl
        | some x => cases x <;> rfl
      temperature := field16_written _
      valid := by
        show (BitVec.ofNat 8 (if s.nip.tempValid then 1 else 0)).toNat = _
        cases s.nip.tempValid <;> rfl
      planA := planLaidOut_bytes (length_statusHead s) _ _
      planB := by
        rw [← List.append_assoc]
        exact planLaidOut_bytes headPlan _ _
      profile := by
        rw [← List.append_assoc, ← List.append_assoc]
        have byte := byteAt_behind headPlans (profileBytes s.web.profile ++ statusTail s)
        have field := field16_behind headPlans (profileBytes s.web.profile ++ statusTail s)
        cases e : s.web.profile with
        | none =>
          rw [e] at media byte
          intro i low high
          have at46 := byte (i - 46)
          rw [Nat.add_sub_cancel' low] at at46
          exact at46.trans (media (i - 46) (by omega))
        | some p =>
          rw [e] at media byte field
          obtain ⟨present, code, width, thickness, stretch, laminate⟩ := media
          exact ⟨(byte 0).trans present, (byte 1).trans code, (field 2).trans width, (field 4).trans thickness,
            (field 6).trans stretch, (byte 8).trans laminate⟩
      flags := by
        rw [← List.append_assoc, ← List.append_assoc, ← List.append_assoc]
        exact (field16_behind headProfile (statusTail s) 0).trans
          ((field16_written _).trans (Nat.mod_eq_of_lt (by have := s.mgmt.flags.isLt; omega)))
      mask := by
        rw [← List.append_assoc, ← List.append_assoc, ← List.append_assoc]
        exact (field16_behind headProfile (statusTail s) 2).trans
          ((field16_written _).trans (Nat.mod_eq_of_lt (by have := s.mgmt.mask.isLt; omega)))
      link := by
        rw [← List.append_assoc, ← List.append_assoc, ← List.append_assoc]
        have byte : byteAt _ 59 = (BitVec.ofNat 8 (linkStateCode s)).toNat := byteAt_behind headProfile (statusTail s) 4
        rw [byte]
        exact linkStateCode_bits s
      reports := by
        rw [← List.append_assoc, ← List.append_assoc, ← List.append_assoc]
        exact (byteAt_behind headProfile (statusTail s) 5).trans (BitVec.toNat_ofNat ..) }

/-! ## READ MAP (R201) -/

theorem mapEntry_bytes (g : Segment) : mapEntry g =
    g.tag :: (be16 g.ordinal ++ (be32 g.pCue.toNat ++ (be32 g.anchorP.toNat ++ (be32 g.anchorX ++
      (be16 (BitVec.ofInt 16 g.stretch).toNat ++ (be8 (nextMarkCode g.next) ++ (be16 g.flags.toNat ++ (be8 g.unfinished ++
        (be8 g.cutsDone ++ (be8 g.cutsLate ++ (be8 g.cutsMissed ++ (be16 g.lateness ++ (be32 g.trimShort ++
          [g.faultCode.getD 0#8]))))))))))))) := by
  simp only [mapEntry, be16i, List.append_assoc, List.cons_append, List.nil_append, faultCodeByte]

/-- A READ MAP entry has each field at its offset (R201). -/
theorem entryLaidOut (g : Segment) : EntryLaidOut g (mapEntry g) := by
  have flags16 : g.flags.toNat % 65536 = g.flags.toNat := Nat.mod_eq_of_lt (Nat.lt_trans g.flags.isLt (by decide))
  have long : ∀ x : Word32, x.toNat % 4294967296 = x.toNat := fun x => Nat.mod_eq_of_lt x.isLt
  have word : ∀ x : BitVec 16, x.toNat % 65536 = x.toNat := fun x => Nat.mod_eq_of_lt x.isLt
  have code : byteAt (mapEntry g) 17 = (BitVec.ofNat 8 (nextMarkCode g.next)).toNat := by
    simp only [mapEntry_bytes, be8, be16, be32, List.cons_append, List.nil_append, byteAt_cons_succ, byteAt_cons_zero]
  constructor
  case length =>
    simp only [mapEntry_bytes, List.length_cons, List.length_append, length_be8, length_be16, length_be32, List.length_nil]
  case tag => rw [mapEntry_bytes, List.getElem?_cons_zero]
  case next =>
    rw [code]
    match g.next with
    | none => rfl
    | some .tail => rfl
    | some (.pitch i) => exact byte_written (2 + i)
  case fault =>
    simp only [mapEntry_bytes, be8, be16, be32, List.cons_append, List.nil_append, List.getElem?_cons_succ,
      List.getElem?_cons_zero]
  case cue | anchorP | anchorX | trimShort =>
    simp only [mapEntry_bytes, be8, be16, be32, List.cons_append, List.nil_append, field32_cons_succ, field32_head,
      field32_written, long]
  case ordinal | stretch | flags | lateness =>
    simp only [mapEntry_bytes, be8, be16, be32, List.cons_append, List.nil_append, field16_cons_succ, field16_head,
      field16_written, flags16, word]
  case unfinished | cutsDone | cutsLate | cutsMissed =>
    simp only [mapEntry_bytes, be8, be16, be32, List.cons_append, List.nil_append, byteAt_cons_succ, byteAt_cons_zero,
      byte_written]

theorem length_mapEntries (gs : List Segment) : (gs.flatMap mapEntry).length = 31 * gs.length := by
  induction gs with
  | nil => rfl
  | cons g gs ih =>
    rw [List.flatMap_cons, List.length_append, ih, List.length_cons, (entryLaidOut g).length]
    omega

theorem readMapReply_page {a b : Byte} (lane : a.toNat ≤ 1) (index : b.toNat ≤ 15) (s : State) :
    readMapReply [a, b] s =
      acceptWith (mapBody (if a = 0#8 then .a else .b) b.toNat (s.lane (if a = 0#8 then .a else .b)).segs) s := by
  have names : laneOfCode (byteAt [a, b] 0) = some (if a.toNat = 0 then .a else .b) := laneOfCode_valid (Nat.not_lt.mpr lane)
  have zero : a.toNat = 0 ↔ a = 0#8 := ⟨fun e => BitVec.eq_of_toNat_eq e, fun e => e ▸ rfl⟩
  simp only [zero] at names
  unfold readMapReply sized onLane
  rw [names]
  exact if_pos index

/-- Settles O50: part 0 and the entries by their layouts, part 1 by the order of the counters, the refusals by the checks. -/
theorem statusAndMapRead : Obligations.StatusAndMapRead := by
  intro s token a b room
  refine ⟨⟨_, rfl, fun zero => ?_, fun one => ?_, fun out => ?_⟩, ⟨_, rfl, fun out => ?_, fun lane out => ?_, fun lane index => ?_⟩⟩
  · subst zero
    refine ⟨serve_answered (reply := readStatusReply [0#8]) room (r := acceptWith (statusPart0 s) s) rfl, statusLaidOut s, _, rfl, ?_⟩
    have whole := (statusLaidOut s).length
    exact Nat.add_right_cancel (m := 4) whole
  · subst one
    exact ⟨serve_answered (reply := readStatusReply [1#8]) room (r := acceptWith (statusPart1 s) s) rfl, rfl, rfl⟩
  · refine serve_answered (r := badField 1 s) room ?_
    have not0 : ¬byteAt [a] 0 = 0 := by rw [byteAt_cons_zero]; omega
    have not1 : ¬byteAt [a] 0 = 1 := by rw [byteAt_cons_zero]; omega
    rw [readStatusReply, if_neg not0, if_neg not1]
    rfl
  · refine serve_answered (r := badField 0 s) room ?_
    have names : laneOfCode (byteAt [a, b] 0) = none := laneOfCode_undefined out
    unfold readMapReply sized onLane
    rw [names]
    rfl
  · refine serve_answered (r := badField 1 s) room ?_
    have names : laneOfCode (byteAt [a, b] 0) = some (if a.toNat = 0 then .a else .b) := laneOfCode_valid (Nat.not_lt.mpr lane)
    have outside : ¬byteAt [a, b] 1 ≤ 15 := by show ¬b.toNat ≤ 15; omega
    unfold readMapReply sized onLane
    rw [names]
    exact if_neg outside
  · refine ⟨?_, length_mapEntries _, fun g _ => entryLaidOut g⟩
    have answered := serve_answered (code := 0x41#8) (token := token) room (readMapReply_page lane index s)
    have code : be8 (laneCode (if a = 0#8 then .a else .b)) = [a] := by
      by_cases zero : a = 0#8
      · rw [if_pos zero, zero]
        rfl
      · have one : a = 1#8 := by bv_omega
        rw [if_neg zero, one]
        rfl
    have index8 : be8 b.toNat = [b] := by simp [be8]
    have body : mapBody (if a = 0#8 then .a else .b) b.toNat (s.lane (if a = 0#8 then .a else .b)).segs =
        a :: BitVec.ofNat 8 (s.lane (if a = 0#8 then .a else .b)).segs.length :: b ::
          BitVec.ofNat 8 (((s.lane (if a = 0#8 then .a else .b)).segs.drop b.toNat).take 6).length ::
          (((s.lane (if a = 0#8 then .a else .b)).segs.drop b.toNat).take 6).flatMap mapEntry := by
      rw [mapBody, code, index8]
      rfl
    rw [body] at answered
    exact answered

end Sys2Proof.Machine
end

section
/-! PROOFS. The bytes of the READ JOB response (R14, R202): the definition stands in them as in a job record body. -/

namespace Sys2Proof.Machine

/-! ## Lists in a body (section 9.2) -/

theorem length_flatMap_be32 (cs : List Nat) : (cs.flatMap be32).length = 4 * cs.length := by
  induction cs with
  | nil => rfl
  | cons c cs ih =>
    rw [List.flatMap_cons, List.length_append, ih, length_be32, List.length_cons]
    omega

theorem length_zoneBytes (z : Zone) : (zoneBytes z).length = 9 := rfl

theorem length_flatMap_zoneBytes (zs : List Zone) : (zs.flatMap zoneBytes).length = 9 * zs.length := by
  induction zs with
  | nil => rfl
  | cons z zs ih =>
    rw [List.flatMap_cons, List.length_append, ih, length_zoneBytes, List.length_cons]
    omega

theorem length_padFrom {size : Nat} {used : List Byte} (h : used.length ≤ size) (reads start : Nat) :
    (padFrom reads start size used).length = size := by
  rw [padFrom, List.length_append, List.length_map, List.length_range]
  omega

theorem length_trimBytes (reads : Nat) (t : Option (Nat × Nat)) : (trimBytes reads t).length = 5 := by
  cases t with
  | none => rw [trimBytes, List.length_append, length_padFrom (Nat.zero_le 4)]; rfl
  | some p => rfl

/-- A four-byte entry of a list read at its place. -/
theorem field32_flatMap : ∀ {cs : List Nat} {k c : Nat} (rest : List Byte), cs[k]? = some c → c < 4294967296 →
    field32 (cs.flatMap be32 ++ rest) (4 * k) = c
  | x :: cs, 0, c, rest, h, fits => by
    rw [List.getElem?_cons_zero, Option.some.injEq] at h
    subst h
    rw [List.flatMap_cons, List.append_assoc, Nat.mul_zero, field32_be32, Nat.mod_eq_of_lt fits]
  | x :: cs, k + 1, c, rest, h, fits => by
    rw [List.flatMap_cons, List.append_assoc, Nat.mul_succ, Nat.add_comm, ← length_be32 x, field32_append_right]
    exact field32_flatMap rest h fits

theorem field32_behind {xs : List Byte} {k : Nat} (h : xs.length = k) (ys : List Byte) (i : Nat) :
    field32 (xs ++ ys) (k + i) = field32 ys i := h ▸ field32_append_right xs ys i

/-- The code of a zone mode as a number. -/
def zoneModeAs : ZoneMode → Nat
  | .required => 1
  | .forbidden => 2

/-- A nine-byte zone of a list read at its place. -/
theorem zone_flatMap : ∀ {zs : List Zone} {k : Nat} {z : Zone} (rest : List Byte), zs[k]? = some z →
    z.x1 < 4294967296 ∧ z.x2 < 4294967296 →
    field32 (zs.flatMap zoneBytes ++ rest) (9 * k) = z.x1 ∧ field32 (zs.flatMap zoneBytes ++ rest) (9 * k + 4) = z.x2 ∧
      byteAt (zs.flatMap zoneBytes ++ rest) (9 * k + 8) = zoneModeAs z.mode
  | w :: zs, 0, z, rest, h, fits => by
    rw [List.getElem?_cons_zero, Option.some.injEq] at h
    subst h
    obtain ⟨fits1, fits2⟩ := fits
    have first : field32 (be32 w.x1 ++ (be32 w.x2 ++ (be8 (zoneModeCode w.mode) ++ (zs.flatMap zoneBytes ++ rest)))) 0 = w.x1 :=
      (field32_be32 _ _).trans (Nat.mod_eq_of_lt fits1)
    have second : field32 (be32 w.x1 ++ (be32 w.x2 ++ (be8 (zoneModeCode w.mode) ++ (zs.flatMap zoneBytes ++ rest)))) 4 = w.x2 :=
      (field32_append_right (be32 w.x1) _ 0).trans ((field32_be32 _ _).trans (Nat.mod_eq_of_lt fits2))
    have mode : byteAt (be32 w.x1 ++ (be32 w.x2 ++ (be8 (zoneModeCode w.mode) ++ (zs.flatMap zoneBytes ++ rest)))) 8 =
        zoneModeAs w.mode := by
      show (BitVec.ofNat 8 (zoneModeCode w.mode)).toNat = _
      cases w.mode <;> rfl
    have bytes : (w :: zs).flatMap zoneBytes ++ rest =
        be32 w.x1 ++ (be32 w.x2 ++ (be8 (zoneModeCode w.mode) ++ (zs.flatMap zoneBytes ++ rest))) := by
      simp only [List.flatMap_cons, zoneBytes, List.append_assoc]
    rw [bytes]
    exact ⟨first, second, mode⟩
  | w :: zs, k + 1, z, rest, h, fits => by
    have next := zone_flatMap rest (show zs[k]? = some z from h) fits
    have bytes : (w :: zs).flatMap zoneBytes ++ rest = zoneBytes w ++ (zs.flatMap zoneBytes ++ rest) := by
      rw [List.flatMap_cons, List.append_assoc]
    have here := length_zoneBytes w
    rw [bytes, show 9 * (k + 1) = 9 + 9 * k by omega, show 9 + 9 * k + 4 = 9 + (9 * k + 4) by omega,
      show 9 + 9 * k + 8 = 9 + (9 * k + 8) by omega, field32_behind here, field32_behind here, byteAt_behind here]
    exact next

/-! ## The definition in the body (R2, section 9.2) -/

section Layout

variable (reads : Nat) (d : JobDef) (mode : Byte)

/-- The parts of a job record body behind one another: what stands before the cuts, and from each list on. -/
def jobHead : List Byte :=
  [mode, d.tag] ++ be8 (laneSelectCode d.lane) ++ be16 d.copies ++ be32 d.lNom ++ be8 (if d.tail then 1 else 0) ++
    be8 d.cuts.length

def jobEnd : List Byte :=
  be8 d.pitches.length ++ (padFrom reads 86 60 (d.pitches.flatMap be32) ++ be8 (if d.notify then 1 else 0))

def jobZones : List Byte :=
  be8 d.zones.length ++ (padFrom reads 44 36 (d.zones.flatMap zoneBytes) ++ (trimBytes reads d.trim ++ jobEnd reads d))

theorem jobBytes_parts :
    mode :: jobBytes reads d = jobHead d mode ++ (padFrom reads 11 32 (d.cuts.flatMap be32) ++ jobZones reads d) := by
  simp only [jobBytes, jobHead, jobZones, jobEnd, List.append_assoc, List.cons_append, List.nil_append]

theorem length_jobHead : (jobHead d mode).length = 11 := rfl

end Layout

section Lists

variable {reads : Nat} {d : JobDef}

theorem length_padCuts (h : d.cuts.length ≤ 8) : (padFrom reads 11 32 (d.cuts.flatMap be32)).length = 32 :=
  length_padFrom (by rw [length_flatMap_be32]; omega) _ _

theorem length_padZones (h : d.zones.length ≤ 4) : (padFrom reads 44 36 (d.zones.flatMap zoneBytes)).length = 36 :=
  length_padFrom (by rw [length_flatMap_zoneBytes]; omega) _ _

theorem length_padPitches (h : d.pitches.length ≤ 15) : (padFrom reads 86 60 (d.pitches.flatMap be32)).length = 60 :=
  length_padFrom (by rw [length_flatMap_be32]; omega) _ _

theorem length_jobBytes (cuts : d.cuts.length ≤ 8) (zones : d.zones.length ≤ 4) (pitches : d.pitches.length ≤ 15) :
    (jobBytes reads d).length = 146 := by
  have whole := congrArg List.length (jobBytes_parts reads d 0#8)
  rw [List.length_append, List.length_append, length_jobHead, length_padCuts cuts] at whole
  simp only [jobZones, jobEnd, List.length_append, List.length_cons, length_be8, length_padZones zones,
    length_padPitches pitches, length_trimBytes] at whole
  omega

/-- A definition within its fields stands in the bytes of a READ JOB response at the offsets of a job record body. -/
theorem jobLaidOut_jobBytes (fits : JobFits d) (mode : Byte) : JobLaidOut (mode :: jobBytes reads d) d := by
  obtain ⟨⟨cuts, zones, pitches⟩, copies16, lNom32, cuts32, zones32, trim16, pitches32⟩ := fits
  have whole := length_jobBytes (reads := reads) cuts zones pitches
  have head := length_jobHead d mode
  have padCuts := length_padCuts (reads := reads) cuts
  have padZones := length_padZones (reads := reads) zones
  have padPitches := length_padPitches (reads := reads) pitches
  have trim := length_trimBytes reads d.trim
  rw [jobBytes_parts]
  have cutField : ∀ i, field32 (jobHead d mode ++ (padFrom reads 11 32 (d.cuts.flatMap be32) ++ jobZones reads d)) (11 + i) =
      field32 (padFrom reads 11 32 (d.cuts.flatMap be32) ++ jobZones reads d) i := field32_behind head _
  have toZones : (jobHead d mode ++ padFrom reads 11 32 (d.cuts.flatMap be32)).length = 43 := by
    rw [List.length_append, head, padCuts]
  have toTrim : (jobHead d mode ++ padFrom reads 11 32 (d.cuts.flatMap be32) ++ (be8 d.zones.length ++
      padFrom reads 44 36 (d.zones.flatMap zoneBytes))).length = 80 := by
    rw [List.length_append, toZones, List.length_append, padZones]
    rfl
  have toEnd : (jobHead d mode ++ padFrom reads 11 32 (d.cuts.flatMap be32) ++ (be8 d.zones.length ++
      padFrom reads 44 36 (d.zones.flatMap zoneBytes)) ++ trimBytes reads d.trim).length = 85 := by
    rw [List.length_append, toTrim, trim]
  have fromZones : jobHead d mode ++ (padFrom reads 11 32 (d.cuts.flatMap be32) ++ jobZones reads d) =
      jobHead d mode ++ padFrom reads 11 32 (d.cuts.flatMap be32) ++ jobZones reads d := (List.append_assoc ..).symm
  have fromTrim : jobHead d mode ++ (padFrom reads 11 32 (d.cuts.flatMap be32) ++ jobZones reads d) =
      jobHead d mode ++ padFrom reads 11 32 (d.cuts.flatMap be32) ++ (be8 d.zones.length ++
        padFrom reads 44 36 (d.zones.flatMap zoneBytes)) ++ (trimBytes reads d.trim ++ jobEnd reads d) := by
    simp only [jobZones, List.append_assoc]
  have fromEnd : jobHead d mode ++ (padFrom reads 11 32 (d.cuts.flatMap be32) ++ jobZones reads d) =
      jobHead d mode ++ padFrom reads 11 32 (d.cuts.flatMap be32) ++ (be8 d.zones.length ++
        padFrom reads 44 36 (d.zones.flatMap zoneBytes)) ++ trimBytes reads d.trim ++ jobEnd reads d := by
    simp only [jobZones, List.append_assoc]
  constructor
  case length =>
    rw [← jobBytes_parts, List.length_cons, whole]
  case tag => rfl
  case lane =>
    show (BitVec.ofNat 8 (laneSelectCode d.lane)).toNat = _
    cases d.lane <;> rfl
  case copies =>
    simp only [jobHead, be8, be16, List.cons_append, List.nil_append, List.append_assoc, field16_cons_succ, field16_head,
      field16_written, Nat.mod_eq_of_lt copies16]
  case lNom =>
    simp only [jobHead, be8, be16, be32, List.cons_append, List.nil_append, field32_cons_succ, field32_head,
      field32_written, Nat.mod_eq_of_lt lNom32]
  case tail =>
    show (BitVec.ofNat 8 (if d.tail then 1 else 0)).toNat = _
    cases d.tail <;> rfl
  case cuts =>
    refine ⟨(byte_written _).trans (Nat.mod_eq_of_lt (by omega)), fun k c hk => ?_⟩
    rw [cutField, padFrom, List.append_assoc]
    exact field32_flatMap _ hk (cuts32 c (List.mem_of_getElem? hk))
  case zones =>
    rw [fromZones]
    refine ⟨(byteAt_behind toZones _ 0).trans ((byte_written _).trans (Nat.mod_eq_of_lt (by omega))), fun k z hk => ?_⟩
    have toEntries : (jobHead d mode ++ padFrom reads 11 32 (d.cuts.flatMap be32) ++ be8 d.zones.length).length = 44 := by
      rw [List.length_append, toZones]
      rfl
    have here := zone_flatMap ((List.range (36 - (d.zones.flatMap zoneBytes).length)).map
      (fun i => Config.unusedJobByte reads (44 + (d.zones.flatMap zoneBytes).length + i)) ++
        (trimBytes reads d.trim ++ jobEnd reads d)) hk (zones32 z (List.mem_of_getElem? hk))
    rw [← List.append_assoc (d.zones.flatMap zoneBytes)] at here
    obtain ⟨x1, x2, mode⟩ := here
    rw [jobZones, ← List.append_assoc, show 48 + 9 * k = 44 + (9 * k + 4) by omega, show 52 + 9 * k = 44 + (9 * k + 8) by omega,
      field32_behind toEntries, field32_behind toEntries, byteAt_behind toEntries]
    exact ⟨x1, x2, mode⟩
  case trim =>
    rw [fromTrim]
    have byte := byteAt_behind toTrim (trimBytes reads d.trim ++ jobEnd reads d)
    have field := field16_behind toTrim (trimBytes reads d.trim ++ jobEnd reads d)
    cases e : d.trim with
    | none =>
      rw [e] at byte
      exact byte 0
    | some p =>
      obtain ⟨n, f⟩ := p
      obtain ⟨n16, f16⟩ := trim16 n f e
      rw [e] at byte field
      refine ⟨byte 0, (field 1).trans ?_, (field 3).trans ?_⟩
      · simp only [trimBytes, be8, be16, List.cons_append, List.nil_append, field16_cons_succ, field16_head, field16_written,
          Nat.mod_eq_of_lt n16]
      · simp only [trimBytes, be8, be16, List.cons_append, List.nil_append, field16_cons_succ, field16_head, field16_written,
          Nat.mod_eq_of_lt f16]
  case pitches =>
    rw [fromEnd]
    refine ⟨(byteAt_behind toEnd _ 0).trans ((byte_written _).trans (Nat.mod_eq_of_lt (by omega))), fun k c hk => ?_⟩
    have read := field32_behind toEnd (jobEnd reads d) (1 + 4 * k)
    rw [← Nat.add_assoc] at read
    rw [read, jobEnd, field32_behind (length_be8 d.pitches.length), padFrom, List.append_assoc]
    exact field32_flatMap _ hk (pitches32 c (List.mem_of_getElem? hk))
  case notify =>
    rw [fromEnd]
    have toNotify : (be8 d.pitches.length ++ padFrom reads 86 60 (d.pitches.flatMap be32)).length = 61 := by
      rw [List.length_append, padPitches]
      rfl
    refine (byteAt_behind toEnd _ 61).trans ?_
    rw [jobEnd, ← List.append_assoc]
    refine (byteAt_behind toNotify _ 0).trans ?_
    show (BitVec.ofNat 8 (if d.notify then 1 else 0)).toNat = _
    cases d.notify <;> rfl

end Lists

/-! ## Reading it back -/

theorem entries32_eq {body : List Byte} {n i : Nat} {cs : List Nat} (length : n = cs.length)
    (entries : ∀ k c, cs[k]? = some c → field32 body (i + 4 * k) = c) : entries32 body n i = cs := by
  refine List.ext_getElem (by rw [length_entries32, length]) fun k h1 h2 => ?_
  rw [getElem_entries32]
  exact entries k _ (List.getElem?_eq_getElem h2)

/-- A body that carries a definition at its offsets reads back as that definition. -/
theorem bodyJob_of_laidOut {body : List Byte} {d : JobDef} (h : JobLaidOut body d) : bodyJob body = d := by
  obtain ⟨-, tag, lane, copies, lNom, tail, ⟨cutCount, cuts⟩, ⟨zoneCount, zones⟩, trim, ⟨pitchCount, pitches⟩, notify⟩ := h
  have tagEq : body.getD 1 0#8 = d.tag := by rw [List.getD_eq_getElem?_getD, tag]; rfl
  have laneEq : laneSelectOf (byteAt body 2) = d.lane := by rw [lane]; cases d.lane <;> rfl
  have tailEq : decide (byteAt body 9 = 1) = d.tail := by rw [tail]; cases d.tail <;> rfl
  have notifyEq : decide (byteAt body 146 = 1) = d.notify := by rw [notify]; cases d.notify <;> rfl
  have cutsEq : bodyCuts body = d.cuts := entries32_eq cutCount cuts
  have pitchesEq : bodyPitches body = d.pitches := entries32_eq pitchCount pitches
  have zonesEq : (bodyZones body).map zoneOf = d.zones := by
    refine List.ext_getElem (by rw [List.length_map, bodyZones, length_rawZones, zoneCount]) fun k h1 h2 => ?_
    have laid := zones k _ (List.getElem?_eq_getElem h2)
    rw [List.getElem_map]
    unfold bodyZones
    rw [getElem_rawZones]
    have e4 : 44 + 9 * k + 4 = 48 + 9 * k := by omega
    have e8 : 44 + 9 * k + 8 = 52 + 9 * k := by omega
    unfold zoneAt zoneOf
    revert laid
    generalize d.zones[k] = z
    rintro ⟨x1, x2, mode⟩
    obtain ⟨start, stop, kind⟩ := z
    simp only [e4, e8, x1, x2, mode]
    cases kind <;> rfl
  have trimEq : (if byteAt body 80 = 1 then some (field16 body 81, field16 body 83) else none) = d.trim := by
    cases e : d.trim with
    | none => rw [e] at trim; rw [trim]; rfl
    | some p =>
      rw [e] at trim
      obtain ⟨present, near, far⟩ := trim
      rw [if_pos present, near, far]
  rw [bodyJob, tagEq, laneEq, copies, lNom, tailEq, cutsEq, zonesEq, trimEq, pitchesEq, notifyEq]

/-! ## READ JOB (R14, R202) -/

section JobReading

variable {tag : Byte} {s : State}

theorem readJobReply_notFound (h : s.holding tag = none) : readJobReply [tag] s = refuse .notFound s := by
  have free : s.holding ([tag].getD 0 0#8) = none := h
  simp only [readJobReply, sized, free]
  rfl

theorem readJobReply_found {i : Nat} {r : JobRecord} (h : s.holding tag = some i) (held : s.slot i = some r) :
    readJobReply [tag] s = acceptWith (jobReadBody s.jobReads i r) { s with jobReads := s.jobReads + 1 } := by
  have holds : s.holding ([tag].getD 0 0#8) = some i := h
  simp only [readJobReply, sized, holds, held]
  rfl

theorem readJobReply_jobs : (readJobReply [tag] s).state.jobs = s.jobs := by
  cases h : s.holding tag with
  | none => rw [readJobReply_notFound h]; rfl
  | some i =>
    cases held : s.slot i with
    | none =>
      have holds : s.holding ([tag].getD 0 0#8) = some i := h
      simp only [readJobReply, sized, holds, held]
      rfl
    | some r => rw [readJobReply_found h held]; rfl

end JobReading

/-- Settles O43: the reply by the table, its bytes by their layout, which reads back. -/
theorem jobRead : Obligations.JobRead := by
  intro s token tag room
  have kept : (serve 0x03#8 token (readJobReply [tag]) s).jobs = s.jobs :=
    (EndOfEvent.jobs (serve_answered (code := 0x03#8) (token := token) room (rfl : readJobReply [tag] s = _))).trans
      readJobReply_jobs
  refine ⟨_, rfl, kept, fun free => serve_answered room (readJobReply_notFound free), fun i r holds held => ⟨?_, ?_, ?_⟩⟩
  · have answered := serve_answered (code := 0x03#8) (token := token) room (readJobReply_found holds held)
    have bytes : jobReadBody s.jobReads i r = BitVec.ofNat 8 i ::
        (match r.state with | .loaded => 1#8 | .exhausted => 2#8) ::
          (be16 r.remaining ++ be16 r.registered ++ be8 r.inUse ++ jobBytes s.jobReads r.defn) := by
      unfold jobReadBody
      cases r.state <;> rfl
    exact bytes ▸ answered
  · exact fun cuts zones pitches => length_jobBytes cuts zones pitches
  · intro fits mode
    have laidOut := jobLaidOut_jobBytes (reads := s.jobReads) fits mode
    exact ⟨laidOut, bodyJob_of_laidOut laidOut⟩

end Sys2Proof.Machine
end

section
/-! PROOFS. What work at the nip (`NipWork`) and work on the maps and at the stations (`Aside`) leaves alone. -/

namespace Sys2Proof.Machine

/-! ## Work at the nip (R126 to R144) -/

/-- What a station can become where only its READY state is used up by an issue (R108). -/
def IssuedAt (x y : StationState) : Prop :=
  x.mode = .ready ∧ ∃ i, y = { x with mode := .busy, outstanding := some i }

/-- The defect flags that a registration or a splice alone sets. -/
def registeredFlags : BitVec 12 := defSpliced ||| defTrimClamped

/-- The defect flags that are not the Nip Planner's. -/
def nipSpares : BitVec 12 := ~~~(defLamShort ||| defLamSpoiled ||| defLamTemp)

theorem plain_of_spares {d : BitVec 12} (h : d &&& nipSpares = 0#12) : d &&& registeredFlags = 0#12 := by
  have part : registeredFlags = nipSpares &&& registeredFlags := by decide
  rw [part, ← BitVec.and_assoc, h, BitVec.zero_and]

theorem or_and_distrib (a b c : BitVec 12) : (a ||| b) &&& c = (a &&& c) ||| (b &&& c) := by
  ext i
  simp only [BitVec.getElem_and, BitVec.getElem_or, Bool.and_or_distrib_right]

/-- `t` is reached from `s` by recomputing the nip plan, flagging segments and issuing the offer of LAM, at most. -/
structure NipWork (s t : State) : Prop where
  lane : ∀ m, ∃ f : Segment → Segment,
    t.lane m = { s.lane m with segs := (s.lane m).segs.map f } ∧ ∀ g, ∃ d, f g = g.flag d ∧ d &&& nipSpares = 0#12
  station : ∀ st, st ≠ .lam → t.station st = s.station st
  lam : t.lam = s.lam ∨ IssuedAt s.lam t.lam
  idle : t.lam.mode = s.lam.mode → t.lastId = s.lastId ∧ t.south = s.south
  zones : t.nip.zones = s.nip.zones
  jobs : t.jobs = s.jobs
  web : t.web = s.web
  nextSeg : t.nextSeg = s.nextSeg
  turns : t.turns = s.turns
  reports : t.mgmt.reports = s.mgmt.reports
  reportsLost : t.mgmt.reportsLost = s.mgmt.reportsLost

theorem Segment.flag_zero (g : Segment) : g.flag 0#12 = g := by simp [Segment.flag]

theorem Segment.flag_flag (d e : BitVec 12) (g : Segment) : (g.flag d).flag e = g.flag (d ||| e) := by
  simp [Segment.flag, BitVec.or_assoc]

theorem NipWork.refl (s : State) : NipWork s s where
  lane m := ⟨id, by simp, fun g => ⟨0#12, g.flag_zero.symm, by decide⟩⟩
  station _ _ := rfl
  lam := .inl rfl
  idle _ := ⟨rfl, rfl⟩
  zones := rfl
  jobs := rfl
  web := rfl
  nextSeg := rfl
  turns := rfl
  reports := rfl
  reportsLost := rfl

theorem IssuedAt.busy {x y : StationState} (h : IssuedAt x y) : y.mode = .busy := by
  obtain ⟨-, i, rfl⟩ := h
  rfl

theorem IssuedAt.moved {x y : StationState} (h : IssuedAt x y) : y.mode ≠ x.mode := by
  rw [h.busy, h.1]
  decide

/-- Once LAM has been given an action it keeps it. -/
theorem issued_trans {x y z : StationState} (h : y = x ∨ IssuedAt x y) (k : z = y ∨ IssuedAt y z) : z = x ∨ IssuedAt x z := by
  rcases k with rfl | k
  · exact h
  · rcases h with rfl | h
    · exact .inr k
    · exact absurd k.1 (by rw [h.busy]; decide)

theorem issued_same {x y z : StationState} (h : y = x ∨ IssuedAt x y) (k : z = y ∨ IssuedAt y z) (e : z.mode = x.mode) :
    z.mode = y.mode ∧ y.mode = x.mode := by
  rcases h with rfl | h
  · exact ⟨e, rfl⟩
  · rcases k with rfl | k
    · exact absurd e h.moved
    · exact absurd k.1 (by rw [h.busy]; decide)

theorem NipWork.trans {s t u : State} (h : NipWork s t) (k : NipWork t u) : NipWork s u where
  lane m := by
    obtain ⟨f, ef, hf⟩ := h.lane m
    obtain ⟨g, eg, hg⟩ := k.lane m
    refine ⟨fun x => g (f x), by rw [eg, ef]; simp, fun x => ?_⟩
    obtain ⟨d, hd, plain⟩ := hf x
    obtain ⟨e, he, plain2⟩ := hg (f x)
    exact ⟨d ||| e, by dsimp only; rw [he, hd, Segment.flag_flag], by rw [or_and_distrib, plain, plain2]; rfl⟩
  station st ne := (k.station st ne).trans (h.station st ne)
  lam := issued_trans h.lam k.lam
  idle e := by
    obtain ⟨e1, e2⟩ := issued_same h.lam k.lam e
    exact ⟨(k.idle e1).1.trans (h.idle e2).1, (k.idle e1).2.trans (h.idle e2).2⟩
  zones := k.zones.trans h.zones
  jobs := k.jobs.trans h.jobs
  web := k.web.trans h.web
  nextSeg := k.nextSeg.trans h.nextSeg
  turns := k.turns.trans h.turns
  reports := k.reports.trans h.reports
  reportsLost := k.reportsLost.trans h.reportsLost

theorem nipWork_raise (p : Nat) (s : State) : NipWork s (raise p s) :=
  { NipWork.refl s with
    lane := fun m => by rw [raise_lane]; exact (NipWork.refl s).lane m
    station := fun st _ => raise_station p s st }

theorem nipWork_flagSeg (l : Lane) (id : Nat) {d : BitVec 12} (plain : d &&& nipSpares = 0#12) (s : State) :
    NipWork s (flagSeg l id d s) where
  lane m := by
    by_cases e : m = l
    · subst e
      refine ⟨fun g => if g.id = id then g.flag d else g, by simp [flagSeg, State.modSeg], fun g => ?_⟩
      by_cases h : g.id = id
      · exact ⟨d, by simp [h], plain⟩
      · exact ⟨0#12, by simp [h, g.flag_zero], by decide⟩
    · rw [show (flagSeg l id d s).lane m = s.lane m from State.lane_modLane_ne s l m _ e]
      exact (NipWork.refl s).lane m
  station st _ := by simp [flagSeg, State.modSeg]
  lam := .inl (by simp)
  idle _ := by simp
  zones := by simp
  jobs := by simp
  web := by simp
  nextSeg := by simp
  turns := by simp
  reports := by simp
  reportsLost := by simp

theorem nipWork_flagOwners {d : BitVec 12} (plain : d &&& nipSpares = 0#12) :
    ∀ (es : List ZoneEntry) (s : State), NipWork s (flagOwners d es s)
  | [], s => .refl s
  | e :: es, s => (nipWork_flagSeg e.lane e.seg plain s).trans (nipWork_flagOwners plain es _)

theorem loserFlag_plain (ban : Bool) (policy : Policy) : loserFlag ban policy &&& nipSpares = 0#12 := by
  cases ban <;> cases policy <;> rfl

/-- Only the Nip Planner's own fields change, and not its zone list. -/
theorem nipWork_nip {s : State} (n : Nip) (h : n.zones = s.nip.zones) : NipWork s { s with nip := n } :=
  { NipWork.refl s with zones := h, lane := (NipWork.refl s).lane, station := fun st _ => by cases st <;> rfl }

theorem nipWork_ite {c : Prop} [Decidable c] {s t u : State} (ht : c → NipWork s t) (hu : ¬c → NipWork s u) :
    NipWork s (if c then t else u) := by
  by_cases h : c
  · rw [if_pos h]; exact ht h
  · rw [if_neg h]; exact hu h

theorem nipWork_recompute (s : State) : NipWork s (recompute s) := by
  unfold recompute
  have flagged : NipWork s (if hasConflict (banned s.web) s.nip.zones then
      raise prioLamConflict
        (flagOwners (loserFlag (banned s.web) s.setup.policy) (losers (banned s.web) s.setup.policy s.nip.zones) s)
    else s) :=
    nipWork_ite (fun _ => (nipWork_flagOwners (loserFlag_plain _ _) _ s).trans (nipWork_raise _ _)) fun _ => .refl s
  exact flagged.trans (nipWork_nip _ rfl)

theorem nipWork_lateEngage (o : Offer) (n : Nat) (s : State) : NipWork s (lateEngage o n s) :=
  nipWork_ite (fun _ => nipWork_flagOwners (by decide) _ s) fun _ => .refl s

theorem nipWork_engageTemp (o : Offer) (s : State) : NipWork s (engageTemp o s) :=
  nipWork_ite (fun _ => (nipWork_flagOwners (by decide) _ s).trans (nipWork_raise _ _)) fun _ => .refl s

theorem nipWork_nipIssued (o : Offer) (n : Nat) (id : BitVec 16) (s : State) : NipWork s (nipIssued o n id s) := by
  unfold nipIssued
  have recorded : NipWork s { s with nip := nipRecord o id s.nip } := nipWork_nip _ rfl
  have noted : ∀ u, NipWork u (noteBegun o u) := fun u => nipWork_nip _ rfl
  refine (recorded.trans (nipWork_ite (fun _ => ?_) fun _ => .refl _)).trans (nipWork_recompute _)
  exact ((nipWork_lateEngage o n _).trans (nipWork_engageTemp o _)).trans (noted _)

/-! ## The issue of an action (R108) -/

@[simp] theorem dropSouth_lane (k : Nat) (s : State) (l : Lane) : (dropSouth k s).lane l = s.lane l := by
  unfold dropSouth; split <;> cases l <;> rfl
@[simp] theorem dropSouth_station (k : Nat) (s : State) (st : Station) : (dropSouth k s).station st = s.station st := by
  unfold dropSouth; split <;> cases st <;> rfl
@[simp] theorem sendUrgent_lane (f : Frame) (s : State) (l : Lane) : (sendUrgent f s).lane l = s.lane l := by
  unfold sendUrgent; split <;> cases l <;> rfl
@[simp] theorem sendUrgent_station (f : Frame) (s : State) (st : Station) : (sendUrgent f s).station st = s.station st := by
  unfold sendUrgent; split <;> cases st <;> rfl

/-- Queuing an ACT frame changes the south port and, where it is DOWN, LINK_ERROR with its marker. -/
theorem sendUrgent_rest (f : Frame) (s : State) : sendUrgent f s =
    { s with
      south := (sendUrgent f s).south
      mgmt := { s.mgmt with flags := (sendUrgent f s).mgmt.flags, pendingAttn := (sendUrgent f s).mgmt.pendingAttn } } := by
  unfold sendUrgent
  split
  · rfl
  · unfold dropSouth
    split <;> rfl

variable (st : Station) (act : Action) (delay estimate : Nat) (s : State)

theorem issueCore_rest : issueCore st act delay estimate s =
    { ({ s with lastId := nextId s.lastId }.modStation st (fun x =>
        { x with
          mode := .busy
          outstanding :=
            some { act := act, id := nextId s.lastId, orphan := false,
                   timeout := (recordOr x).timeout + ceilDiv delay 1000 + estimate } })) with
      south := (issueCore st act delay estimate s).south
      mgmt :=
        { s.mgmt with
          flags := (issueCore st act delay estimate s).mgmt.flags
          pendingAttn := (issueCore st act delay estimate s).mgmt.pendingAttn } } := by
  have mgmt : ∀ f : StationState → StationState, ({ s with lastId := nextId s.lastId }.modStation st f).mgmt = s.mgmt :=
    fun f => by simp
  have rest := sendUrgent_rest (actFrame st (nextId s.lastId) act delay s)
    ({ s with lastId := nextId s.lastId }.modStation st (fun x =>
        { x with
          mode := .busy
          outstanding :=
            some { act := act, id := nextId s.lastId, orphan := false,
                   timeout := (recordOr x).timeout + ceilDiv delay 1000 + estimate } }))
  rw [mgmt] at rest
  exact rest

@[simp] theorem issueCore_lane (l : Lane) : (issueCore st act delay estimate s).lane l = s.lane l := by
  rw [issueCore, sendUrgent_lane, State.lane_modStation]
  cases l <;> rfl

theorem issueCore_station : (issueCore st act delay estimate s).station st =
    { s.station st with
      mode := .busy
      outstanding :=
        some { act := act, id := nextId s.lastId, orphan := false,
               timeout := (recordOr (s.station st)).timeout + ceilDiv delay 1000 + estimate } } := by
  rw [issueCore, sendUrgent_station, State.station_modStation]
  cases st <;> rfl

theorem issueCore_station_ne {other : Station} (h : other ≠ st) :
    (issueCore st act delay estimate s).station other = s.station other := by
  rw [issueCore, sendUrgent_station, State.station_modStation_ne _ _ _ _ h]
  cases other <;> rfl

@[simp] theorem issueCore_lastId : (issueCore st act delay estimate s).lastId = nextId s.lastId := by
  rw [issueCore_rest]; simp
@[simp] theorem issueCore_nip : (issueCore st act delay estimate s).nip = s.nip := by rw [issueCore_rest]; simp
@[simp] theorem issueCore_web : (issueCore st act delay estimate s).web = s.web := by rw [issueCore_rest]; simp
@[simp] theorem issueCore_jobs : (issueCore st act delay estimate s).jobs = s.jobs := by rw [issueCore_rest]; simp
@[simp] theorem issueCore_tracker : (issueCore st act delay estimate s).tracker = s.tracker := by rw [issueCore_rest]; simp
@[simp] theorem issueCore_setup : (issueCore st act delay estimate s).setup = s.setup := by rw [issueCore_rest]; simp
@[simp] theorem issueCore_nextSeg : (issueCore st act delay estimate s).nextSeg = s.nextSeg := by rw [issueCore_rest]; simp
@[simp] theorem issueCore_turns : (issueCore st act delay estimate s).turns = s.turns := by rw [issueCore_rest]; simp
@[simp] theorem issueCore_reports : (issueCore st act delay estimate s).mgmt.reports = s.mgmt.reports := by
  rw [issueCore_rest]
@[simp] theorem issueCore_reportsLost : (issueCore st act delay estimate s).mgmt.reportsLost = s.mgmt.reportsLost := by
  rw [issueCore_rest]

omit st act delay estimate s

theorem nipWork_issueCore (act : Action) (delay estimate : Nat) {s : State} (ready : s.lam.mode = .ready) :
    NipWork s (issueCore .lam act delay estimate s) where
  lane m := by rw [issueCore_lane]; exact (NipWork.refl s).lane m
  station st ne := issueCore_station_ne .lam act delay estimate s ne
  lam := .inr ⟨ready, _, issueCore_station .lam act delay estimate s⟩
  idle e := by
    have busy : (issueCore .lam act delay estimate s).lam.mode = .busy := by
      rw [← State.station_lam, issueCore_station]
    rw [busy, ready] at e
    cases e
  zones := by simp
  jobs := by simp
  web := by simp
  nextSeg := by simp
  turns := by simp
  reports := by simp
  reportsLost := by simp

theorem nipWork_issueLam (o : Offer) {s : State} (ready : s.lam.mode = .ready) : NipWork s (issueLam o s) :=
  (nipWork_issueCore _ _ _ ready).trans (nipWork_nipIssued _ _ _ _)

theorem lamReady_iff (o : Offer) (s : State) : lamReady o s = true ↔
    s.lam.mode = .ready ∧ isDue (toGo .lam o.target s) s.tracker.speed s.setup.horizon = true := by
  simp [lamReady]

theorem lamTest_none {s : State} (h : s.nip.offer = none) : lamTest s = s := by simp only [lamTest, h]

theorem lamTest_some {s : State} {o : Offer} (h : s.nip.offer = some o) :
    lamTest s = if lamReady o s then issueLam o s else s := by simp only [lamTest, h]

theorem nipWork_lamTest (s : State) : NipWork s (lamTest s) := by
  cases h : s.nip.offer with
  | none => rw [lamTest_none h]; exact .refl s
  | some o =>
    rw [lamTest_some h]
    exact nipWork_ite (fun ready => nipWork_issueLam o ((lamReady_iff o s).mp ready).1) fun _ => .refl s

theorem nipWork_nipChange (s : State) : NipWork s (nipChange s) := (nipWork_recompute s).trans (nipWork_lamTest _)

theorem nipWork_nipChangeIf (c : Bool) (s : State) : NipWork s (nipChangeIf c s) :=
  nipWork_ite (fun _ => nipWork_nipChange s) fun _ => .refl s

theorem nipWork_closedTemp (s : State) : NipWork s (closedTemp s) :=
  nipWork_ite (fun _ => (nipWork_flagOwners (by decide) _ s).trans (nipWork_raise _ _)) fun _ => .refl s

/-! ## Work on the maps and at the stations -/

/-- What no work inside an event changes of a lane, but the closing of a window and a matched mark. -/
def laneFixed (x : LaneState) : LaneRecord × Int × Nat × Nat × Nat × Nat :=
  (x.record, x.stretch, x.cuesRefused, x.strayMarks, x.noRoom, x.synthetic)

/-- What the Trim Planner and its station hold of a lane. -/
def knifeSide (x : LaneState) :
    List Action × KnifePlan × Option (Nat × Nat) × Option Nat × List (Nat × Option (Nat × Nat)) :=
  (x.trimQueue, x.knifePlan, x.lateral, x.pendingKnife, x.moves)

/-- `h` is what has become of segment `g`: neither re-anchored nor given another watch, its watch at most further on. -/
structure Traces (g h : Segment) : Prop where
  id : h.id = g.id
  slot : h.slot = g.slot
  anchorP : h.anchorP = g.anchorP
  anchorX : h.anchorX = g.anchorX
  stretch : h.stretch = g.stretch
  registered : h.flags &&& registeredFlags = g.flags &&& registeredFlags
  watched : h.watch.watched = g.watch.watched
  waits : h.watch.state = .waiting → g.watch.state = .waiting
  ended : g.watch.state = .ended → h.watch.state = .ended

theorem Traces.refl (g : Segment) : Traces g g := ⟨rfl, rfl, rfl, rfl, rfl, rfl, rfl, fun h => h, fun h => h⟩

theorem Traces.trans {g h i : Segment} (a : Traces g h) (b : Traces h i) : Traces g i :=
  ⟨b.id.trans a.id, b.slot.trans a.slot, b.anchorP.trans a.anchorP, b.anchorX.trans a.anchorX, b.stretch.trans a.stretch,
    b.registered.trans a.registered, b.watched.trans a.watched, fun h => a.waits (b.waits h), fun h => b.ended (a.ended h)⟩

/-- `t` is reached from `s` by work at the stations and on the windows that `own` names, at LAM, and on the maps. -/
structure Aside (own : Taker → Prop) (s t : State) : Prop where
  fixed : ∀ m, laneFixed (t.lane m) = laneFixed (s.lane m)
  missed : ∀ m, ¬own (.marks m) → (t.lane m).missedMarks = (s.lane m).missedMarks
  cuts : ∀ m, ¬own (.station (cutterOf m)) → (t.lane m).cutQueue = (s.lane m).cutQueue
  knives : ∀ m, ¬own (.station (trimmerOf m)) → knifeSide (t.lane m) = knifeSide (s.lane m)
  segs : ∀ m, ∀ h ∈ (t.lane m).segs, ∃ g ∈ (s.lane m).segs, Traces g h
  station : ∀ st, t.station st = s.station st ∨ (st = .lam ∨ own (.station st)) ∧ IssuedAt (s.station st) (t.station st)
  idle : (∀ st, (t.station st).mode = (s.station st).mode) → t.lastId = s.lastId ∧ t.south = s.south
  zones : ∀ e ∈ t.nip.zones, e ∈ s.nip.zones
  jobOf : ∀ g, t.jobOf g = s.jobOf g
  web : t.web = s.web
  nextSeg : t.nextSeg = s.nextSeg

variable {own : Taker → Prop}

theorem jobOf_congr {s t : State} (h : t.jobs = s.jobs) (g : Segment) : t.jobOf g = s.jobOf g := by
  simp only [State.jobOf, State.slot, h]

theorem Aside.refl (s : State) : Aside own s s where
  fixed _ := rfl
  missed _ _ := rfl
  cuts _ _ := rfl
  knives _ _ := rfl
  segs _ h hh := ⟨h, hh, Traces.refl h⟩
  station _ := .inl rfl
  idle _ := ⟨rfl, rfl⟩
  zones _ he := he
  jobOf _ := rfl
  web := rfl
  nextSeg := rfl

theorem Aside.held {s t : State} (h : Aside own s t) (st : Station) :
    t.station st = s.station st ∨ IssuedAt (s.station st) (t.station st) := (h.station st).imp_right And.right

theorem Aside.trans {s t u : State} (h : Aside own s t) (k : Aside own t u) : Aside own s u where
  fixed m := (k.fixed m).trans (h.fixed m)
  missed m hm := (k.missed m hm).trans (h.missed m hm)
  cuts m hm := (k.cuts m hm).trans (h.cuts m hm)
  knives m hm := (k.knives m hm).trans (h.knives m hm)
  segs m x hx := by
    obtain ⟨y, hy, yx⟩ := k.segs m x hx
    obtain ⟨z, hz, zy⟩ := h.segs m y hy
    exact ⟨z, hz, zy.trans yx⟩
  station st := by
    rcases issued_trans (h.held st) (k.held st) with e | e
    · exact .inl e
    · refine .inr ⟨?_, e⟩
      rcases h.station st with a | a
      · rcases k.station st with b | b
        · exact absurd (by rw [b, a]) e.moved
        · exact b.1
      · exact a.1
  idle e := by
    have both st := issued_same (h.held st) (k.held st) (e st)
    exact ⟨(k.idle fun st => (both st).1).1.trans (h.idle fun st => (both st).2).1,
      (k.idle fun st => (both st).1).2.trans (h.idle fun st => (both st).2).2⟩
  zones e he := h.zones e (k.zones e he)
  jobOf g := (k.jobOf g).trans (h.jobOf g)
  web := k.web.trans h.web
  nextSeg := k.nextSeg.trans h.nextSeg

theorem Aside.mono {own' : Taker → Prop} {s t : State} (h : Aside own s t) (le : ∀ k, own k → own' k) : Aside own' s t :=
  { h with
    missed := fun m hm => h.missed m fun o => hm (le _ o)
    cuts := fun m hm => h.cuts m fun o => hm (le _ o)
    knives := fun m hm => h.knives m fun o => hm (le _ o)
    station := fun st => (h.station st).imp_right fun a => ⟨a.1.imp_right (le _), a.2⟩ }

theorem aside_ite {c : Prop} [Decidable c] {s t u : State} (ht : c → Aside own s t) (hu : ¬c → Aside own s u) :
    Aside own s (if c then t else u) := by
  by_cases h : c
  · rw [if_pos h]; exact ht h
  · rw [if_neg h]; exact hu h

theorem flag_registered {d : BitVec 12} (plain : d &&& registeredFlags = 0#12) (f : BitVec 12) :
    (f ||| d) &&& registeredFlags = f &&& registeredFlags := by
  rw [or_and_distrib, plain, BitVec.or_zero]

theorem traces_flag {d : BitVec 12} (plain : d &&& registeredFlags = 0#12) (g : Segment) : Traces g (g.flag d) :=
  { Traces.refl g with registered := flag_registered plain g.flags }

theorem NipWork.aside {s t : State} (h : NipWork s t) : Aside own s t where
  fixed m := by obtain ⟨f, e, -⟩ := h.lane m; rw [e]; rfl
  missed m _ := by obtain ⟨f, e, -⟩ := h.lane m; rw [e]
  cuts m _ := by obtain ⟨f, e, -⟩ := h.lane m; rw [e]
  knives m _ := by obtain ⟨f, e, -⟩ := h.lane m; rw [e]; rfl
  segs m x hx := by
    obtain ⟨f, e, flags⟩ := h.lane m
    rw [e] at hx
    obtain ⟨y, hy, rfl⟩ := List.mem_map.mp hx
    obtain ⟨d, hd, plain⟩ := flags y
    exact ⟨y, hy, hd ▸ traces_flag (plain_of_spares plain) y⟩
  station st := by
    by_cases e : st = .lam
    · subst e
      exact h.lam.imp_right fun k => ⟨.inl rfl, k⟩
    · exact .inl (h.station st e)
  idle e := h.idle (e .lam)
  zones e he := h.zones ▸ he
  jobOf := jobOf_congr h.jobs
  web := h.web
  nextSeg := h.nextSeg

/-- Neither a lane nor a station changes, and no zone entry is added. -/
theorem aside_rest {s t : State} (lane : ∀ m, t.lane m = s.lane m) (station : ∀ st, t.station st = s.station st)
    (lastId : t.lastId = s.lastId) (south : t.south = s.south) (zones : ∀ e ∈ t.nip.zones, e ∈ s.nip.zones)
    (jobOf : ∀ g, t.jobOf g = s.jobOf g) (web : t.web = s.web) (nextSeg : t.nextSeg = s.nextSeg) : Aside own s t where
  fixed m := by rw [lane]
  missed m _ := by rw [lane]
  cuts m _ := by rw [lane]
  knives m _ := by rw [lane]
  segs m h hh := ⟨h, lane m ▸ hh, Traces.refl h⟩
  station st := .inl (station st)
  idle _ := ⟨lastId, south⟩
  zones := zones
  jobOf := jobOf
  web := web
  nextSeg := nextSeg

theorem aside_raise (p : Nat) (s : State) : Aside own s (raise p s) := (nipWork_raise p s).aside

theorem aside_modLane (l : Lane) (f : LaneState → LaneState) (s : State)
    (fixed : laneFixed (f (s.lane l)) = laneFixed (s.lane l))
    (missed : ¬own (.marks l) → (f (s.lane l)).missedMarks = (s.lane l).missedMarks)
    (cuts : ¬own (.station (cutterOf l)) → (f (s.lane l)).cutQueue = (s.lane l).cutQueue)
    (knives : ¬own (.station (trimmerOf l)) → knifeSide (f (s.lane l)) = knifeSide (s.lane l))
    (segs : ∀ h ∈ (f (s.lane l)).segs, ∃ g ∈ (s.lane l).segs, Traces g h) : Aside own s (s.modLane l f) := by
  have other : ∀ m, m ≠ l → (s.modLane l f).lane m = s.lane m := fun m => State.lane_modLane_ne s l m f
  have here : (s.modLane l f).lane l = f (s.lane l) := State.lane_modLane s l f
  constructor
  case fixed => intro m; by_cases e : m = l; · subst e; rw [here]; exact fixed
                rw [other m e]
  case missed => intro m hm; by_cases e : m = l; · subst e; rw [here]; exact missed hm
                 rw [other m e]
  case cuts => intro m hm; by_cases e : m = l; · subst e; rw [here]; exact cuts hm
               rw [other m e]
  case knives => intro m hm; by_cases e : m = l; · subst e; rw [here]; exact knives hm
                 rw [other m e]
  case segs =>
    intro m h hh
    by_cases e : m = l
    · subst e; rw [here] at hh; exact segs h hh
    · rw [other m e] at hh; exact ⟨h, hh, Traces.refl h⟩
  case station => exact fun st => .inl (by simp)
  case idle => exact fun _ => by simp
  case zones => simp
  case jobOf => exact jobOf_congr (by simp)
  case web => simp
  case nextSeg => simp

theorem aside_modSegs (l : Lane) (f : Segment → Segment) (s : State) (h : ∀ g, Traces g (f g)) :
    Aside own s (s.modLane l (fun x => { x with segs := x.segs.map f })) :=
  aside_modLane l _ s rfl (fun _ => rfl) (fun _ => rfl) (fun _ => rfl) fun x hx => by
    obtain ⟨y, hy, rfl⟩ := List.mem_map.mp hx
    exact ⟨y, hy, h y⟩

theorem aside_modSeg (l : Lane) (id : Nat) (f : Segment → Segment) (s : State) (h : ∀ g, Traces g (f g)) :
    Aside own s (s.modSeg l id f) :=
  aside_modSegs l _ s fun g => by split; exact h g; exact Traces.refl g

theorem aside_flagSeg (l : Lane) (id : Nat) {d : BitVec 12} (plain : d &&& registeredFlags = 0#12) (s : State) :
    Aside own s (flagSeg l id d s) := aside_modSeg l id _ s fun g => traces_flag plain g

end Sys2Proof.Machine
end

section
/-! PROOFS. What retirements, final states, issue tests and the takers of an advance leave alone (`Aside`). -/

namespace Sys2Proof.Machine

variable {own : Taker → Prop}

/-! ## The Web Map (R74, R78, R87) -/

theorem slot_map (i j : Nat) (f : JobRecord → JobRecord) (s : State) :
    (s.modSlot i f).slot j = if i = j then (s.slot j).map f else s.slot j := by
  unfold State.slot State.modSlot
  rw [List.getElem?_modify]
  by_cases e : i = j
  · subst e
    rw [if_pos rfl]
    cases s.jobs[i]? <;> simp
  · rw [if_neg e]
    cases s.jobs[j]? <;> simp [e]

theorem jobOf_modSlot (i : Nat) {f : JobRecord → JobRecord} (keeps : ∀ r, (f r).defn = r.defn) (s : State) (g : Segment) :
    (s.modSlot i f).jobOf g = s.jobOf g := by
  unfold State.jobOf
  rw [slot_map]
  by_cases e : i = g.slot
  · rw [if_pos e]
    cases s.slot g.slot with
    | none => rfl
    | some r => exact keeps r
  · rw [if_neg e]

theorem aside_handReport (r : Report) (s : State) : Aside own s (handReport r s) := by
  unfold handReport
  split
  · exact aside_rest (fun m => by cases m <;> rfl) (fun st => by cases st <;> rfl) rfl rfl (fun _ h => h) (fun _ => rfl) rfl rfl
  · refine .trans (aside_rest (t := { s with mgmt := { s.mgmt with reportsLost := bump s.mgmt.reportsLost } })
      (fun m => by cases m <;> rfl) (fun st => by cases st <;> rfl) rfl rfl (fun _ h => h) (fun _ => rfl) rfl rfl)
      (aside_raise _ _)

theorem aside_drainTest (l : Lane) (s : State) : Aside own s (drainTest l s) :=
  aside_ite
    (fun _ => aside_modLane l _ s rfl (fun _ => rfl) (fun _ => rfl) (fun _ => rfl) fun h hh => ⟨h, hh, Traces.refl h⟩)
    fun _ => .refl s

theorem aside_modSlot (i : Nat) {f : JobRecord → JobRecord} (keeps : ∀ r, (f r).defn = r.defn) (s : State) :
    Aside own s (s.modSlot i f) :=
  aside_rest (fun m => by cases m <;> rfl) (fun st => by cases st <;> rfl) rfl rfl (fun _ h => h) (jobOf_modSlot i keeps s)
    rfl rfl

theorem aside_nip (n : Nip) (s : State) (h : ∀ e ∈ n.zones, e ∈ s.nip.zones) : Aside own s { s with nip := n } :=
  aside_rest (fun m => by cases m <;> rfl) (fun st => by cases st <;> rfl) rfl rfl h (fun _ => rfl) rfl rfl

theorem aside_dropZones (l : Lane) (id : Nat) (s : State) : Aside own s (dropZones l id s) :=
  aside_nip _ s fun _ he => (List.mem_filter.mp he).1

theorem aside_leaveMap (l : Lane) (c : Cause) (g : Segment) (s : State) : Aside own s (leaveMap l c g s) := by
  unfold leaveMap
  refine .trans ?_ (aside_drainTest l _)
  have out : Aside own s (s.modLane l (fun x => { x with segs := x.segs.filter (fun h => h.id ≠ g.id) })) :=
    aside_modLane l _ s rfl (fun _ => rfl) (fun _ => rfl) (fun _ => rfl) fun h hh =>
      ⟨h, (List.mem_filter.mp hh).1, Traces.refl h⟩
  have released := (out.trans (aside_dropZones l g.id _)).trans (aside_modSlot g.slot (f := fun r => { r with inUse := r.inUse - 1 }) (fun _ => rfl) _)
  exact aside_ite (fun _ => released.trans (aside_handReport _ _)) fun _ => released

theorem aside_nipChangeIf (c : Bool) (s : State) : Aside own s (nipChangeIf c s) := (nipWork_nipChangeIf c s).aside

theorem aside_retire (l : Lane) (g : Segment) (s : State) : Aside own s (retire l g s) :=
  (aside_leaveMap l .complete g s).trans (aside_nipChangeIf _ _)

theorem aside_retireTest (l : Lane) (id : Nat) (s : State) : Aside own s (retireTest l id s) := by
  unfold retireTest
  split
  · exact aside_ite (fun _ => aside_retire l _ s) fun _ => .refl s
  · exact .refl s

theorem aside_closeSeg (l : Lane) (id : Nat) (s : State) : Aside own s (closeSeg l id s) :=
  (aside_modSeg l id (fun g => { g with state := .closed, next := none }) s fun g => { Traces.refl g with }).trans
    (aside_retireTest l id _)

theorem traces_tally (cut : Bool) (fin : FinalState) (g : Segment) : Traces g (tally cut fin g) := { Traces.refl g with }

theorem aside_mapFinal (l : Lane) (act : Action) (fin : FinalState) (s : State) : Aside own s (mapFinal l act fin s) := by
  unfold mapFinal
  split
  · exact (aside_modSeg l _ _ s (traces_tally _ fin)).trans (aside_retireTest l _ _)
  · exact .refl s

theorem aside_flagOwner (l : Lane) (act : Action) {d : BitVec 12} (plain : d &&& registeredFlags = 0#12) (s : State) :
    Aside own s (flagOwner l act d s) := by
  unfold flagOwner
  split
  · exact aside_flagSeg l _ plain s
  · exact .refl s

/-! ## The Trim Planner (R154, R156) -/

theorem traces_watchFinal (job : JobDef) (p : Word32) (key : Nat) (done : Bool) (g : Segment) :
    Traces g (watchFinal job p key done g) := by
  unfold watchFinal
  split
  · split
    · exact { Traces.refl g with waits := fun h => by simp [watchDone] at h, ended := fun _ => rfl }
    · exact { Traces.refl g with
        registered := flag_registered (d := defTrimShort) (by decide) g.flags
        waits := fun h => by simp [watchFailed] at h
        ended := fun _ => rfl }
  · exact Traces.refl g

theorem traces_shortTest (job : JobDef) (p : Word32) (g : Segment) : Traces g (shortTest job p g).1 := by
  unfold shortTest
  dsimp only
  split
  · next active =>
    have keeps : ∀ h : Segment, (if (decide (g.watch.state = .waiting) && reaches p (trimFirst job g)) = true then
        g.flag defTrimShort else g) = h → h.id = g.id ∧ h.slot = g.slot ∧ h.anchorP = g.anchorP ∧ h.anchorX = g.anchorX ∧
          h.stretch = g.stretch ∧ h.flags &&& registeredFlags = g.flags &&& registeredFlags := by
      rintro h rfl
      split
      · exact ⟨rfl, rfl, rfl, rfl, rfl, flag_registered (by decide) g.flags⟩
      · exact ⟨rfl, rfl, rfl, rfl, rfl, rfl⟩
    obtain ⟨k1, k2, k3, k4, k5, k6⟩ := keeps _ rfl
    exact {
      id := k1, slot := k2, anchorP := k3, anchorX := k4, stretch := k5, registered := k6, watched := rfl
      waits := fun h => by dsimp only at h; split at h <;> cases h
      ended := fun h => by simp [h] at active }
  · exact Traces.refl g

theorem planFinal_fixed (key : Nat) (done : Bool) (x : LaneState) : laneFixed (planFinal key done x) = laneFixed x ∧
    (planFinal key done x).missedMarks = x.missedMarks ∧ (planFinal key done x).cutQueue = x.cutQueue := by
  unfold planFinal
  dsimp only
  split
  · split <;> exact ⟨rfl, rfl, rfl⟩
  · exact ⟨rfl, rfl, rfl⟩

theorem aside_trimFinal (l : Lane) (key : Nat) (done : Bool) (s : State) (mine : own (.station (trimmerOf l))) :
    Aside own s (trimFinal l key done s) := by
  unfold trimFinal
  dsimp only
  obtain ⟨fixed, missed, cuts⟩ := planFinal_fixed key done (s.lane l)
  have planned : Aside own s (s.modLane l (fun x =>
      { planFinal key done x with
        segs := x.segs.map (fun g => watchFinal (s.jobOf g) (trimPos l s) key done g) })) :=
    aside_modLane l _ s fixed (fun _ => missed) (fun _ => cuts) (fun n => absurd mine n) fun x hx => by
      obtain ⟨y, hy, rfl⟩ := List.mem_map.mp hx
      exact ⟨y, hy, traces_watchFinal _ _ _ _ y⟩
  exact aside_ite (fun _ => planned.trans (aside_raise _ _)) fun _ => planned

theorem aside_trimIssued (l : Lane) (key : Nat) (s : State) : Aside own s (trimIssued l key s) :=
  aside_modSeg l key _ s fun g => by
    split
    · exact { Traces.refl g with }
    · exact Traces.refl g

theorem aside_testShort (l : Lane) (s : State) : Aside own s (testShort l s) := by
  unfold testShort
  dsimp only
  have tested := aside_modSegs (own := own) l (fun g => (shortTest (s.jobOf g) (trimPos l s) g).1) s
    fun g => traces_shortTest _ _ g
  exact aside_ite (fun _ => tested.trans (aside_raise _ _)) fun _ => tested

/-! ## Issue tests (R103 to R111) -/

theorem aside_popCut (l : Lane) (s : State) (mine : own (.station (cutterOf l))) : Aside own s (popCut l s) :=
  aside_modLane l _ s rfl (fun _ => rfl) (fun n => absurd mine n) (fun _ => rfl) fun h hh => ⟨h, hh, Traces.refl h⟩

theorem aside_popTrim (l : Lane) (s : State) (mine : own (.station (trimmerOf l))) : Aside own s (popTrim l s) :=
  aside_modLane l _ s rfl (fun _ => rfl) (fun _ => rfl) (fun n => absurd mine n) fun h hh => ⟨h, hh, Traces.refl h⟩

theorem aside_issueCore {st : Station} (act : Action) (delay estimate : Nat) {s : State} (mine : own (.station st))
    (ready : (s.station st).mode = .ready) : Aside own s (issueCore st act delay estimate s) where
  fixed m := by rw [issueCore_lane]
  missed m _ := by rw [issueCore_lane]
  cuts m _ := by rw [issueCore_lane]
  knives m _ := by rw [issueCore_lane]
  segs m h hh := ⟨h, issueCore_lane st act delay estimate s m ▸ hh, Traces.refl h⟩
  station other := by
    by_cases e : other = st
    · subst e
      exact .inr ⟨.inr mine, ready, _, issueCore_station other act delay estimate s⟩
    · exact .inl (issueCore_station_ne st act delay estimate s e)
  idle e := by
    have busy := e st
    rw [issueCore_station, ready] at busy
    cases busy
  zones e he := by simpa using he
  jobOf := jobOf_congr (by simp)
  web := by simp
  nextSeg := by simp

theorem aside_flagEstimated (l : Lane) (act : Action) (s : State) : Aside own s (flagEstimated l act s) := by
  unfold flagEstimated
  split
  · exact aside_ite (fun _ => aside_flagSeg l _ (by decide) s) fun _ => .refl s
  · exact .refl s

theorem aside_issueCut (l : Lane) (act : Action) (s : State) (mine : own (.station (cutterOf l)))
    (ready : (s.station (cutterOf l)).mode = .ready) : Aside own s (issueCut l act s) := by
  unfold issueCut
  dsimp only
  have issued := fun delay => ((aside_popCut l s mine).trans
    (aside_issueCore act delay 0 mine (by rw [popCut_station]; exact ready))).trans (aside_flagEstimated l act _)
  split
  · exact aside_ite (fun _ => (issued _).trans (aside_modSeg l _ _ _ fun g =>
      { Traces.refl g with registered := flag_registered (d := defCutLate) (by decide) g.flags })) fun _ => issued _
  · exact issued _

theorem aside_skipCut (l : Lane) (act : Action) (s : State) (mine : own (.station (cutterOf l))) :
    Aside own s (skipCut l act s) :=
  (((aside_popCut l s mine).trans (aside_flagOwner l act (by decide) _)).trans (aside_raise _ _)).trans (aside_mapFinal l act _ _)

theorem aside_cancelCut (l : Lane) (act : Action) (s : State) (mine : own (.station (cutterOf l))) :
    Aside own s (cancelCut l act s) :=
  (((aside_popCut l s mine).trans (aside_flagOwner l act (by decide) _)).trans (aside_raise _ _)).trans (aside_mapFinal l act _ _)

theorem aside_cutTestN (l : Lane) (mine : own (.station (cutterOf l))) : ∀ (n : Nat) (s : State), Aside own s (cutTestN l n s)
  | 0, s => .refl s
  | n + 1, s => by
    unfold cutTestN
    split
    · exact .refl s
    · next act _ _ =>
      split
      · exact .refl s
      · next fate => exact aside_issueCut l act s mine (cutFate_issued fate)
      · exact (aside_skipCut l act s mine).trans (aside_cutTestN l mine n _)
      · exact (aside_cancelCut l act s mine).trans (aside_cutTestN l mine n _)

theorem aside_cutTest (l : Lane) (s : State) (mine : own (.station (cutterOf l))) : Aside own s (cutTest l s) :=
  aside_cutTestN l mine _ s

theorem aside_issueKnife (l : Lane) (act : Action) (s : State) (mine : own (.station (trimmerOf l)))
    (ready : (s.station (trimmerOf l)).mode = .ready) : Aside own s (issueKnife l act s) :=
  (((aside_popTrim l s mine).trans (aside_issueCore act _ _ mine (by rw [popTrim_station]; exact ready))).trans
    (aside_flagEstimated l act _)).trans (aside_trimIssued l _ _)

theorem aside_knifeFinal (l : Lane) (act : Action) (fin : FinalState) (s : State) (mine : own (.station (trimmerOf l))) :
    Aside own s (knifeFinal l act fin s) := (aside_trimFinal l _ _ s mine).trans (aside_mapFinal l act fin _)

theorem aside_cancelKnife (l : Lane) (act : Action) (s : State) (mine : own (.station (trimmerOf l))) :
    Aside own s (cancelKnife l act s) :=
  (((aside_popTrim l s mine).trans (aside_flagOwner l act (by decide) _)).trans (aside_raise _ _)).trans
    (aside_knifeFinal l act _ _ mine)

theorem aside_trimTestN (l : Lane) (mine : own (.station (trimmerOf l))) : ∀ (n : Nat) (s : State), Aside own s (trimTestN l n s)
  | 0, s => .refl s
  | n + 1, s => by
    unfold trimTestN
    split
    · exact .refl s
    · next act _ _ =>
      split
      · exact .refl s
      · next fate => exact aside_issueKnife l act s mine (trimFate_issued fate)
      · exact .refl s
      · exact (aside_cancelKnife l act s mine).trans (aside_trimTestN l mine n _)

theorem aside_trimTest (l : Lane) (s : State) (mine : own (.station (trimmerOf l))) : Aside own s (trimTest l s) :=
  aside_trimTestN l mine _ s

theorem aside_issueTest (st : Station) (s : State) (mine : own (.station st)) : Aside own s (issueTest st s) := by
  cases st with
  | lam => exact (nipWork_lamTest s).aside
  | trimA => exact aside_trimTest .a s mine
  | trimB => exact aside_trimTest .b s mine
  | cutA => exact aside_cutTest .a s mine
  | cutB => exact aside_cutTest .b s mine

theorem mem_arrange {α : Type} [DecidableEq α] {x : α} : ∀ {prefer todo : List α}, x ∈ arrange prefer todo ↔ x ∈ todo := by
  intro prefer
  induction prefer with
  | nil => exact fun {todo} => Iff.rfl
  | cons y prefer ih =>
    intro todo
    unfold arrange
    by_cases h : y ∈ todo
    · rw [if_pos h, List.mem_cons, ih]
      by_cases e : x = y
      · exact ⟨fun _ => e ▸ h, fun _ => .inl e⟩
      · simp [e, List.mem_erase_of_ne e]
    · rw [if_neg h, ih]

theorem aside_foldl {α : Type} {f : State → α → State} {xs : List α} (h : ∀ x ∈ xs, ∀ s, Aside own s (f s x)) (s : State) :
    Aside own s (xs.foldl f s) := by
  induction xs generalizing s with
  | nil => exact .refl s
  | cons x xs ih =>
    exact (h x (by simp) s).trans (ih (fun y hy => h y (by simp [hy])) _)

theorem aside_dropTurn (s : State) : Aside own s s.dropTurn :=
  aside_rest (fun m => by cases m <;> rfl) (fun st => by cases st <;> rfl) rfl rfl (fun _ h => h) (fun _ => rfl) rfl rfl

theorem aside_issueTests {sts : List Station} (mine : ∀ st ∈ sts, own (.station st)) (s : State) :
    Aside own s (issueTests sts s) :=
  (aside_dropTurn s).trans (aside_foldl (fun st h s => aside_issueTest st s (mine st (mem_arrange.mp h))) _)

/-! ## Windows (R59) and passed entries (R126) -/

theorem aside_missMarks (l : Lane) (id k : Nat) (s : State) (mine : own (.marks l)) : Aside own s (missMarks l id k s) :=
  aside_ite (fun _ => .refl s) fun _ =>
    ((aside_flagSeg l id (by decide) s).trans (aside_modLane l _ _ rfl (fun n => absurd mine n) (fun _ => rfl) (fun _ => rfl)
      fun h hh => ⟨h, hh, Traces.refl h⟩)).trans (aside_raise _ _)

theorem aside_setNext (l : Lane) (id : Nat) (m : NextMark) (s : State) : Aside own s (setNext l id m s) :=
  aside_modSeg l id (fun g => { g with next := some m }) s fun g => { Traces.refl g with }

theorem aside_expireN (l : Lane) (mine : own (.marks l)) : ∀ (n : Nat) (s : State), Aside own s (expireN l n s)
  | 0, s => .refl s
  | n + 1, s => by
    unfold expireN
    split
    · exact .refl s
    · split
      · exact .refl s
      · refine aside_ite (fun _ => ?_) fun _ => .refl s
        split
        · exact ((aside_missMarks l _ 1 s mine).trans (aside_setNext l _ _ _)).trans (aside_expireN l mine n _)
        · exact (aside_ite (fun _ => aside_missMarks l _ 1 s mine) fun _ => .refl s).trans (aside_closeSeg l _ _)

theorem aside_expireWindows (l : Lane) (s : State) (mine : own (.marks l)) : Aside own s (expireWindows l s) :=
  aside_expireN l mine 17 s

theorem aside_passZones (s : State) : Aside own s (passZones s) := by
  unfold passZones
  dsimp only
  have flagged : Aside own s (flagOwners defLamShort
      ((s.nip.zones.filter (entryPassed (lamPos s))).filter (passedUnlaminated s)) s) :=
    (nipWork_flagOwners (by decide) _ s).aside
  have nip : (flagOwners defLamShort
      ((s.nip.zones.filter (entryPassed (lamPos s))).filter (passedUnlaminated s)) s).nip = s.nip := flagOwners_nip _ _ s
  generalize flagOwners defLamShort
    ((s.nip.zones.filter (entryPassed (lamPos s))).filter (passedUnlaminated s)) s = u at flagged nip ⊢
  refine (flagged.trans (aside_nip { u.nip with zones := s.nip.zones.filter (fun e => !entryPassed (lamPos s) e) } u
    fun e he => ?_)).trans (aside_nipChangeIf _ _)
  rw [nip]
  exact (List.mem_filter.mp he).1

end Sys2Proof.Machine
end

section
/-! PROOFS. What the spoiling of lanes leaves, and the release of a nip whose zone list is empty (R90, R91, R118, R137). -/

namespace Sys2Proof.Machine

/-! ## Spoiling one segment (R90) -/

theorem planFinal_queues (key : Nat) (done : Bool) (x : LaneState) : (planFinal key done x).cutQueue = x.cutQueue ∧
    (planFinal key done x).trimQueue = x.trimQueue ∧ (planFinal key done x).stretch = x.stretch ∧
      (planFinal key done x).mode = x.mode := by
  unfold planFinal
  dsimp only
  split
  · split <;> exact ⟨rfl, rfl, rfl, rfl⟩
  · exact ⟨rfl, rfl, rfl, rfl⟩

theorem trimFinal_queues (l : Lane) (key : Nat) (done : Bool) (s : State) :
    ((trimFinal l key done s).lane l).cutQueue = (s.lane l).cutQueue ∧
      ((trimFinal l key done s).lane l).trimQueue = (s.lane l).trimQueue ∧
      ((trimFinal l key done s).lane l).stretch = (s.lane l).stretch ∧
      ((trimFinal l key done s).lane l).mode = (s.lane l).mode := by
  unfold trimFinal
  dsimp only
  split <;> simpa using planFinal_queues key done (s.lane l)

@[simp] theorem trimFinal_station (l : Lane) (key : Nat) (done : Bool) (s : State) (st : Station) :
    (trimFinal l key done s).station st = s.station st := by
  unfold trimFinal; dsimp only; split <;> simp

@[simp] theorem handReport_station (r : Report) (s : State) (st : Station) : (handReport r s).station st = s.station st := by
  unfold handReport
  split
  · cases st <;> rfl
  · rw [raise_station]
    cases st <;> rfl

@[simp] theorem drainTest_station (l : Lane) (s : State) (st : Station) : (drainTest l s).station st = s.station st := by
  unfold drainTest; split <;> simp

theorem releaseJob_station (i : Nat) (s : State) (st : Station) : (releaseJob i s).station st = s.station st := by
  cases st <;> rfl

@[simp] theorem dropZones_station (l : Lane) (id : Nat) (s : State) (st : Station) :
    (dropZones l id s).station st = s.station st := by cases st <;> rfl

@[simp] theorem leaveMap_station (l : Lane) (c : Cause) (g : Segment) (s : State) (st : Station) :
    (leaveMap l c g s).station st = s.station st := by
  unfold leaveMap
  rw [drainTest_station]
  split <;> simp [releaseJob_station]

theorem leaveMap_queues (l : Lane) (c : Cause) (g : Segment) (s : State) :
    ((leaveMap l c g s).lane l).cutQueue = (s.lane l).cutQueue ∧
      ((leaveMap l c g s).lane l).trimQueue = (s.lane l).trimQueue ∧
      ((leaveMap l c g s).lane l).stretch = (s.lane l).stretch := by
  have side : Aside (fun _ => False) s (leaveMap l c g s) := aside_leaveMap l c g s
  refine ⟨side.cuts l id, ?_, ?_⟩
  · exact congrArg Prod.fst (side.knives l id)
  · exact congrArg (fun p => p.2.1) (side.fixed l)

theorem unplan_queues (l : Lane) (id : Nat) (s : State) :
    ((unplan l id s).lane l).cutQueue = (s.lane l).cutQueue.filter (fun a => a.owner ≠ some id) ∧
      ((unplan l id s).lane l).trimQueue = (s.lane l).trimQueue.filter (fun a => a.owner ≠ some id) ∧
      ((unplan l id s).lane l).stretch = (s.lane l).stretch := by
  have cancelled : ((cancelPlanned l id (flagSeg l id defSpoiled s)).lane l).cutQueue =
        (s.lane l).cutQueue.filter (fun a => a.owner ≠ some id) ∧
      ((cancelPlanned l id (flagSeg l id defSpoiled s)).lane l).trimQueue =
        (s.lane l).trimQueue.filter (fun a => a.owner ≠ some id) ∧
      ((cancelPlanned l id (flagSeg l id defSpoiled s)).lane l).stretch = (s.lane l).stretch := by
    simp [cancelPlanned, flagSeg, State.modSeg]
  unfold unplan
  simp only [State.lane_modStation]
  split
  · obtain ⟨cuts, knives, stretch, -⟩ := trimFinal_queues l id false (cancelPlanned l id (flagSeg l id defSpoiled s))
    rw [cuts, knives, stretch]
    exact cancelled
  · exact cancelled

theorem cutter_ne_trimmer (l m : Lane) : cutterOf l ≠ trimmerOf m := by cases l <;> cases m <;> decide
theorem cutter_ne_lam (l : Lane) : cutterOf l ≠ .lam := by cases l <;> decide
theorem trimmer_ne_lam (l : Lane) : trimmerOf l ≠ .lam := by cases l <;> decide
theorem cutterOf_inj {l m : Lane} (h : cutterOf l = cutterOf m) : l = m := by
  cases l <;> cases m <;> first | rfl | cases h
theorem trimmerOf_inj {l m : Lane} (h : trimmerOf l = trimmerOf m) : l = m := by
  cases l <;> cases m <;> first | rfl | cases h

theorem unplan_station (l : Lane) (id : Nat) (s : State) {st : Station} (mine : st = cutterOf l ∨ st = trimmerOf l) :
    (unplan l id s).station st = orphan id (s.station st) := by
  unfold unplan
  have base : ∀ b : Bool, ((if b = true then trimFinal l id false (cancelPlanned l id (flagSeg l id defSpoiled s))
      else cancelPlanned l id (flagSeg l id defSpoiled s)).station st) = s.station st := by
    intro b
    cases b <;> simp [cancelPlanned, flagSeg, State.modSeg]
  rcases mine with rfl | rfl
  · rw [State.station_modStation_ne _ _ _ _ (cutter_ne_trimmer l l), State.station_modStation, base]
  · rw [State.station_modStation, State.station_modStation_ne _ _ _ _ (cutter_ne_trimmer l l).symm, base]

theorem unplan_station_ne (l : Lane) (id : Nat) (s : State) {st : Station} (cut : st ≠ cutterOf l) (trim : st ≠ trimmerOf l) :
    (unplan l id s).station st = s.station st := by
  unfold unplan
  rw [State.station_modStation_ne _ _ _ _ trim, State.station_modStation_ne _ _ _ _ cut]
  split <;> simp [cancelPlanned, flagSeg, State.modSeg]

theorem spoil_station (l : Lane) (c : Cause) (id : Nat) (s : State) {st : Station} (mine : st = cutterOf l ∨ st = trimmerOf l) :
    (spoil l c id s).station st = orphan id (s.station st) := by
  rw [spoil_eq]
  split
  · rw [leaveMap_station, unplan_station l id s mine]
  · exact unplan_station l id s mine

theorem spoil_station_ne (l : Lane) (c : Cause) (id : Nat) (s : State) {st : Station} (cut : st ≠ cutterOf l)
    (trim : st ≠ trimmerOf l) : (spoil l c id s).station st = s.station st := by
  rw [spoil_eq]
  split
  · rw [leaveMap_station, unplan_station_ne l id s cut trim]
  · exact unplan_station_ne l id s cut trim

theorem spoil_queues (l : Lane) (c : Cause) (id : Nat) (s : State) :
    ((spoil l c id s).lane l).cutQueue = (s.lane l).cutQueue.filter (fun a => a.owner ≠ some id) ∧
      ((spoil l c id s).lane l).trimQueue = (s.lane l).trimQueue.filter (fun a => a.owner ≠ some id) ∧
      ((spoil l c id s).lane l).stretch = (s.lane l).stretch := by
  rw [spoil_eq]
  split
  · next g _ =>
    obtain ⟨cuts, knives, stretch⟩ := leaveMap_queues l c g (unplan l id s)
    rw [cuts, knives, stretch]
    exact unplan_queues l id s
  · exact unplan_queues l id s

/-! ## Spoiling several segments of a lane (R91) -/

/-- Segments of a lane, by serial, are spoiled one after the other. -/
def spoilAll (l : Lane) (c : Cause) (ids : List Nat) (s : State) : State := ids.foldl (fun acc id => spoil l c id acc) s

theorem spoilLane_eq (l : Lane) (c : Cause) (s : State) : spoilLane l c s = spoilAll l c (serials (s.lane l)) s := rfl

theorem spoilAll_cons (l : Lane) (c : Cause) (id : Nat) (ids : List Nat) (s : State) :
    spoilAll l c (id :: ids) s = spoilAll l c ids (spoil l c id s) := rfl

theorem spoilAll_station_ne (l : Lane) (c : Cause) {st : Station} (cut : st ≠ cutterOf l) (trim : st ≠ trimmerOf l) :
    ∀ (ids : List Nat) (s : State), (spoilAll l c ids s).station st = s.station st
  | [], _ => rfl
  | id :: ids, s => by rw [spoilAll_cons, spoilAll_station_ne l c cut trim ids, spoil_station_ne l c id s cut trim]

theorem spoilAll_queues (l : Lane) (c : Cause) : ∀ (ids : List Nat) (s : State),
    ((spoilAll l c ids s).lane l).cutQueue = (s.lane l).cutQueue.filter (fun a => ∀ id ∈ ids, a.owner ≠ some id) ∧
      ((spoilAll l c ids s).lane l).trimQueue = (s.lane l).trimQueue.filter (fun a => ∀ id ∈ ids, a.owner ≠ some id) ∧
      ((spoilAll l c ids s).lane l).stretch = (s.lane l).stretch
  | [], s => by simp [spoilAll]
  | id :: ids, s => by
    obtain ⟨cuts, knives, stretch⟩ := spoilAll_queues l c ids (spoil l c id s)
    obtain ⟨cuts1, knives1, stretch1⟩ := spoil_queues l c id s
    rw [spoilAll_cons, cuts, knives, stretch, cuts1, knives1, stretch1, List.filter_filter, List.filter_filter]
    refine ⟨List.filter_congr fun a _ => ?_, List.filter_congr fun a _ => ?_, rfl⟩ <;> simp [Bool.and_comm]

theorem orphan_outstanding {id : Nat} {x : StationState} {i : Issued} (held : x.outstanding = some i)
    (owner : i.act.owner = some id) : orphan id x =
      { x with outstanding := some { i with act := { i.act with owner := none }, orphan := true } } := by
  simp only [orphan, held, owner, if_true]

theorem orphan_kept {id : Nat} {x : StationState} {i : Issued} (held : x.outstanding = some i)
    (owner : i.act.owner ≠ some id) : orphan id x = x := by simp only [orphan, held, if_neg owner]

theorem spoilAll_orphaned (l : Lane) (c : Cause) {st : Station} (mine : st = cutterOf l ∨ st = trimmerOf l) {i : Issued}
    (owner : i.act.owner = none) (ids : List Nat) (s : State) (held : (s.station st).outstanding = some i) :
    (spoilAll l c ids s).station st = s.station st := by
  induction ids generalizing s with
  | nil => rfl
  | cons id ids ih =>
    have same : (spoil l c id s).station st = s.station st := by
      rw [spoil_station l c id s mine]
      exact orphan_kept held (by simp [owner])
    rw [spoilAll_cons, ih _ (by rw [same]; exact held), same]

/-- The issued action of a station becomes an orphan once its owner is spoiled, and stays it (R118). -/
theorem spoilAll_orphans (l : Lane) (c : Cause) {st : Station} (mine : st = cutterOf l ∨ st = trimmerOf l) {i : Issued} {k : Nat}
    (owner : i.act.owner = some k) (ids : List Nat) (s : State) (held : (s.station st).outstanding = some i) (mem : k ∈ ids) :
    (spoilAll l c ids s).station st =
      { s.station st with outstanding := some { i with act := { i.act with owner := none }, orphan := true } } := by
  induction ids generalizing s with
  | nil => simp at mem
  | cons id ids ih =>
    have now := spoil_station l c id s mine
    rw [spoilAll_cons]
    by_cases e : id = k
    · subst e
      rw [orphan_outstanding held owner] at now
      rw [spoilAll_orphaned l c mine (i := { i with act := { i.act with owner := none }, orphan := true }) rfl ids _
        (by rw [now]), now]
    · rw [orphan_kept held (by rw [owner]; simpa using fun h => e h.symm)] at now
      rw [ih _ (by rw [now]; exact held) ((List.mem_cons.mp mem).resolve_left fun h => e h.symm), now]

/-- Spoiling issues nothing: no id is used and no frame queued. -/
theorem spoil_unissued (l : Lane) (c : Cause) (id : Nat) (s : State) :
    (spoil l c id s).lastId = s.lastId ∧ (spoil l c id s).south = s.south ∧ (spoil l c id s).nextSeg = s.nextSeg := by
  have trimmed : ∀ u : State, (trimFinal l id false u).lastId = u.lastId ∧ (trimFinal l id false u).south = u.south ∧
      (trimFinal l id false u).nextSeg = u.nextSeg := fun u => by
    unfold trimFinal; dsimp only; split <;> simp
  have planned : (unplan l id s).lastId = s.lastId ∧ (unplan l id s).south = s.south ∧
      (unplan l id s).nextSeg = s.nextSeg := by
    unfold unplan
    simp only [State.lastId_modStation, State.south_modStation, State.nextSeg_modStation]
    split
    · obtain ⟨h1, h2, h3⟩ := trimmed (cancelPlanned l id (flagSeg l id defSpoiled s))
      rw [h1, h2, h3]
      simp [cancelPlanned]
    · simp [cancelPlanned]
  have left : ∀ (g : Segment) (u : State), (leaveMap l c g u).lastId = u.lastId ∧ (leaveMap l c g u).south = u.south ∧
      (leaveMap l c g u).nextSeg = u.nextSeg := fun g u => by
    have side : Aside (fun _ => False) u (leaveMap l c g u) := aside_leaveMap l c g u
    exact ⟨(side.idle fun st => by simp).1, (side.idle fun st => by simp).2, side.nextSeg⟩
  rw [spoil_eq]
  split
  · next g _ =>
    obtain ⟨h1, h2, h3⟩ := left g (unplan l id s)
    rw [h1, h2, h3]
    exact planned
  · exact planned

theorem spoilAll_unissued (l : Lane) (c : Cause) : ∀ (ids : List Nat) (s : State),
    (spoilAll l c ids s).lastId = s.lastId ∧ (spoilAll l c ids s).south = s.south ∧ (spoilAll l c ids s).nextSeg = s.nextSeg
  | [], _ => ⟨rfl, rfl, rfl⟩
  | id :: ids, s => by
    obtain ⟨h1, h2, h3⟩ := spoilAll_unissued l c ids (spoil l c id s)
    rw [spoilAll_cons, h1, h2, h3]
    exact spoil_unissued l c id s

theorem inMap_iff (x : LaneState) (k : Nat) : inMap x k = true ↔ k ∈ serials x := by
  simp [inMap, serials, List.any_eq_true]

theorem spoil_inMap (l : Lane) (c : Cause) (id : Nat) (s : State) (k : Nat) :
    inMap ((spoil l c id s).lane l) k = (inMap (s.lane l) k && decide (k ≠ id)) := by
  rw [Bool.eq_iff_iff, inMap_iff, spoil_serials, List.mem_filter, Bool.and_eq_true, inMap_iff]

/-- Of the Nip Planner, spoiling changes the zone list only: the entries of the spoiled segments leave it (R91). -/
theorem spoilAll_nip (l : Lane) (c : Cause) (ids : List Nat) (s : State) : (spoilAll l c ids s).nip =
    { s.nip with zones := s.nip.zones.filter (fun e =>
      !(decide (e.lane = l) && decide (e.seg ∈ ids) && inMap (s.lane l) e.seg)) } := by
  induction ids generalizing s with
  | nil => simp [spoilAll]
  | cons id ids ih =>
    rw [spoilAll_cons, ih, spoil_nip, List.filter_filter]
    dsimp only
    congr 1
    refine List.filter_congr fun e _ => ?_
    rw [spoil_inMap]
    by_cases h : e.seg = id
    · subst h
      cases inMap (s.lane l) e.seg <;> simp
    · simp [h]

theorem spoilLane_nip (l : Lane) (c : Cause) (s : State) : (spoilLane l c s).nip =
    { s.nip with zones := s.nip.zones.filter (fun e => !(decide (e.lane = l) && inMap (s.lane l) e.seg)) } := by
  rw [spoilLane_eq, spoilAll_nip]
  refine congrArg (fun z => { s.nip with zones := z }) (List.filter_congr fun e _ => ?_)
  have both : decide (e.seg ∈ serials (s.lane l)) = inMap (s.lane l) e.seg := by
    rw [Bool.eq_iff_iff, inMap_iff, decide_eq_true_iff]
  rw [both]
  cases inMap (s.lane l) e.seg <;> simp

/-! ## The reports of spoiled segments (R88, R90) -/

theorem flag_spoiled_ne (f : BitVec 12) : f ||| defSpoiled ≠ 0#12 := by
  intro h
  have bit := congrArg (fun b : BitVec 12 => b.getLsbD 11) h
  simp [defSpoiled] at bit

theorem handReport_reports {r : Report} {s : State} (room : s.mgmt.reports.length < 16) :
    (handReport r s).mgmt.reports = s.mgmt.reports ++ [r] := by rw [handReport, if_pos room]

@[simp] theorem drainTest_mgmt (l : Lane) (s : State) : (drainTest l s).mgmt = s.mgmt := by
  unfold drainTest; split <;> simp

theorem leaveMap_reports {l : Lane} {c : Cause} {g : Segment} {s : State} (due : reportDue (s.jobOf g) g = true)
    (room : s.mgmt.reports.length < 16) : (leaveMap l c g s).mgmt.reports = s.mgmt.reports ++ [reportOf l c g] := by
  unfold leaveMap
  have kept : (releaseJob g.slot (dropZones l g.id
      (s.modLane l (fun x => { x with segs := x.segs.filter (fun h => h.id ≠ g.id) })))).mgmt = s.mgmt := by
    simp [releaseJob]
  dsimp only
  rw [drainTest_mgmt, if_pos due, handReport_reports (by rw [kept]; exact room), kept]
  rfl

/-- The oldest segment of a lane with no knife action PLANNED is spoiled: it leaves, its report is appended, the others stay. -/
theorem spoil_oldest {l : Lane} {c : Cause} {g : Segment} {rest : List Segment} {s : State}
    (segs : (s.lane l).segs = g :: rest) (fresh : ∀ h ∈ rest, h.id ≠ g.id) (idle : (s.lane l).trimQueue = [])
    (room : s.mgmt.reports.length < 16) :
    ((spoil l c g.id s).lane l).segs = rest ∧ ((spoil l c g.id s).lane l).trimQueue = [] ∧
      (spoil l c g.id s).mgmt.reports = s.mgmt.reports ++ [spoiledReport l c g] := by
  have planned : plannedKnife l g.id s = false := by simp [plannedKnife, idle]
  have unplanned : unplan l g.id s = ((cancelPlanned l g.id (flagSeg l g.id defSpoiled s)).modStation (cutterOf l)
      (orphan g.id)).modStation (trimmerOf l) (orphan g.id) := by
    unfold unplan
    simp only [planned, Bool.false_eq_true, if_false]
  have unplannedSegs : ((unplan l g.id s).lane l).segs = g.flag defSpoiled :: rest := by
    rw [unplanned]
    simp only [State.lane_modStation, cancelPlanned_segs, flagSeg, modSeg_segs, segs, List.map_cons, if_true]
    exact congrArg _ ((List.map_congr_left fun h hh => if_neg (fresh h hh)).trans (List.map_id rest))

  have reports : (unplan l g.id s).mgmt = s.mgmt := by rw [unplanned]; simp [cancelPlanned]
  have found : (unplan l g.id s).seg? l g.id = some (g.flag defSpoiled) := by
    simp [State.seg?, unplannedSegs, Segment.flag]
  have left : spoil l c g.id s = leaveMap l c (g.flag defSpoiled) (unplan l g.id s) := by rw [spoil_eq, found]
  refine ⟨?_, ?_, ?_⟩
  · rw [left, leaveMap_segs, unplannedSegs]
    have others : rest.filter (fun h => h.id ≠ g.id) = rest := List.filter_eq_self.mpr fun h hh => by simpa using fresh h hh
    rw [List.filter_cons_of_neg (by simp [Segment.flag])]
    exact others
  · rw [(spoil_queues l c g.id s).2.1, idle]
    rfl
  · have due : ∀ job, reportDue job (g.flag defSpoiled) = true := fun job => by
      rw [reportDue, Bool.or_eq_true]
      exact .inr (decide_eq_true (flag_spoiled_ne g.flags))
    rw [left, leaveMap_reports (due _) (by rw [reports]; exact room), reports]
    rfl

theorem spoilAll_reports {l : Lane} {c : Cause} (segs : List Segment) (s : State) (here : (s.lane l).segs = segs)
    (nodup : (segs.map (fun g => g.id)).Nodup) (idle : (s.lane l).trimQueue = [])
    (room : segs.length + s.mgmt.reports.length ≤ 16) :
    (spoilAll l c (segs.map (fun g => g.id)) s).mgmt.reports = s.mgmt.reports ++ segs.map (spoiledReport l c) := by
  induction segs generalizing s with
  | nil => simp [spoilAll]
  | cons g rest ih =>
    rw [List.map_cons, List.nodup_cons] at nodup
    rw [List.length_cons] at room
    obtain ⟨segs1, idle1, reports1⟩ := spoil_oldest (c := c) here
      (fun h hh e => nodup.1 (List.mem_map.mpr ⟨h, hh, e⟩)) idle (by omega)
    rw [List.map_cons, spoilAll_cons, ih _ segs1 nodup.2 idle1 (by rw [reports1]; simp; omega), reports1]
    simp

/-! ## Both lanes (R35, R74, R170) -/

variable {l : Lane} {s t u : State}

theorem nipWork_lane_empty (h : NipWork s t) {m : Lane} (empty : (s.lane m).segs = []) : t.lane m = s.lane m := by
  obtain ⟨f, e, -⟩ := h.lane m
  rw [e, empty]
  exact congrArg (fun x => { s.lane m with segs := x }) empty.symm

theorem LaneSpoiled.later (h : LaneSpoiled l s t) (lane : u.lane l = t.lane l)
    (stations : ∀ st, st = cutterOf l ∨ st = trimmerOf l → u.station st = t.station st) : LaneSpoiled l s u where
  segs := by rw [lane]; exact h.segs
  mode := by rw [lane]; exact h.mode
  record := by rw [lane]; exact h.record
  stretch := by rw [lane]; exact h.stretch
  queues := by rw [lane]; exact h.queues
  orphans st mine := by rw [stations st mine]; exact h.orphans st mine

theorem LaneSpoiled.earlier {r : State} (h : LaneSpoiled l s t) (lane : s.lane l = r.lane l)
    (stations : ∀ st, st = cutterOf l ∨ st = trimmerOf l → s.station st = r.station st) : LaneSpoiled l r t where
  segs := h.segs
  mode := h.mode
  record := by rw [← lane]; exact h.record
  stretch := by rw [← lane]; exact h.stretch
  queues := by rw [← lane]; exact h.queues
  orphans st mine := by rw [← lane, ← stations st mine]; exact h.orphans st mine

theorem LaneSpoiled.nipWork (h : LaneSpoiled l s t) (k : NipWork t u) : LaneSpoiled l s u :=
  h.later (nipWork_lane_empty k h.segs) fun st mine => k.station st (by
    rintro rfl
    exact mine.elim (fun e => cutter_ne_lam l e.symm) fun e => trimmer_ne_lam l e.symm)

theorem LaneSpoiled.endOfEvent (h : LaneSpoiled l s t) (k : EndOfEvent t u) : LaneSpoiled l s u :=
  h.later (k.lane l) fun st _ => k.station st

/-- What spoiling the segments of a lane and disabling it leaves of that lane (R73, R91, R118). -/
theorem laneSpoiled_disabled (l : Lane) (c : Cause) (s : State) : LaneSpoiled l s (disableLane l (spoilLane l c s)) where
  segs := by rw [disableLane, State.lane_modLane]; exact spoilLane_empty l c s
  mode := by rw [disableLane, State.lane_modLane]
  record := by rw [disableLane, State.lane_modLane]; exact (inside_spoilLane l c s).laneRecord l
  stretch := by rw [disableLane, State.lane_modLane, spoilLane_eq]; exact (spoilAll_queues l c _ s).2.2
  queues owned := by
    obtain ⟨cuts, knives, -⟩ := spoilAll_queues l c (serials (s.lane l)) s
    rw [disableLane, State.lane_modLane, spoilLane_eq]
    dsimp only
    rw [cuts, knives]
    constructor <;> refine List.filter_eq_nil_iff.mpr fun a ha => ?_
    · obtain ⟨k, owner, mem⟩ := owned a (List.mem_append_left _ ha)
      simpa using ⟨k, (inMap_iff _ _).mp mem, owner⟩
    · obtain ⟨k, owner, mem⟩ := owned a (List.mem_append_right _ ha)
      simpa using ⟨k, (inMap_iff _ _).mp mem, owner⟩
  orphans st mine busy i k held owner mem := by
    rw [disableLane, State.station_modLane, spoilLane_eq,
      spoilAll_orphans l c mine owner _ s held ((inMap_iff _ _).mp mem)]
    exact ⟨busy, rfl⟩

theorem spoilLane_station_ne (l : Lane) (c : Cause) (s : State) {st : Station} (cut : st ≠ cutterOf l) (trim : st ≠ trimmerOf l) :
    (spoilLane l c s).station st = s.station st := spoilAll_station_ne l c cut trim _ s

theorem station_of_other {m : Lane} (h : m ≠ l) {st : Station} (mine : st = cutterOf l ∨ st = trimmerOf l) :
    st ≠ cutterOf m ∧ st ≠ trimmerOf m := by
  rcases mine with rfl | rfl
  · exact ⟨fun e => h (cutterOf_inj e).symm, cutter_ne_trimmer l m⟩
  · exact ⟨(cutter_ne_trimmer m l).symm, fun e => h (trimmerOf_inj e).symm⟩

theorem laneSpoiled_spoilBoth (l : Lane) (c : Cause) (s : State) : LaneSpoiled l s (spoilBoth c s) := by
  cases l with
  | a =>
    have first := laneSpoiled_disabled .a c s
    refine first.later ?_ fun st mine => ?_
    · simp only [spoilBoth, disableLane]
      rw [State.lane_modLane_ne _ _ _ _ (by decide : Lane.a ≠ .b), State.lane_modLane, State.lane_modLane,
        spoilLane_lane_ne (by decide : Lane.a ≠ .b)]
    · obtain ⟨cut, trim⟩ := station_of_other (m := .b) (by decide) mine
      simp only [spoilBoth, disableLane, State.station_modLane]
      exact spoilLane_station_ne .b c _ cut trim
  | b =>
    have second := laneSpoiled_disabled .b c (spoilLane .a c s)
    refine (second.later ?_ fun st mine => ?_).earlier ?_ fun st mine => ?_
    · simp only [spoilBoth, disableLane, State.lane_modLane]
      rw [State.lane_modLane_ne _ _ _ _ (by decide : Lane.b ≠ .a)]
    · simp only [spoilBoth, disableLane, State.station_modLane]
    · exact spoilLane_lane_ne (by decide) c s
    · obtain ⟨cut, trim⟩ := station_of_other (m := .a) (by decide) mine
      exact spoilLane_station_ne .a c s cut trim

theorem spoilBoth_nip (c : Cause) (s : State) : (spoilBoth c s).nip =
    { s.nip with zones := s.nip.zones.filter (fun e => !inMap (s.lane e.lane) e.seg) } := by
  have nip : (spoilBoth c s).nip = (spoilLane .b c (spoilLane .a c s)).nip := by simp [spoilBoth, disableLane]
  rw [nip, spoilLane_nip, spoilLane_nip, List.filter_filter]
  refine congrArg (fun z => { s.nip with zones := z }) (List.filter_congr fun e _ => ?_)
  rw [spoilLane_lane_ne (by decide : Lane.b ≠ .a)]
  cases e.lane <;> simp

theorem spoilBoth_lam (c : Cause) (s : State) : (spoilBoth c s).lam = s.lam := by
  show (spoilBoth c s).station .lam = s.station .lam
  simp only [spoilBoth, disableLane, State.station_modLane]
  rw [spoilLane_station_ne .b c _ (by decide) (by decide), spoilLane_station_ne .a c _ (by decide) (by decide)]

theorem spoilBoth_unissued (c : Cause) (s : State) :
    (spoilBoth c s).lastId = s.lastId ∧ (spoilBoth c s).south = s.south := by
  obtain ⟨id1, south1, -⟩ := spoilAll_unissued .a c (serials s.laneA) s
  obtain ⟨id2, south2, -⟩ := spoilAll_unissued .b c (serials (spoilLane .a c s).laneB) (spoilLane .a c s)
  constructor
  · simp only [spoilBoth, disableLane, State.lastId_modLane]
    exact id2.trans id1
  · simp only [spoilBoth, disableLane, State.south_modLane]
    exact south2.trans south1

theorem spoilBoth_web (c : Cause) (s : State) : (spoilBoth c s).web = s.web := by
  simp [spoilBoth, disableLane, spoilLane_web]

/-- The reports of the spoiled segments are appended, lane A's first and oldest first (R74, R91). -/
theorem spoilBoth_reports (c : Cause) (s : State) (room : (s.laneA.segs ++ s.laneB.segs).length + s.mgmt.reports.length ≤ 16)
    (each : ∀ l, (s.lane l).trimQueue = [] ∧ ((s.lane l).segs.map (fun g => g.id)).Nodup) :
    (spoilBoth c s).mgmt.reports =
      s.mgmt.reports ++ (s.laneA.segs.map (spoiledReport .a c) ++ s.laneB.segs.map (spoiledReport .b c)) := by
  rw [List.length_append] at room
  have first : (spoilLane .a c s).mgmt.reports = s.mgmt.reports ++ s.laneA.segs.map (spoiledReport .a c) :=
    spoilAll_reports s.laneA.segs s rfl (each .a).2 (each .a).1 (by omega)
  have laneB : (spoilLane .a c s).lane .b = s.lane .b := spoilLane_lane_ne (by decide) c s
  have second : (spoilLane .b c (spoilLane .a c s)).mgmt.reports =
      (spoilLane .a c s).mgmt.reports ++ s.laneB.segs.map (spoiledReport .b c) := by
    have serialsB : serials ((spoilLane .a c s).lane .b) = s.laneB.segs.map (fun g => g.id) := by rw [laneB]; rfl
    rw [spoilLane_eq .b, serialsB]
    exact spoilAll_reports s.laneB.segs _ (by rw [laneB]; rfl) (each .b).2 (by rw [laneB]; exact (each .b).1)
      (by rw [first]; simp; omega)
  have mgmt : (spoilBoth c s).mgmt = (spoilLane .b c (spoilLane .a c s)).mgmt := by simp [spoilBoth, disableLane]
  rw [mgmt, second, first, List.append_assoc]

end Sys2Proof.Machine
end

section
/-! PROOFS. The Nip Planner at the issue of a transition, and the corrective RELEASE of a nip that nothing wants closed
(R134, R135, R137). -/

namespace Sys2Proof.Machine

variable {s t : State}

theorem Inside.lamPos (h : Inside s t) : lamPos t = lamPos s := by
  have kept : t.lam.record = s.lam.record := h.stationRecord .lam
  simp only [Machine.lamPos, Machine.recordOr, h.tracker, kept]

theorem Inside.recordOr (h : Inside s t) (st : Station) : recordOr (t.station st) = recordOr (s.station st) := by
  simp only [Machine.recordOr, h.stationRecord st]

theorem Inside.toGo (h : Inside s t) (st : Station) (target : Word32) : toGo st target t = toGo st target s := by
  simp only [Machine.toGo, h.recordOr st, h.tracker]

theorem Inside.configured (h : Inside s t) (st : Station) : (t.station st).configured = (s.station st).configured := by
  simp only [StationState.configured, h.stationRecord st]

/-- The plan R129 and R130 give for the zone list as it stands. -/
def planNow (s : State) : List Stretch := planOf (banned s.web) s.setup.policy s.setup.bridge s.nip.zones

/-- The Nip Planner after an issue, but for the note of the entries whose ENGAGE has been issued (R135). -/
def nipAfterIssue (o : Offer) (id : BitVec 16) (s : State) : Nip :=
  { nipRecord o id s.nip with
    plan := planNow s
    offer := offerOf { nipRecord o id s.nip with plan := planNow s } (lamPos s) }

@[simp] theorem lateEngage_nip (o : Offer) (n : Nat) (s : State) : (lateEngage o n s).nip = s.nip := by
  unfold lateEngage
  dsimp only
  split <;> simp

@[simp] theorem engageTemp_nip (o : Offer) (s : State) : (engageTemp o s).nip = s.nip := by
  unfold engageTemp
  split <;> simp

/-- The state of the Nip Planner in which the recomputation of an issue is made (R135). -/
def issueNoted (o : Offer) (n : Nat) (id : BitVec 16) (s : State) : State :=
  if o.kind = .engage then noteBegun o (engageTemp o (lateEngage o n { s with nip := nipRecord o id s.nip }))
  else { s with nip := nipRecord o id s.nip }

theorem nipIssued_eq (o : Offer) (n : Nat) (id : BitVec 16) (s : State) : nipIssued o n id s = recompute (issueNoted o n id s) :=
  rfl

theorem inside_issueNoted (o : Offer) (n : Nat) (id : BitVec 16) (s : State) : Inside s (issueNoted o n id s) := by
  have recorded : Inside s { s with nip := nipRecord o id s.nip } := inside_nip s _ rfl rfl rfl rfl
  unfold issueNoted
  split
  · exact ((recorded.trans (inside_lateEngage o n _)).trans (inside_engageTemp o _)).trans (inside_noteBegun o _)
  · exact recorded

theorem nipWork_noteBegun (o : Offer) (s : State) : NipWork s (noteBegun o s) := nipWork_nip _ rfl

theorem nipWork_issueNoted (o : Offer) (n : Nat) (id : BitVec 16) (s : State) : NipWork s (issueNoted o n id s) := by
  have recorded : NipWork s { s with nip := nipRecord o id s.nip } := nipWork_nip _ rfl
  exact nipWork_ite
    (fun _ => ((recorded.trans (nipWork_lateEngage o n _)).trans (nipWork_engageTemp o _)).trans (nipWork_noteBegun o _))
    fun _ => recorded

theorem issueNoted_nip (o : Offer) (n : Nat) (id : BitVec 16) (s : State) :
    ∃ begun, (issueNoted o n id s).nip = { nipRecord o id s.nip with begun := begun } := by
  unfold issueNoted
  split
  · exact ⟨_, by rw [noteBegun]; simp only [engageTemp_nip, lateEngage_nip]; rfl⟩
  · exact ⟨s.nip.begun, rfl⟩

theorem nipIssued_nip (o : Offer) (n : Nat) (id : BitVec 16) (s : State) :
    ∃ begun, (nipIssued o n id s).nip = { nipAfterIssue o id s with begun := begun } := by
  obtain ⟨begun, noted⟩ := issueNoted_nip o n id s
  obtain ⟨begun', planned⟩ := recompute_nip (issueNoted o n id s)
  have inside := inside_issueNoted o n id s
  refine ⟨begun', ?_⟩
  rw [nipIssued_eq, planned, (nipWork_issueNoted o n id s).web, inside.setup, inside.lamPos, noted]
  rfl

theorem inside_issueLam_core (o : Offer) (s : State) :
    Inside s (issueCore .lam (offerAction o) (fireDelay (toGo .lam o.target s) s.tracker.speed s.setup.horizon) 0 s) :=
  inside_issueCore .lam _ _ 0 s

theorem issueLam_nip (o : Offer) (s : State) :
    ∃ begun, (issueLam o s).nip = { nipAfterIssue o (nextId s.lastId) s with begun := begun } := by
  have inside := inside_issueLam_core o s
  obtain ⟨begun, issued⟩ := nipIssued_nip o (-toGo .lam o.target s).toNat (nextId s.lastId)
    (issueCore .lam (offerAction o) (fireDelay (toGo .lam o.target s) s.tracker.speed s.setup.horizon) 0 s)
  refine ⟨begun, ?_⟩
  have same : nipAfterIssue o (nextId s.lastId)
      (issueCore .lam (offerAction o) (fireDelay (toGo .lam o.target s) s.tracker.speed s.setup.horizon) 0 s) =
      nipAfterIssue o (nextId s.lastId) s := by
    simp only [nipAfterIssue, planNow, issueCore_nip, issueCore_web, issueCore_setup, inside.lamPos]
  rw [same] at issued
  rw [← issued]
  show (nipIssued o _ (issueCore _ _ _ _ s).lastId _).nip = _
  rw [issueCore_lastId]

/-- LAM after the issue of its offer (R108, R116). -/
theorem issueLam_lam (o : Offer) (s : State) : (issueLam o s).lam =
    { s.lam with
      mode := .busy
      outstanding :=
        some { act := offerAction o, id := nextId s.lastId, orphan := false,
               timeout := (recordOr s.lam).timeout +
                 ceilDiv (fireDelay (toGo .lam o.target s) s.tracker.speed s.setup.horizon) 1000 + 0 } } := by
  have core := issueCore_station .lam (offerAction o) (fireDelay (toGo .lam o.target s) s.tracker.speed s.setup.horizon) 0 s
  have rest := (nipWork_nipIssued o (-toGo .lam o.target s).toNat
    (issueCore .lam (offerAction o) (fireDelay (toGo .lam o.target s) s.tracker.speed s.setup.horizon) 0 s).lastId
    (issueCore .lam (offerAction o) (fireDelay (toGo .lam o.target s) s.tracker.speed s.setup.horizon) 0 s)).lam
  rcases rest with same | issued
  · exact same.trans core
  · rw [← State.station_lam, core] at issued
    exact absurd issued.1 (by simp)

theorem issueLam_lastId (o : Offer) (s : State) : (issueLam o s).lastId = nextId s.lastId ∧
    (issueLam o s).south =
      (issueCore .lam (offerAction o) (fireDelay (toGo .lam o.target s) s.tracker.speed s.setup.horizon) 0 s).south := by
  have core := issueCore_station .lam (offerAction o) (fireDelay (toGo .lam o.target s) s.tracker.speed s.setup.horizon) 0 s
  have work := nipWork_nipIssued o (-toGo .lam o.target s).toNat
    (issueCore .lam (offerAction o) (fireDelay (toGo .lam o.target s) s.tracker.speed s.setup.horizon) 0 s).lastId
    (issueCore .lam (offerAction o) (fireDelay (toGo .lam o.target s) s.tracker.speed s.setup.horizon) 0 s)
  have same := work.lam.resolve_right fun issued => by
    rw [← State.station_lam, core] at issued
    exact absurd issued.1 (by simp)
  obtain ⟨lastId, south⟩ := work.idle (by rw [same])
  exact ⟨lastId.trans (issueCore_lastId _ _ _ _ s), south⟩

/-! ## A target under the nip is due at once (R104, R105) -/

theorem toGo_lamPos (s : State) : toGo .lam (lamPos s) s = (-pu (lead s.tracker.speed (recordOr s.lam).latency)).toInt := by
  have back : ∀ p d x : Word32, p - d + d - x - p = -x := fun p d x => by
    rw [BitVec.sub_add_cancel, BitVec.sub_eq_add_neg p, BitVec.add_comm, BitVec.add_sub_cancel]
  exact congrArg BitVec.toInt (back s.tracker.p (pu (recordOr s.lam).dist) _)

theorem neg_pu_toInt {n : Nat} (small : n < 2147483648) : (-pu n).toInt = -(n : Int) := by
  have plain : (pu n).toInt = n := by
    rw [BitVec.toInt_eq_toNat_of_lt] <;> simp only [pu, BitVec.toNat_ofNat] <;> omega
  have notMin : pu n ≠ BitVec.intMin 32 := by
    intro h
    have := congrArg BitVec.toNat h
    simp [pu, BitVec.toNat_intMin] at this
    omega
  rw [BitVec.toInt_neg_of_ne_intMin notMin, plain]

theorem toGo_lamPos_slow {s : State} (slow : s.tracker.speed ≤ 256000) (quick : (recordOr s.lam).latency ≤ 200000) :
    toGo .lam (lamPos s) s ≤ 0 := by
  have product : s.tracker.speed * (recordOr s.lam).latency ≤ 256000 * 200000 := Nat.mul_le_mul slow quick
  have small : lead s.tracker.speed (recordOr s.lam).latency < 2147483648 := by unfold lead; omega
  rw [toGo_lamPos, neg_pu_toInt small]
  omega

theorem toGo_lamPos_still {s : State} (still : s.tracker.speed = 0) : toGo .lam (lamPos s) s ≤ 0 := by
  have none : lead s.tracker.speed (recordOr s.lam).latency = 0 := by simp [lead, still]
  rw [toGo_lamPos, none]
  decide

theorem isDue_of_nonpos {r : Int} (h : r ≤ 0) (speed horizon : Nat) : isDue r speed horizon = true := by
  rw [isDue, decide_eq_true_iff]
  have nonneg : (0 : Int) ≤ ((speed * horizon : Nat) : Int) := Int.natCast_nonneg _
  omega

/-! ## The corrective RELEASE (R134, R137) -/

/-- A nip that nothing in the zone list wants closed is to be released: it is commanded CLOSED, or a release is requested. -/
def WantsRelease (n : Nip) : Prop :=
  n.commanded = .closed ∧ n.zones = [] ∨ n.commanded = .unknown ∧ n.releaseRequest = true

/-- The corrective RELEASE at a laminator position. -/
def releaseAt (lam : Word32) : Offer := { kind := .release, target := lam, wanted := lam, corrective := true }

theorem offerOf_release {n : Nip} (wants : n.commanded = .closed ∧ n.plan = [] ∨ n.commanded = .unknown ∧ n.releaseRequest = true)
    (lam : Word32) : offerOf n lam = some (releaseAt lam) := by
  rcases wants with ⟨closed, empty⟩ | ⟨unknown, requested⟩
  · simp only [offerOf, closed, offerClosed, empty, stretchAt, List.find?_nil]
    rfl
  · simp only [offerOf, unknown, requested, if_true]
    rfl

theorem recompute_release {s : State} (wants : WantsRelease s.nip) : (recompute s).nip.offer = some (releaseAt (lamPos s)) := by
  obtain ⟨begun, planned⟩ := recompute_nip s
  rw [planned]
  refine offerOf_release ?_ _
  rcases wants with ⟨closed, empty⟩ | requested
  · exact .inl ⟨closed, by dsimp only; rw [empty, planOf_nil]⟩
  · exact .inr requested

/-- What the issue of the corrective RELEASE leaves (R135, R137). -/
structure NipReleased (s t : State) : Prop where
  commanded : t.nip.commanded = .opened
  request : t.nip.releaseRequest = false
  busy : t.lam.mode = .busy
  issued : ∃ i, t.lam.outstanding = some i ∧ i.act.kind = .release ∧ i.act.target = lamPos s
  last : ∃ id, t.nip.last = some { kind := .release, target := lamPos s, id := id, outcome := .pending }
  cleared : s.nip.zones = [] → t.nip.plan = [] ∧ t.nip.offer = none

@[simp] theorem flagOwners_lam (d : BitVec 12) (es : List ZoneEntry) (s : State) : (flagOwners d es s).lam = s.lam := by
  induction es generalizing s with
  | nil => rfl
  | cons e es ih => exact (ih _).trans (flagSeg_lam _ _ _ s)

theorem recompute_lam (s : State) : (recompute s).lam = s.lam := by
  have keep : ∀ (c : Prop) [Decidable c] (x y : State), x.lam = s.lam → y.lam = s.lam → (if c then x else y).lam = s.lam := by
    intro c _ x y hx hy
    split
    · exact hx
    · exact hy
  unfold recompute
  exact keep _ _ _ (by rw [raise_lam, flagOwners_lam]) rfl

theorem recompute_unissued (s : State) : (recompute s).lastId = s.lastId ∧ (recompute s).south = s.south :=
  (nipWork_recompute s).idle (by rw [recompute_lam])

theorem nipChange_releases {s : State} (wants : WantsRelease s.nip) (ready : s.lam.mode = .ready)
    (near : toGo .lam (lamPos s) s ≤ 0) : NipReleased s (nipChange s) := by
  have inside := inside_recompute s
  have offered := recompute_release wants
  have readyNow : (recompute s).lam.mode = .ready := by rw [recompute_lam]; exact ready
  have due : lamReady (releaseAt (lamPos s)) (recompute s) = true := by
    rw [lamReady_iff]
    refine ⟨readyNow, isDue_of_nonpos ?_ _ _⟩
    rw [inside.toGo]
    exact near
  have issued : nipChange s = issueLam (releaseAt (lamPos s)) (recompute s) := by
    rw [nipChange, lamTest_some offered, if_pos due]
  obtain ⟨begun, nip⟩ := issueLam_nip (releaseAt (lamPos s)) (recompute s)
  have lam := issueLam_lam (releaseAt (lamPos s)) (recompute s)
  rw [issued]
  constructor
  case commanded => rw [nip]; rfl
  case request => rw [nip]; rfl
  case busy => rw [lam]
  case issued => exact ⟨_, by rw [lam], rfl, rfl⟩
  case last => exact ⟨_, by rw [nip]; rfl⟩
  case cleared =>
    intro empty
    have plan : planNow (recompute s) = [] := by
      rw [planNow, (nipWork_recompute s).zones, empty, planOf_nil]
    rw [nip]
    dsimp only [nipAfterIssue]
    rw [plan]
    exact ⟨rfl, rfl⟩

/-- Where LAM is not READY, a recomputation issues nothing: the nip stays as commanded, its offer made afresh. -/
theorem nipChange_waits {s : State} (h : s.lam.mode ≠ .ready) : nipChange s = recompute s := by
  rw [nipChange]
  cases o : (recompute s).nip.offer with
  | none => exact lamTest_none o
  | some x =>
    rw [lamTest_some o, if_neg]
    rw [lamReady_iff, recompute_lam]
    exact fun k => h k.1

end Sys2Proof.Machine
end

section
/-! PROOFS. The Position Tracker: samples, estimates and the loss of position (R23 to R39). -/

namespace Sys2Proof.Machine

/-! ## Attention flags and reports at the end of an event -/

theorem attnHas_or_bit (f : BitVec 14) {p : Nat} (low : 1 ≤ p) (high : p ≤ 14) : attnHas (f ||| attnBit p) p = true := by
  have lt : p - 1 < 14 := by omega
  simp [attnHas, attnBit, lt]

theorem attnHas_mono {f g : BitVec 14} (h : f ||| g = g) {p : Nat} (set : attnHas f p = true) : attnHas g p = true := by
  rw [attnHas] at *
  rw [← h, BitVec.getLsbD_or, set, Bool.true_or]

theorem attnHas_raise {p : Nat} (low : 1 ≤ p) (high : p ≤ 14) (s : State) : attnHas (raise p s).mgmt.flags p = true :=
  attnHas_or_bit _ low high

theorem northStart_own_length (p : NorthPort) : p.own.length ≤ p.start.own.length + 1 := by
  unfold NorthPort.start
  split
  · unfold NorthPort.choose
    split
    · next h _ => simp [h]
    · next h _ =>
      split
      · simp [h]
      · simp
    · simp
    · simp
  · omega

theorem ownRoom_placeOwn_le (f : Frame) (s : State) : ownRoom (placeOwn f s) ≤ ownRoom s := by
  have len := northStart_own_length { s.north with own := s.north.own ++ [f] }
  have up : (placeOwn f s).north.up = s.north.up := (northStart_spec _).1
  simp only [ownRoom, up]
  split
  · simp only [List.length_append, List.length_cons, List.length_nil] at len
    simp only [placeOwn]
    omega
  · exact Nat.le_refl 0

/-- With at most one place free, the end of an event moves no report (R208). -/
theorem finish_reports {u : State} (full : ownRoom u < 2) : (finish u).mgmt.reports = u.mgmt.reports := by
  have marked : ownRoom (dropMarker u) = ownRoom u := ownRoom_congr (dropMarker_north u)
  have attn : ownRoom (placeAttn (dropMarker u)) ≤ ownRoom u ∧
      (placeAttn (dropMarker u)).mgmt.reports = u.mgmt.reports := by
    have kept : (dropMarker u).mgmt.reports = u.mgmt.reports := by unfold dropMarker; split <;> rfl
    unfold placeAttn
    split
    · exact ⟨(ownRoom_placeOwn_le _ _).trans (marked ▸ Nat.le_refl _), kept⟩
    · exact ⟨marked ▸ Nat.le_refl _, kept⟩
  have still : ∀ n, (moveReports n (placeAttn (dropMarker u))).mgmt.reports = u.mgmt.reports := by
    intro n
    cases n with
    | zero => exact attn.2
    | succ n =>
      unfold moveReports
      rw [if_neg (by omega)]
      exact attn.2
  exact still _

/-! ## Loss of position (R35) -/

/-- The tracker on entering LOST (R35). -/
def lostTracker (x : Tracker) : Tracker := { x with mode := .lost, speed := 0, sampleTimer := none }

/-- Entering LOST, before TRACK_LOST is set: both maps spoiled and, where an entry left, the plan recomputed. -/
def lostMaps (s : State) : State :=
  nipChangeIf (decide ((spoilBoth .lost { s with tracker := lostTracker s.tracker }).nip.zones ≠ s.nip.zones))
    (spoilBoth .lost { s with tracker := lostTracker s.tracker })

theorem enterLost_eq (s : State) : enterLost s = raise prioTrackLost (lostMaps s) := rfl

theorem inside_lostMaps (s : State) : Inside { s with tracker := lostTracker s.tracker } (lostMaps s) :=
  (inside_spoilBoth .lost _).trans (inside_nipChangeIf _ _)

theorem nipWork_lostMaps (s : State) : NipWork (spoilBoth .lost { s with tracker := lostTracker s.tracker }) (lostMaps s) :=
  nipWork_nipChangeIf _ _

/-- Entering LOST with a tracker that leaves P where it was. -/
theorem positionLost_enterLost (s : State) {x : Tracker} (frozen : x.p = s.tracker.p) :
    PositionLost s (finish (enterLost { s with tracker := x })) := by
  have ends := endOfEvent_finish (enterLost { s with tracker := x })
  have inside := (inside_lostMaps { s with tracker := x }).trans (inside_raise prioTrackLost _)
  have work := (nipWork_lostMaps { s with tracker := x }).trans (nipWork_raise prioTrackLost _)
  have tracker : (finish (enterLost { s with tracker := x })).tracker = lostTracker x := ends.tracker.trans inside.tracker
  have zones : (lostMaps { s with tracker := x }).nip.zones =
      s.nip.zones.filter (fun e => !inMap (s.lane e.lane) e.seg) := by
    rw [(nipWork_lostMaps _).zones, spoilBoth_nip]
    exact List.filter_congr fun e _ => by cases e.lane <;> rfl
  constructor
  case mode => rw [tracker]; rfl
  case p => rw [tracker]; exact frozen
  case speed => rw [tracker]; rfl
  case timer => rw [tracker]; rfl
  case lanes =>
    intro l
    refine (((laneSpoiled_spoilBoth l .lost _).nipWork work).endOfEvent ends).earlier ?_ fun st _ => ?_
    · cases l <;> rfl
    · cases st <;> rfl
  case flag =>
    rw [ends.flags]
    exact attnHas_raise (by decide) (by decide) _
  case setup => exact ends.setup.trans inside.setup
  case web => exact ends.web.trans (work.web.trans (spoilBoth_web _ _))
  case zones => rw [ends.nip]; exact zones
  case reports =>
    intro room full each
    have room1 : ownRoom (enterLost { s with tracker := x }) = ownRoom s := ownRoom_congr inside.north
    rw [finish_reports (room1.trans_lt full), enterLost_eq, raise_reports, (nipWork_lostMaps _).reports]
    exact spoilBoth_reports .lost _ room fun
      | .a => each .a
      | .b => each .b
  case release =>
    intro some owned closed ready
    have spoiled : (spoilBoth .lost { s with tracker := lostTracker x }).nip = { s.nip with zones := [] } := by
      rw [spoilBoth_nip]
      refine congrArg (fun z => { s.nip with zones := z }) (List.filter_eq_nil_iff.mpr fun e he => ?_)
      have := owned e he
      cases h : e.lane <;> simp_all
    have replanned : lostMaps { s with tracker := x } = nipChange (spoilBoth .lost { s with tracker := lostTracker x }) := by
      have changed : (spoilBoth .lost { s with tracker := lostTracker x }).nip.zones ≠ s.nip.zones := by
        rw [spoiled]
        exact fun h => some h.symm
      exact if_pos (decide_eq_true changed)
    have inside1 := inside_spoilBoth .lost { s with tracker := lostTracker x }
    have released := nipChange_releases (s := spoilBoth .lost { s with tracker := lostTracker x })
      (by rw [spoiled]; exact .inl ⟨closed, rfl⟩) (by rw [spoilBoth_lam]; exact ready)
      (toGo_lamPos_still (by rw [inside1.tracker]; rfl))
    have target : lamPos (spoilBoth .lost { s with tracker := lostTracker x }) = s.tracker.p - pu (recordOr s.lam).dist := by
      rw [inside1.lamPos, ← frozen]
      rfl
    have emptied := released.cleared (by rw [spoiled])
    obtain ⟨id, last⟩ := released.last
    have nip : (finish (enterLost { s with tracker := x })).nip =
        (nipChange (spoilBoth .lost { s with tracker := lostTracker x })).nip := by
      rw [ends.nip, enterLost_eq, raise_nip, replanned]
    have lam : (finish (enterLost { s with tracker := x })).lam =
        (nipChange (spoilBoth .lost { s with tracker := lostTracker x })).lam := by
      rw [← State.station_lam, ends.station, State.station_lam, enterLost_eq, raise_lam, replanned]
    rw [nip, lam]
    exact ⟨released.commanded, released.busy, emptied.1, emptied.2, id, by rw [last, target]⟩

theorem enterLost_tracker (s : State) : (enterLost s).tracker = lostTracker s.tracker :=
  ((inside_lostMaps s).trans (inside_raise prioTrackLost _)).tracker

/-! ## Samples (R23 to R29, R33, R34) -/

section Samples

variable {c stamp : Word32} {r : Reference} {s : State}

theorem exec_posSample (c stamp : Word32) (s : State) : exec (.posSample c stamp) s = .next (finish (takeSample c stamp s)) := rfl

/-- The tracker has a position and a reference: TRACKING, ESTIMATED or HOLDING (R21). -/
def Positioned (k : Tracker) : Prop := k.mode = .tracking ∨ k.mode = .estimated ∨ k.mode = .holding

theorem takeSample_lost (lost : s.tracker.mode = .lost) : takeSample c stamp s = s := by simp only [takeSample, lost]

theorem takeSample_noDatum (none : s.tracker.mode = .noDatum) :
    takeSample c stamp s = { s with tracker := setDatum c stamp s.setup.ts s.tracker } := by simp only [takeSample, none]

theorem takeSample_positioned (positioned : Positioned s.tracker) (ref : s.tracker.reference = some r) :
    takeSample c stamp s = takeDelta c stamp r s := by
  rcases positioned with h | h | h <;> simp only [takeSample, h, ref]

theorem takeDelta_jump (far : 65535 < (sdiff c r.count).natAbs) : takeDelta c stamp r s = rejectJump s := by
  simp only [takeDelta, maxStep, far, if_true]

theorem takeDelta_reverse (near : (sdiff c r.count).natAbs ≤ 65535) (back : sdiff c r.count < 0)
    (beyond : s.setup.revLimit < s.tracker.debt + (sdiff c r.count).natAbs) :
    takeDelta c stamp r s = enterLost { s with tracker := { s.tracker with debt := 0 } } := by
  simp only [takeDelta, maxStep]
  rw [if_neg (by omega), if_pos ⟨by rw [debtAfter, if_pos back]; exact beyond, back⟩]

theorem takeDelta_accepted (near : (sdiff c r.count).natAbs ≤ 65535)
    (within : sdiff c r.count < 0 → s.tracker.debt + (sdiff c r.count).natAbs ≤ s.setup.revLimit) :
    takeDelta c stamp r s = ownRule { s with tracker := settleSample c stamp r s.setup.k s.tracker } := by
  simp only [takeDelta, maxStep]
  rw [if_neg (by omega), if_neg]
  rintro ⟨beyond, back⟩
  rw [debtAfter, if_pos back] at beyond
  have := within back
  omega

theorem speedAfter_eq (v : Nat) (d : Int) (k dt : Nat) : speedAfter v d k dt =
    if dt < 100 ∨ 50000 < dt then v else min 256000 ((3 * v + d.toNat * k * 1000 / (256 * dt)) / 4) := by
  unfold speedAfter
  split
  · rfl
  · simp [clampNat, instantSpeed]

theorem ownRule_tracking (h : s.tracker.mode = .tracking) : ownRule s = ruleTracking s := by simp only [ownRule, h]

theorem ownRule_estimated (h : s.tracker.mode = .estimated) : ownRule s = ruleEstimated s := by simp only [ownRule, h]

theorem ownRule_holding (h : s.tracker.mode = .holding) : ownRule s = ruleHolding s := by simp only [ownRule, h]

theorem ruleTracking_tracker (s : State) : (ruleTracking s).tracker =
    { s.tracker with p := s.tracker.pEnc, sampleTimer := some s.setup.ts } := by rw [ruleTracking, movePos_tracker]

/-- The tracker with its estimate at an end (R33). -/
def endEstimate (x : Tracker) : Tracker := { x with estAdvance := 0, estFrac := 0, estTime := 0 }

theorem ruleEstimated_ahead (ahead : 0 ≤ sdiff s.tracker.pEnc s.tracker.p)
    (within : sdiff s.tracker.pEnc s.tracker.p ≤ s.setup.estLimit) : (ruleEstimated s).tracker =
      { endEstimate s.tracker with mode := .tracking, p := s.tracker.pEnc, sampleTimer := some s.setup.ts } := by
  rw [ruleEstimated, if_pos ⟨ahead, within⟩, movePos_tracker]
  rfl

theorem ruleEstimated_behind (behind : sdiff s.tracker.pEnc s.tracker.p < 0)
    (within : -sdiff s.tracker.pEnc s.tracker.p ≤ s.setup.estLimit) : (ruleEstimated s).tracker =
      { endEstimate s.tracker with mode := .holding, sampleTimer := some s.setup.ts } := by
  rw [ruleEstimated, if_neg fun h => absurd h.1 (by exact not_le.mpr behind), if_pos ⟨behind, within⟩]
  rfl

theorem ruleEstimated_far (far : (s.setup.estLimit : Int) < (sdiff s.tracker.pEnc s.tracker.p).natAbs) :
    ruleEstimated s = enterLost { s with tracker := endEstimate s.tracker } := by
  simp only [ruleEstimated]
  rw [if_neg (by omega), if_neg (by omega)]
  rfl

theorem ruleHolding_ahead (ahead : 0 ≤ sdiff s.tracker.pEnc s.tracker.p) : (ruleHolding s).tracker =
    { s.tracker with mode := .tracking, p := s.tracker.pEnc, sampleTimer := some s.setup.ts } := by
  rw [ruleHolding, if_pos ahead, movePos_tracker]

theorem ruleHolding_behind (behind : sdiff s.tracker.pEnc s.tracker.p < 0)
    (within : -sdiff s.tracker.pEnc s.tracker.p ≤ s.setup.estLimit) :
    ruleHolding s = { s with tracker := { s.tracker with sampleTimer := some s.setup.ts } } := by
  simp only [ruleHolding]
  rw [if_neg (by omega), if_pos within]

theorem ruleHolding_far (behind : sdiff s.tracker.pEnc s.tracker.p < 0)
    (far : (s.setup.estLimit : Int) < -sdiff s.tracker.pEnc s.tracker.p) : ruleHolding s = enterLost s := by
  simp only [ruleHolding]
  rw [if_neg (by omega), if_neg (by omega)]

end Samples

/-- A sample the tracker accepts: there is a reference, the delta is no jump and keeps the debt within REV_LIMIT (R23 to R25). -/
structure Accepted (c : Word32) (r : Reference) (s : State) : Prop where
  ref : s.tracker.reference = some r
  near : (sdiff c r.count).natAbs ≤ 65535
  within : sdiff c r.count < 0 → s.tracker.debt + (sdiff c r.count).natAbs ≤ s.setup.revLimit

/-- The state with an accepted sample settled, before the rule of the tracker's own state. -/
def settled (c stamp : Word32) (r : Reference) (s : State) : State :=
  { s with tracker := settleSample c stamp r s.setup.k s.tracker }

section Accepted

variable {c : Word32} {r : Reference} {s : State}

theorem Accepted.taken (h : Accepted c r s) (stamp : Word32) (positioned : Positioned s.tracker) :
    takeSample c stamp s = ownRule (settled c stamp r s) :=
  (takeSample_positioned positioned h.ref).trans (takeDelta_accepted h.near h.within)

theorem Accepted.tracking (h : Accepted c r s) (stamp : Word32) (mode : s.tracker.mode = .tracking) :
    takeSample c stamp s = ruleTracking (settled c stamp r s) := (h.taken stamp (.inl mode)).trans (ownRule_tracking mode)

theorem Accepted.estimated (h : Accepted c r s) (stamp : Word32) (mode : s.tracker.mode = .estimated) :
    takeSample c stamp s = ruleEstimated (settled c stamp r s) :=
  (h.taken stamp (.inr (.inl mode))).trans (ownRule_estimated mode)

theorem Accepted.holding (h : Accepted c r s) (stamp : Word32) (mode : s.tracker.mode = .holding) :
    takeSample c stamp s = ruleHolding (settled c stamp r s) := (h.taken stamp (.inr (.inr mode))).trans (ownRule_holding mode)

theorem Accepted.estimated_ahead (h : Accepted c r s) (stamp : Word32) (mode : s.tracker.mode = .estimated)
    (ahead : 0 ≤ sdiff (settled c stamp r s).tracker.pEnc s.tracker.p)
    (within : sdiff (settled c stamp r s).tracker.pEnc s.tracker.p ≤ s.setup.estLimit) :
    (takeSample c stamp s).tracker =
      { endEstimate (settled c stamp r s).tracker with
        mode := .tracking, p := (settled c stamp r s).tracker.pEnc, sampleTimer := some s.setup.ts } := by
  rw [h.estimated stamp mode]
  exact ruleEstimated_ahead (s := settled c stamp r s) ahead within

theorem Accepted.estimated_behind (h : Accepted c r s) (stamp : Word32) (mode : s.tracker.mode = .estimated)
    (behind : sdiff (settled c stamp r s).tracker.pEnc s.tracker.p < 0)
    (within : -sdiff (settled c stamp r s).tracker.pEnc s.tracker.p ≤ s.setup.estLimit) :
    (takeSample c stamp s).tracker =
      { endEstimate (settled c stamp r s).tracker with mode := .holding, sampleTimer := some s.setup.ts } := by
  rw [h.estimated stamp mode]
  exact ruleEstimated_behind (s := settled c stamp r s) behind within

theorem Accepted.holding_ahead (h : Accepted c r s) (stamp : Word32) (mode : s.tracker.mode = .holding)
    (ahead : 0 ≤ sdiff (settled c stamp r s).tracker.pEnc s.tracker.p) :
    (takeSample c stamp s).tracker =
      { (settled c stamp r s).tracker with
        mode := .tracking, p := (settled c stamp r s).tracker.pEnc, sampleTimer := some s.setup.ts } := by
  rw [h.holding stamp mode]
  exact ruleHolding_ahead (s := settled c stamp r s) ahead

theorem Accepted.holding_behind (h : Accepted c r s) (stamp : Word32) (mode : s.tracker.mode = .holding)
    (behind : sdiff (settled c stamp r s).tracker.pEnc s.tracker.p < 0)
    (within : -sdiff (settled c stamp r s).tracker.pEnc s.tracker.p ≤ s.setup.estLimit) :
    (takeSample c stamp s).tracker = { (settled c stamp r s).tracker with sampleTimer := some s.setup.ts } := by
  rw [h.holding stamp mode, ruleHolding_behind (s := settled c stamp r s) behind within]
  rfl

theorem Accepted.lost_estimated (h : Accepted c r s) (stamp : Word32) (mode : s.tracker.mode = .estimated)
    (far : (s.setup.estLimit : Int) < (sdiff (settled c stamp r s).tracker.pEnc s.tracker.p).natAbs) :
    PositionLost s (finish (takeSample c stamp s)) := by
  rw [h.estimated stamp mode, ruleEstimated_far far]
  exact positionLost_enterLost s rfl

theorem Accepted.lost_holding (h : Accepted c r s) (stamp : Word32) (mode : s.tracker.mode = .holding)
    (behind : sdiff (settled c stamp r s).tracker.pEnc s.tracker.p < 0)
    (far : (s.setup.estLimit : Int) < -sdiff (settled c stamp r s).tracker.pEnc s.tracker.p) :
    PositionLost s (finish (takeSample c stamp s)) := by
  rw [h.holding stamp mode, ruleHolding_far behind far]
  exact positionLost_enterLost s rfl

end Accepted

theorem settleSample_eq (c stamp : Word32) (r : Reference) (k : Nat) (x : Tracker) : settleSample c stamp r k x =
    { x with
      debt := if sdiff c r.count < 0 then x.debt + (sdiff c r.count).natAbs
        else x.debt - min (sdiff c r.count).toNat x.debt
      pEnc := x.pEnc + pu ((x.frac + ((sdiff c r.count).toNat - min (sdiff c r.count).toNat x.debt) * k) / 65536)
      frac := (x.frac + ((sdiff c r.count).toNat - min (sdiff c r.count).toNat x.debt) * k) % 65536
      speed := if (stamp - r.stamp).toNat < 100 ∨ 50000 < (stamp - r.stamp).toNat then x.speed
        else min 256000 ((3 * x.speed + (sdiff c r.count).toNat * k * 1000 / (256 * (stamp - r.stamp).toNat)) / 4)
      reference := some { count := c, stamp := stamp }
      jumpRun := 0 } := by
  simp only [settleSample, speedAfter_eq, accumulated, forwardCount, debtAfter]

theorem finish_tracker (s : State) : (finish s).tracker = s.tracker := (endOfEvent_finish s).tracker

/-- Settles O12: the sample is accepted, and the state's own rule moves P to P_enc and restarts the timer. -/
theorem sampleInTracking : Obligations.SampleInTracking := by
  intro s c stamp r tracking ref near within
  have accepted : Accepted c r s := ⟨ref, near, within⟩
  refine ⟨_, exec_posSample c stamp s, ?_⟩
  rw [finish_tracker, accepted.tracking stamp tracking, ruleTracking_tracker]
  simp only [settled, settleSample_eq]
  rfl

/-- Settles O14: by the state of the tracker, and by where P_enc lies from P. -/
theorem sampleOutsideTracking : Obligations.SampleOutsideTracking := by
  refine ⟨fun s c stamp => ⟨_, exec_posSample c stamp s, fun none => ?_, fun lost => ?_⟩,
    fun s c stamp r ref near within => ⟨_, exec_posSample c stamp s, ?_⟩⟩
  · rw [takeSample_noDatum none]
    exact endOfEvent_finish _
  · rw [takeSample_lost lost]
    exact endOfEvent_finish _
  · have accepted : Accepted c r s := ⟨ref, near, within⟩
    refine ⟨settleSample_eq c stamp r _ _, fun estimated => ⟨?_, ?_, ?_⟩, fun holding => ⟨?_, ?_, ?_⟩⟩
    · intro ahead within
      rw [finish_tracker]
      exact accepted.estimated_ahead stamp estimated ahead within
    · intro behind within
      rw [finish_tracker]
      exact accepted.estimated_behind stamp estimated behind within
    · exact accepted.lost_estimated stamp estimated
    · intro ahead
      rw [finish_tracker]
      exact accepted.holding_ahead stamp holding ahead
    · intro behind within
      rw [finish_tracker]
      exact accepted.holding_behind stamp holding behind within
    · exact accepted.lost_holding stamp holding

/-! ## Timers (R30, R31, R39) -/

section Timers

variable {s : State}

theorem exec_estimateTick (s : State) : exec .estimateTick s = .next (finish (estimateTick s)) := rfl

theorem exec_sampleTimerExpiry (s : State) :
    exec .sampleTimerExpiry s = .next (finish (takeIf (sampleDue s) sampleExpiry s)) := rfl

theorem exec_estimateTimeExpiry (s : State) :
    exec .estimateTimeExpiry s = .next (finish (takeIf (estimateDue s) estimateExpiry s)) := rfl

theorem takeIf_sampleDue (h : s.tracker.sampleTimer = some 0) : takeIf (sampleDue s) sampleExpiry s = sampleExpiry s :=
  if_pos (decide_eq_true h)

theorem takeIf_sampleNotDue (h : s.tracker.sampleTimer ≠ some 0) : takeIf (sampleDue s) sampleExpiry s = s :=
  if_neg (by simp [sampleDue, h])

theorem sampleExpiry_running {n : Nat} (h : s.tracker.sampleTimer = some n) : sampleExpiry s =
    raise prioTrackEstimated { s with tracker := { endEstimate s.tracker with mode := .estimated, sampleTimer := none } } := by
  simp only [sampleExpiry, h]
  rfl

theorem estimateTick_out (h : s.tracker.mode ≠ .estimated) : estimateTick s = s := if_neg h

theorem estimateTick_lost (h : s.tracker.mode = .estimated)
    (limit : s.setup.estLimit < s.tracker.estAdvance + (s.tracker.estFrac + s.tracker.speed) / 256 ∨ 999 ≤ s.tracker.estTime) :
    estimateTick s = enterLost { s with tracker := tickTracker (s.tracker.estTime + 1) s.tracker } := by
  rw [estimateTick, if_pos h]
  rcases limit with beyond | late
  · exact if_pos beyond
  · simp only []
    split
    · rfl
    · exact if_pos (by omega)

theorem estimateTick_within (h : s.tracker.mode = .estimated)
    (near : s.tracker.estAdvance + (s.tracker.estFrac + s.tracker.speed) / 256 ≤ s.setup.estLimit)
    (early : s.tracker.estTime < 999) : (estimateTick s).tracker =
      { tickTracker (s.tracker.estTime + 1) s.tracker with
        p := s.tracker.p + pu (tickAdvance s.tracker), estAdvance := s.tracker.estAdvance + tickAdvance s.tracker } := by
  have near' : ¬ s.setup.estLimit < s.tracker.estAdvance + tickAdvance s.tracker := not_lt.mpr near
  simp only [estimateTick]
  rw [if_pos h, if_neg near', if_neg (by omega), movePos_tracker]

theorem estimateExpiry_lost (h : s.tracker.mode = .estimated) (late : 999 ≤ s.tracker.estTime) :
    takeIf (estimateDue s) estimateExpiry s = enterLost { s with tracker := tickTracker 1000 s.tracker } := by
  have due : estimateDue s = true := decide_eq_true late
  rw [takeIf, if_pos due, estimateExpiry, if_pos h]

theorem estimateExpiry_idle (h : s.tracker.mode ≠ .estimated ∨ s.tracker.estTime < 999) :
    takeIf (estimateDue s) estimateExpiry s = s := by
  rw [takeIf]
  split
  · next due => exact if_neg (h.resolve_right (not_lt.mpr (of_decide_eq_true due)))
  · rfl

end Timers

theorem rejectJump_counted {s : State} (few : s.tracker.jumpRun < 2) : rejectJump s =
    { s with tracker := { s.tracker with jumps := bump s.tracker.jumps, jumpRun := s.tracker.jumpRun + 1 } } :=
  if_neg (by omega)

theorem rejectJump_lost {s : State} (many : 2 ≤ s.tracker.jumpRun) : rejectJump s =
    enterLost { s with tracker := { s.tracker with jumps := bump s.tracker.jumps, jumpRun := s.tracker.jumpRun + 1 } } :=
  if_pos (by omega)

/-- Settles O13: each of these ways enters LOST with a tracker that has kept P. -/
theorem positionIsLost : Obligations.PositionIsLost := by
  refine fun s => ⟨fun c stamp r positioned ref => ⟨_, exec_posSample c stamp s, ?_⟩, fun estimated => ⟨?_, ?_⟩⟩
  · rw [takeSample_positioned positioned ref]
    refine ⟨fun far few => ?_, fun far many => ?_, fun near back beyond => ?_⟩
    · rw [takeDelta_jump far, rejectJump_counted few]
      exact endOfEvent_finish _
    · rw [takeDelta_jump far, rejectJump_lost many, finish_tracker, enterLost_tracker]
      exact ⟨positionLost_enterLost s rfl, rfl⟩
    · rw [takeDelta_reverse near back beyond, finish_tracker, enterLost_tracker]
      exact ⟨positionLost_enterLost s rfl, rfl⟩
  · intro limit
    refine ⟨_, exec_estimateTick s, ?_⟩
    rw [estimateTick_lost estimated limit, finish_tracker, enterLost_tracker]
    exact ⟨positionLost_enterLost s rfl, rfl⟩
  · intro late
    refine ⟨_, exec_estimateTimeExpiry s, ?_⟩
    rw [estimateExpiry_lost estimated late]
    exact positionLost_enterLost s rfl

/-! ## A sample and the expiry of its timer, in either order (R39) -/

/-- The state after the expiry of the sample timer, as an event of its own. -/
def expired (s : State) : State := finish (sampleExpiry s)

theorem expired_tracker {s : State} {n : Nat} (running : s.tracker.sampleTimer = some n) :
    (expired s).tracker = { endEstimate s.tracker with mode := .estimated, sampleTimer := none } := by
  rw [expired, finish_tracker, sampleExpiry_running running, raise_tracker]

theorem expired_setup {s : State} {n : Nat} (running : s.tracker.sampleTimer = some n) : (expired s).setup = s.setup := by
  rw [expired, (endOfEvent_finish _).setup, sampleExpiry_running running, raise_setup]

theorem expired_flag {s : State} {n : Nat} (running : s.tracker.sampleTimer = some n) :
    attnHas (expired s).mgmt.flags prioTrackEstimated = true := by
  rw [expired, (endOfEvent_finish _).flags, sampleExpiry_running running]
  exact attnHas_raise (by decide) (by decide) _

theorem Accepted.expired {c : Word32} {r : Reference} {s : State} {n : Nat} (h : Accepted c r s)
    (running : s.tracker.sampleTimer = some n) : Accepted c r (Machine.expired s) := by
  constructor
  · rw [expired_tracker running]
    exact h.ref
  · exact h.near
  · rw [expired_tracker running, expired_setup running]
    exact h.within

/-- An expiry taken after a sample that has restarted or stopped the timer begins no estimate. -/
theorem expiry_after {a : State} (restarted : a.tracker.sampleTimer ≠ some 0) :
    (finish (takeIf (sampleDue a) sampleExpiry a)).tracker = a.tracker := by
  rw [finish_tracker, takeIf_sampleNotDue restarted]

theorem expired_settled {s : State} {n : Nat} (running : s.tracker.sampleTimer = some n) (c stamp : Word32) (r : Reference) :
    (settled c stamp r (expired s)).tracker =
      { endEstimate (settled c stamp r s).tracker with mode := .estimated, sampleTimer := none } := by
  simp only [settled, expired_tracker running, expired_setup running]
  rfl

theorem Accepted.ahead {c : Word32} {r : Reference} {s : State} (h : Accepted c r s) (stamp : Word32)
    (mode : s.tracker.mode = .tracking ∨ s.tracker.mode = .holding)
    (ahead : 0 ≤ sdiff (settled c stamp r s).tracker.pEnc s.tracker.p) :
    (finish (takeSample c stamp s)).tracker =
      { (settled c stamp r s).tracker with
        mode := .tracking, p := (settled c stamp r s).tracker.pEnc, sampleTimer := some s.setup.ts } := by
  rw [finish_tracker]
  rcases mode with tracking | holding
  · rw [h.tracking stamp tracking, ruleTracking_tracker]
    have same : (settled c stamp r s).tracker.mode = .tracking := tracking
    rw [← same]
    rfl
  · exact h.holding_ahead stamp holding ahead

theorem Accepted.behind {c : Word32} {r : Reference} {s : State} (h : Accepted c r s) (stamp : Word32)
    (mode : s.tracker.mode = .holding) (behind : sdiff (settled c stamp r s).tracker.pEnc s.tracker.p < 0)
    (within : -sdiff (settled c stamp r s).tracker.pEnc s.tracker.p ≤ s.setup.estLimit) :
    (finish (takeSample c stamp s)).tracker =
      { (settled c stamp r s).tracker with mode := .holding, sampleTimer := some s.setup.ts } := by
  rw [finish_tracker, h.holding_behind stamp mode behind within]
  have same : (settled c stamp r s).tracker.mode = .holding := mode
  rw [← same]

section Expired

variable {c : Word32} {r : Reference} {s : State} {n : Nat}

/-- A sample after the expiry resynchronises where P_enc is ahead of P within EST_LIMIT (R33, R39). -/
theorem Accepted.expired_ahead (h : Accepted c r s) (running : s.tracker.sampleTimer = some n) (stamp : Word32)
    (ahead : 0 ≤ sdiff (settled c stamp r s).tracker.pEnc s.tracker.p)
    (within : sdiff (settled c stamp r s).tracker.pEnc s.tracker.p ≤ s.setup.estLimit) :
    (finish (takeSample c stamp (Machine.expired s))).tracker =
      { endEstimate (settled c stamp r s).tracker with
        mode := .tracking, p := (settled c stamp r s).tracker.pEnc, sampleTimer := some s.setup.ts } := by
  have mode : (Machine.expired s).tracker.mode = .estimated := by rw [expired_tracker running]
  have resumed := (h.expired running).estimated_ahead stamp mode
  rw [expired_settled running, expired_tracker running, expired_setup running] at resumed
  rw [finish_tracker]
  exact resumed ahead within

theorem Accepted.expired_behind (h : Accepted c r s) (running : s.tracker.sampleTimer = some n) (stamp : Word32)
    (behind : sdiff (settled c stamp r s).tracker.pEnc s.tracker.p < 0)
    (within : -sdiff (settled c stamp r s).tracker.pEnc s.tracker.p ≤ s.setup.estLimit) :
    (finish (takeSample c stamp (Machine.expired s))).tracker =
      { endEstimate (settled c stamp r s).tracker with mode := .holding, sampleTimer := some s.setup.ts } := by
  have mode : (Machine.expired s).tracker.mode = .estimated := by rw [expired_tracker running]
  have held := (h.expired running).estimated_behind stamp mode
  rw [expired_settled running, expired_tracker running, expired_setup running] at held
  rw [finish_tracker]
  exact held behind within

/-- A sample after the expiry enters LOST where P_enc lies more than EST_LIMIT from P (R33). -/
theorem Accepted.expired_far (h : Accepted c r s) (running : s.tracker.sampleTimer = some n) (stamp : Word32)
    (far : (s.setup.estLimit : Int) < (sdiff (settled c stamp r s).tracker.pEnc s.tracker.p).natAbs) :
    PositionLost (Machine.expired s) (finish (takeSample c stamp (Machine.expired s))) := by
  have mode : (Machine.expired s).tracker.mode = .estimated := by rw [expired_tracker running]
  have lost := (h.expired running).lost_estimated stamp mode
  rw [expired_settled running, expired_tracker running, expired_setup running] at lost
  exact lost far

end Expired

/-- Settles O15: each timer by whether it is due; the two orders of a sample and an expiry by where P_enc lies from P. -/
theorem trackerTimersRun : Obligations.TrackerTimersRun := by
  intro s
  refine ⟨fun due => ⟨_, exec_sampleTimerExpiry s, ?_⟩, fun early => ⟨_, exec_sampleTimerExpiry s, ?_⟩,
    fun c stamp r ref near within due ts => ?_, fun out => ⟨_, exec_estimateTick s, ?_⟩,
    fun estimated near early => ⟨_, exec_estimateTick s, ?_⟩,
    fun estimated late => ⟨_, exec_estimateTimeExpiry s, ?_⟩, fun not => ⟨_, exec_estimateTimeExpiry s, ?_⟩⟩
  · rw [takeIf_sampleDue due, sampleExpiry_running due]
    exact endOfEvent_finish _
  · rw [takeIf_sampleNotDue early]
    exact endOfEvent_finish _
  · have accepted : Accepted c r s := ⟨ref, near, within⟩
    intro k gap state
    have same : sdiff (settled c stamp r s).tracker.pEnc s.tracker.p = sdiff k.pEnc s.tracker.p := rfl
    have expiry : takeIf (sampleDue s) sampleExpiry s = sampleExpiry s := takeIf_sampleDue due
    have restarts : ¬ some s.setup.ts = some 0 := fun h => by injection h; omega
    have mode : s.tracker.mode = .tracking ∨ s.tracker.mode = .holding := state.imp_left And.left
    have holds : gap < 0 → s.tracker.mode = .holding := fun behind => state.resolve_left fun h => by omega
    refine ⟨_, _, expired s, _, exec_posSample c stamp s, exec_sampleTimerExpiry _,
      (exec_sampleTimerExpiry s).trans (by rw [expiry]; rfl), exec_posSample c stamp _, ?_, by rw [expired_tracker due],
      expired_flag due, ?_, ?_, ?_⟩
    · refine expiry_after ?_
      by_cases ahead : 0 ≤ gap
      · rw [accepted.ahead stamp mode ahead]
        exact restarts
      · by_cases near : -gap ≤ s.setup.estLimit
        · rw [accepted.behind stamp (holds (by omega)) (by omega) near]
          exact restarts
        · rw [(accepted.lost_holding stamp (holds (by omega)) (by omega) (by omega)).timer]
          exact fun h => nomatch h
    · intro close
      by_cases ahead : 0 ≤ gap
      · have sample := accepted.ahead stamp mode ahead
        have after := accepted.expired_ahead due stamp ahead (by omega)
        rw [expiry_after (by rw [sample]; exact restarts), sample, after, if_pos ahead]
        exact ⟨rfl, rfl, rfl, rfl, rfl, rfl⟩
      · have sample := accepted.behind stamp (holds (by omega)) (by omega) (by omega)
        have after := accepted.expired_behind due stamp (by omega) (by omega)
        rw [expiry_after (by rw [sample]; exact restarts), sample, after, if_neg ahead]
        exact ⟨rfl, rfl, rfl, rfl, rfl, rfl⟩
    · intro far
      have sample := accepted.ahead stamp mode (show 0 ≤ gap by omega)
      rw [expiry_after (by rw [sample]; exact restarts), sample]
      exact ⟨rfl, rfl, rfl, accepted.expired_far due stamp (by omega)⟩
    · exact fun behind far =>
        ⟨accepted.lost_holding stamp (holds behind) behind far, accepted.expired_far due stamp (by omega)⟩
  · rw [estimateTick_out out]
    exact endOfEvent_finish _
  · rw [finish_tracker, estimateTick_within estimated near early]
    rfl
  · rw [estimateExpiry_lost estimated late]
    exact positionLost_enterLost s rfl
  · rw [estimateExpiry_idle not]
    exact endOfEvent_finish _

end Sys2Proof.Machine
end

section
/-! PROOFS. The flags the Nip Planner leaves on segments, the temperature of the laminator, trim-short, and passed entries (R126,
R129, R138 to R144, R156, R174). -/

namespace Sys2Proof.Machine

/-! ## Flagged owners -/

/-- Every segment a lane map holds under a serial has a defect flag. -/
def Flagged (d : BitVec 12) (l : Lane) (id : Nat) (t : State) : Prop := ∀ g ∈ (t.lane l).segs, g.id = id → g.flags &&& d = d

theorem Segment.flag_id (d : BitVec 12) (g : Segment) : (g.flag d).id = g.id := rfl

theorem flag_self (f d : BitVec 12) : (f ||| d) &&& d = d := by
  ext i
  simp only [BitVec.getElem_and, BitVec.getElem_or]
  cases f[i] <;> cases d[i] <;> rfl

theorem flag_more {f d : BitVec 12} (e : BitVec 12) (h : f &&& d = d) : (f ||| e) &&& d = d := by
  rw [← h]
  ext i
  simp only [BitVec.getElem_and, BitVec.getElem_or]
  cases f[i] <;> cases d[i] <;> cases e[i] <;> rfl

variable {d : BitVec 12} {l : Lane} {id : Nat} {s t : State}

theorem flagged_flagSeg (d : BitVec 12) (l : Lane) (id : Nat) (s : State) : Flagged d l id (flagSeg l id d s) := by
  intro g mem same
  rw [flagSeg, State.modSeg, State.lane_modLane, List.mem_map] at mem
  obtain ⟨g0, -, rfl⟩ := mem
  by_cases same0 : g0.id = id
  · rw [if_pos same0]
    exact flag_self g0.flags d
  · rw [if_neg same0] at same
    exact absurd same same0

/-- What the Nip Planner does takes no flag off a segment. -/
theorem Flagged.nipWork (h : Flagged d l id s) (work : NipWork s t) : Flagged d l id t := by
  obtain ⟨f, lane, flags⟩ := work.lane l
  intro g mem same
  rw [lane, List.mem_map] at mem
  obtain ⟨g0, mem0, rfl⟩ := mem
  obtain ⟨e, more, -⟩ := flags g0
  rw [more] at same ⊢
  exact flag_more e (h g0 mem0 same)

theorem Flagged.endOfEvent (h : Flagged d l id s) (ends : EndOfEvent s t) : Flagged d l id t := by
  rw [Flagged, ends.lane]
  exact h

theorem flagged_flagOwners {d : BitVec 12} (plain : d &&& nipSpares = 0#12) {e : ZoneEntry} {es : List ZoneEntry}
    (s : State) (mem : e ∈ es) : Flagged d e.lane e.seg (flagOwners d es s) := by
  induction es generalizing s with
  | nil => cases mem
  | cons x es ih =>
    rcases List.mem_cons.mp mem with rfl | mem
    · exact (flagged_flagSeg d e.lane e.seg s).nipWork (nipWork_flagOwners plain es _)
    · exact ih (flagSeg x.lane x.seg d s) mem

/-- A flagged segment of the state before. -/
theorem Flagged.held (h : Flagged d l id t) (work : NipWork s t) :
    ∀ g ∈ (s.lane l).segs, g.id = id → ∃ g' ∈ (t.lane l).segs, g'.id = g.id ∧ g'.flags &&& d = d := by
  obtain ⟨f, lane, flags⟩ := work.lane l
  intro g mem same
  obtain ⟨e, more, -⟩ := flags g
  have kept : f g ∈ (t.lane l).segs := by rw [lane]; exact List.mem_map_of_mem mem
  have id : (f g).id = g.id := by rw [more]; rfl
  exact ⟨f g, kept, id, h _ kept (id.trans same)⟩

/-- The end of an event changes nothing of what is the Nip Planner's. -/
theorem EndOfEvent.flagged_held {u : State} (ends : EndOfEvent t u) (h : Flagged d l id t) (work : NipWork s t) :
    ∀ g ∈ (s.lane l).segs, g.id = id → ∃ g' ∈ (u.lane l).segs, g'.id = g.id ∧ g'.flags &&& d = d := by
  rw [ends.lane]
  exact h.held work

@[simp] theorem flagOwners_flags (d : BitVec 12) (es : List ZoneEntry) (s : State) :
    (flagOwners d es s).mgmt.flags = s.mgmt.flags := by
  induction es generalizing s with
  | nil => rfl
  | cons e es ih => exact (ih _).trans (by rw [flagSeg_mgmt])

/-! ## The temperature of the laminator (R141 to R144) -/

theorem exec_status (src raw : Byte) (x : NipSensor) (s : State) :
    exec (.status src raw x) s = .next (finish (takeStatus src raw x s)) := rfl

theorem exec_validityTimerExpiry (s : State) :
    exec .validityTimerExpiry s = .next (finish (takeIf (validityDue s) validityExpiry s)) := rfl

/-- R144's test finds the nip CLOSED and the temperature out of window. -/
def TempFails (s : State) : Prop := s.nip.commanded = .closed ∧ tempOut s = true

theorem closedTemp_quiet (h : ¬ TempFails s) : closedTemp s = s := if_neg h

theorem closedTemp_fails (h : TempFails s) : closedTemp s =
    raise prioLamTemp (flagOwners defLamTemp
      (s.nip.zones.filter (fun e => decide (e.mode = .required) && e.stretch.contains (lamPos s))) s) := if_pos h

theorem closedTemp_nip (s : State) : (closedTemp s).nip = s.nip := by
  unfold closedTemp
  split
  · rw [raise_nip, flagOwners_nip]
  · rfl

theorem closedTemp_flags_fails (h : TempFails s) : (closedTemp s).mgmt.flags = s.mgmt.flags ||| attnBit prioLamTemp := by
  rw [closedTemp_fails h]
  exact congrArg (· ||| attnBit prioLamTemp) (flagOwners_flags _ _ s)

theorem closedTemp_flagged (h : TempFails s) {e : ZoneEntry} (mem : e ∈ s.nip.zones) (required : e.mode = .required)
    (start : reaches (lamPos s) e.a = true) (stop : reaches e.b (lamPos s) = true) :
    Flagged defLamTemp e.lane e.seg (closedTemp s) := by
  rw [closedTemp_fails h]
  refine (flagged_flagOwners (by decide) s ?_).nipWork (nipWork_raise _ _)
  rw [List.mem_filter]
  exact ⟨mem, by simp [required, Stretch.contains, ZoneEntry.stretch, start, stop]⟩

/-- What a temperature event at the Nip Planner leaves, `n` being the Nip Planner with the new temperature. -/
structure TempTaken (s : State) (n : Nip) (t : State) : Prop where
  nip : t.nip = n
  tracker : t.tracker = s.tracker
  fails : TempFails { s with nip := n } → t.mgmt.flags = s.mgmt.flags ||| attnBit prioLamTemp ∧
    ∀ e ∈ n.zones, e.mode = .required → reaches (lamPos s) e.a = true → reaches e.b (lamPos s) = true →
      ∀ g ∈ (s.lane e.lane).segs, g.id = e.seg →
        ∃ g' ∈ (t.lane e.lane).segs, g'.id = g.id ∧ g'.flags &&& defLamTemp = defLamTemp
  quiet : ¬ TempFails { s with nip := n } → t.mgmt.flags = s.mgmt.flags ∧ t.laneA = s.laneA ∧ t.laneB = s.laneB

theorem tempTaken (s : State) (n : Nip) : TempTaken s n (finish (closedTemp { s with nip := n })) := by
  have ends := endOfEvent_finish (closedTemp { s with nip := n })
  constructor
  case nip => rw [ends.nip, closedTemp_nip]
  case tracker => exact ends.tracker.trans (inside_closedTemp _).tracker
  case fails =>
    intro fails
    refine ⟨by rw [ends.flags, closedTemp_flags_fails fails], fun e mem required start stop g gmem same => ?_⟩
    refine ends.flagged_held (closedTemp_flagged fails mem required start stop) (nipWork_closedTemp _) g ?_ same
    cases h : e.lane <;> rw [h] at gmem <;> exact gmem
  case quiet =>
    intro quiet
    rw [ends.flags, closedTemp_quiet quiet] at *
    exact ⟨rfl, ends.lane .a, ends.lane .b⟩

theorem tempFails_status {n : Nip} (configured : s.lam.configured = true) (valid : n.tempValid = true) :
    TempFails { s with nip := n } ↔ n.commanded = .closed ∧ 0 < (recordOr s.lam).tMin ∧
      (n.temp < (recordOr s.lam).tMin ∨ (recordOr s.lam).tMax < n.temp) := by
  obtain ⟨r, hr⟩ : ∃ r, s.lam.record = some r := by
    cases h : s.lam.record with
    | none => simp [StationState.configured, h] at configured
    | some r => exact ⟨r, rfl⟩
  rw [TempFails, tempOut_iff]
  refine and_congr_right fun _ => ?_
  simp [OutOfWindow, hr, recordOr, valid]

theorem tempFails_expiry {n : Nip} (invalid : n.tempValid = false) :
    TempFails { s with nip := n } ↔ n.commanded = .closed ∧ 0 < (recordOr s.lam).tMin := by
  rw [TempFails, tempOut_iff]
  refine and_congr_right fun _ => ?_
  cases h : s.lam.record with
  | none => simp [OutOfWindow, h, recordOr]
  | some r => simp [OutOfWindow, h, recordOr, invalid]

/-- The Nip Planner with the temperature a STATUS reports (R141). -/
def nipTold (raw : Byte) (x : NipSensor) (s : State) : Nip :=
  { s.nip with temp := convertTemp (recordOr s.lam).table raw.toNat, sensor := some x, tempValid := true, validity := some 2000 }

/-- The Nip Planner with its validity timer run out (R141). -/
def nipExpired (s : State) : Nip := { s.nip with tempValid := false, validity := none }

/-- Settles O35: what STATUS and the expiry store, and R144's test of it. -/
theorem statusAndValidityTaken : Obligations.StatusAndValidityTaken := by
  intro s src raw x
  refine ⟨convertTemp_convertsTo _ _, fun configured addr => ⟨_, exec_status src raw x s, ?_⟩,
    fun other => ⟨_, exec_status src raw x s, ?_⟩, fun early => ⟨_, exec_validityTimerExpiry s, ?_⟩,
    fun n running last => ⟨_, exec_validityTimerExpiry s, ?_⟩⟩
  · have isLam : statusIsLam src s = true := by simp [statusIsLam, configured, addr]
    have taken := tempTaken s (nipTold raw x s)
    have status : takeStatus src raw x s = closedTemp { s with nip := nipTold raw x s } :=
      if_pos isLam
    rw [status]
    have fails := tempFails_status (s := s) (n := nipTold raw x s)
      configured rfl
    refine ⟨taken.nip, ?_, fun closed window out e mem required start stop => ?_, fun opened => ?_, taken.tracker⟩
    · by_cases h : TempFails { s with nip := nipTold raw x s }
      · exact (taken.fails h).1.trans (if_pos (fails.mp h)).symm
      · exact (taken.quiet h).1.trans (if_neg fun k => h (fails.mpr k)).symm
    · exact (taken.fails (fails.mpr ⟨closed, window, out⟩)).2 e mem required start stop
    · exact (taken.quiet fun k => opened k.1).2
  · have notLam : takeStatus src raw x s = s := by
      refine if_neg ?_
      rcases other with off | addr
      · simp [statusIsLam, off]
      · simp [statusIsLam, addr]
    rw [notLam]
    exact endOfEvent_finish s
  · have waits : takeIf (validityDue s) validityExpiry s = s := by
      refine if_neg ?_
      cases h : s.nip.validity with
      | none => simp [validityDue, h]
      | some n => simpa [validityDue, h, lastMs] using early n h
    rw [waits]
    exact endOfEvent_finish s
  · have taken := tempTaken s (nipExpired s)
    have expires : takeIf (validityDue s) validityExpiry s =
        closedTemp { s with nip := nipExpired s } := by
      have due : validityDue s = true := by simp [validityDue, running, lastMs, last]
      rw [takeIf, if_pos due, validityExpiry]
      simp only [running]
      rfl
    rw [expires]
    have fails := tempFails_expiry (s := s) (n := nipExpired s) rfl
    refine ⟨taken.nip, ?_, fun closed window e mem required start stop => ?_, fun opened => ?_, taken.tracker⟩
    · by_cases h : TempFails { s with nip := nipExpired s }
      · exact (taken.fails h).1.trans (if_pos (fails.mp h)).symm
      · exact (taken.quiet h).1.trans (if_neg fun k => h (fails.mpr k)).symm
    · exact (taken.fails (fails.mpr ⟨closed, window⟩)).2 e mem required start stop
    · exact (taken.quiet fun k => opened k.1).2

/-! ## Trim-short (R156) -/

theorem testShort_segs (l : Lane) (s : State) :
    ((testShort l s).lane l).segs = (s.lane l).segs.map (fun g => (shortTest (s.jobOf g) (trimPos l s) g).1) := by
  unfold testShort
  dsimp only
  split <;> simp

theorem testShort_flag {l : Lane} {s : State} {g : Segment} (mem : g ∈ (s.lane l).segs)
    (enters : (shortTest (s.jobOf g) (trimPos l s) g).2 = true) : attnHas (testShort l s).mgmt.flags prioTrimShort = true := by
  unfold testShort
  dsimp only
  rw [if_pos (List.any_eq_true.mpr ⟨g, mem, enters⟩)]
  exact attnHas_raise (by decide) (by decide) _

section ShortTest

variable {job : JobDef} {lamT : Word32} {g : Segment}

theorem shortTest_enters (waiting : g.watch.state = .waiting) (reached : reaches lamT (trimFirst job g) = true) :
    shortTest job lamT g = ({ g.flag defTrimShort with
      trimShort := formShort job lamT g
      watch := { g.watch with state := if reaches lamT (trimLast job g) then .ended else .short } }, true) := by
  simp [shortTest, waiting, reached]

theorem shortTest_waits (waiting : g.watch.state = .waiting) (before : reaches lamT (trimFirst job g) = false) :
    shortTest job lamT g = (g, false) := by
  simp [shortTest, waiting, before]

theorem shortTest_measures (short : g.watch.state = .short) :
    shortTest job lamT g = ({ g with
      trimShort := formShort job lamT g
      watch := { g.watch with state := if reaches lamT (trimLast job g) then .ended else .short } }, false) := by
  simp [shortTest, short]

theorem shortTest_ended (ended : g.watch.state = .ended) : shortTest job lamT g = (g, false) := by simp [shortTest, ended]

end ShortTest

/-- Settles O38: every segment takes the trim-short test, by the state of its watch. -/
theorem trimShortMeasured : Obligations.TrimShortMeasured := by
  intro s l
  have ends := endOfEvent_finish (testShort l s)
  refine ⟨finish (testShort l s), rfl, by rw [ends.lane, testShort_segs, List.length_map], fun k g at_k => ?_⟩
  have tested : ((finish (testShort l s)).lane l).segs[k]? = some (shortTest (s.jobOf g) (trimPos l s) g).1 := by
    rw [ends.lane, testShort_segs, List.getElem?_map, at_k]
    rfl
  refine ⟨fun waiting reached => ⟨?_, ?_⟩, fun waiting before => ?_, fun short => ?_, fun ended => ?_⟩
  · rw [tested, shortTest_enters waiting (show reaches (trimPos l s) _ = true from reached)]
    rfl
  · rw [ends.flags]
    exact testShort_flag (List.mem_of_getElem? at_k) (by
      rw [shortTest_enters waiting (show reaches (trimPos l s) _ = true from reached)])
  · rw [tested, shortTest_waits waiting (show reaches (trimPos l s) _ = false from before)]
  · rw [tested, shortTest_measures short]
    rfl
  · rw [tested, shortTest_ended ended]

/-! ## A recomputation (R129, R131) -/

/-- The recomputation without a conflict touches the Nip Planner alone. -/
theorem recompute_calm {s : State} (calm : hasConflict (banned s.web) s.nip.zones = false) :
    ∃ n : Nip, recompute s = { s with nip := n } := by
  refine ⟨(recompute s).nip, ?_⟩
  simp only [recompute, calm, Bool.false_eq_true, if_false]

theorem recompute_lane {s : State} (calm : hasConflict (banned s.web) s.nip.zones = false) (l : Lane) :
    (recompute s).lane l = s.lane l := by
  obtain ⟨n, e⟩ := recompute_calm calm
  rw [e]
  cases l <;> rfl

theorem loserFlag_eq (ban : Bool) (policy : Policy) :
    loserFlag ban policy = if ban = true ∨ policy = .forbidWins then defLamShort else defLamSpoiled := by
  cases ban <;> cases policy <;> rfl

/-- Where the zone list has a conflict, a recomputation sets LAM_CONFLICT and flags the losers' owners (R129). -/
theorem losersFlagged_recompute (s : State) : LosersFlagged (recompute s) := by
  have work := nipWork_recompute s
  have setup : (recompute s).setup = s.setup := (inside_recompute s).setup
  intro conflict
  rw [work.zones, work.web] at conflict
  rw [work.zones, work.web, setup, ← loserFlag_eq]
  have flagged : ∃ n : Nip, recompute s = { raise prioLamConflict
      (flagOwners (loserFlag (banned s.web) s.setup.policy) (losers (banned s.web) s.setup.policy s.nip.zones) s) with
      nip := n } := by
    refine ⟨(recompute s).nip, ?_⟩
    simp only [recompute, conflict, if_true]
  obtain ⟨n, e⟩ := flagged
  rw [e]
  refine ⟨attnHas_raise (by decide) (by decide) _, fun x mem => ?_⟩
  have zones : n.zones = s.nip.zones := by
    have kept := work.zones
    rw [e] at kept
    exact kept
  refine ((flagged_flagOwners (loserFlag_plain _ _) s mem).nipWork (nipWork_raise _ _)).nipWork (nipWork_nip n ?_)
  rw [raise_nip, flagOwners_nip, zones]

theorem LosersFlagged.endOfEvent {s t : State} (h : LosersFlagged s) (ends : EndOfEvent s t) : LosersFlagged t := by
  intro conflict
  rw [ends.web, ends.nip] at conflict
  obtain ⟨flag, owners⟩ := h conflict
  rw [ends.web, ends.nip, ends.setup, ends.flags]
  exact ⟨flag, fun e mem => Flagged.endOfEvent (owners e mem) ends⟩

/-! ## Passed entries (R126, R139, R174) -/

/-- The passed entries flagged where R139 applies, and taken out of the zone list. -/
def zonesPassed (s : State) : State :=
  { flagOwners defLamShort ((s.nip.zones.filter (entryPassed (lamPos s))).filter (passedUnlaminated s)) s with
    nip := { s.nip with zones := s.nip.zones.filter (fun e => !entryPassed (lamPos s) e) } }

theorem passZones_eq (s : State) :
    passZones s = nipChangeIf (!(s.nip.zones.filter (entryPassed (lamPos s))).isEmpty) (zonesPassed s) := by
  rw [passZones, zonesPassed]
  dsimp only
  rw [flagOwners_nip]

theorem zonesPassed_lane (s : State) (l : Lane) : (zonesPassed s).lane l =
    (flagOwners defLamShort ((s.nip.zones.filter (entryPassed (lamPos s))).filter (passedUnlaminated s)) s).lane l := by
  cases l <;> rfl

theorem zonesPassed_web (s : State) : (zonesPassed s).web = s.web := flagOwners_web _ _ s

theorem zonesPassed_lam (s : State) : (zonesPassed s).lam = s.lam := flagOwners_lam _ _ s

theorem passZones_zones (s : State) : (passZones s).nip.zones = s.nip.zones.filter (fun e => !entryPassed (lamPos s) e) := by
  rw [passZones_eq, (nipWork_nipChangeIf _ _).zones]
  rfl

theorem passZones_web (s : State) : (passZones s).web = s.web := by
  rw [passZones_eq, (nipWork_nipChangeIf _ _).web, zonesPassed_web]

/-- An entry that passes before its ENGAGE was issued flags its segment (R139). -/
theorem passZones_flagged {s : State} {e : ZoneEntry} (mem : e ∈ s.nip.zones) (passed : entryPassed (lamPos s) e = true)
    (unlaminated : passedUnlaminated s e = true) : ∀ g ∈ (s.lane e.lane).segs, g.id = e.seg →
      ∃ g' ∈ ((passZones s).lane e.lane).segs, g'.id = g.id ∧ g'.flags &&& defLamShort = defLamShort := by
  have flagged : Flagged defLamShort e.lane e.seg (zonesPassed s) := by
    rw [Flagged, zonesPassed_lane]
    exact flagged_flagOwners (by decide) s (List.mem_filter.mpr ⟨List.mem_filter.mpr ⟨mem, passed⟩, unlaminated⟩)
  intro g gmem same
  obtain ⟨g1, mem1, id1, -⟩ := (flagged_flagOwners (d := defLamShort) (by decide) s
    (List.mem_filter.mpr ⟨List.mem_filter.mpr ⟨mem, passed⟩, unlaminated⟩)).held (nipWork_flagOwners (by decide) _ s) g gmem same
  rw [← zonesPassed_lane] at mem1
  rw [passZones_eq, ← id1]
  exact (flagged.nipWork (nipWork_nipChangeIf _ _)).held (nipWork_nipChangeIf _ _) g1 mem1 (id1.trans same)

/-- While the nip is commanded CLOSED no passing entry is flagged, and with no conflict left no segment changes (R139). -/
theorem passZones_lane {s : State} (closed : s.nip.commanded = .closed) (ready : s.lam.mode ≠ .ready)
    (calm : hasConflict (banned s.web) (passZones s).nip.zones = false) (l : Lane) : (passZones s).lane l = s.lane l := by
  have none : (s.nip.zones.filter (entryPassed (lamPos s))).filter (passedUnlaminated s) = [] :=
    List.filter_eq_nil_iff.mpr fun e _ => by simp [passedUnlaminated, closed]
  have same : (zonesPassed s).lane l = s.lane l := by
    rw [zonesPassed_lane, none]
    rfl
  rw [passZones_zones] at calm
  rw [passZones_eq, nipChangeIf]
  split
  · rw [nipChange_waits (by rw [zonesPassed_lam]; exact ready), recompute_lane (by rw [zonesPassed_web]; exact calm), same]
  · exact same

theorem passedUnlaminated_of {s : State} {e : ZoneEntry} {o : Offer} {x : Stretch} (required : e.mode = .required)
    (opened : s.nip.commanded ≠ .closed) (offer : s.nip.offer = some o) (engage : o.kind = .engage) (planned : x ∈ s.nip.plan)
    (laid : e.stretch.overlaps x = true)
    (missing : e.key ∉ s.nip.begun ∨ ∀ h, s.nip.decided = some h → precedes h e.b = true) : passedUnlaminated s e = true := by
  have kept : removedByConflict e s = false := by
    have any : s.nip.plan.any e.stretch.overlaps = true := List.any_eq_true.mpr ⟨x, planned, laid⟩
    simp [removedByConflict, any]
  have own : (undecided s.nip e.b || !s.nip.begun.contains e.key) = true := by
    rcases missing with never | beyond
    · simp [never]
    · cases h : s.nip.decided with
      | none => simp [undecided, h]
      | some d => simp [undecided, h, beyond d h]
  rw [passedUnlaminated, own, kept]
  simp [required, opened, engageOffered, offer, engage]

/-- Settles O26: passed entries leave the zone list and the splice list. -/
theorem passedEntriesLeave : Obligations.PassedEntriesLeave := by
  intro s
  have ends := endOfEvent_finish (passZones s)
  refine ⟨⟨finish (passZones s), rfl, ?_, ?_, ?_, ?_, ?_⟩, ⟨finish (passSplices s), rfl, endOfEvent_finish (passSplices s)⟩⟩
  · rw [ends.nip, passZones_zones]
    rfl
  · exact ends.tracker.trans (inside_passZones s).tracker
  · rw [ends.web, passZones_web]
  · rintro e o mem passed required opened offer engage ⟨x, planned, laid⟩ missing g gmem same
    rw [ends.lane]
    exact passZones_flagged mem passed (passedUnlaminated_of required opened offer engage planned laid missing) g gmem same
  · intro closed ready calm l
    rw [ends.nip] at calm
    rw [ends.lane, passZones_lane closed ready calm]

end Sys2Proof.Machine
end

section
/-! PROOFS. LANE START: its conditions, the plan and the offer it leaves, and the corrective RELEASE of an UNKNOWN nip (R71, R129 to
R137). -/

namespace Sys2Proof.Machine

/-! ## What an answer leaves -/

namespace Answered

variable {u t : State} {f : Frame} (h : Answered u f t)
include h

theorem nip : t.nip = u.nip := (EndOfEvent.nip h).trans rfl
theorem lane (l : Lane) : t.lane l = u.lane l := (EndOfEvent.lane h l).trans (by cases l <;> rfl)
theorem station (st : Station) : t.station st = u.station st := (EndOfEvent.station h st).trans (by cases st <;> rfl)
theorem lam : t.lam = u.lam := h.station .lam
theorem tracker : t.tracker = u.tracker := (EndOfEvent.tracker h).trans rfl
theorem setup : t.setup = u.setup := (EndOfEvent.setup h).trans rfl
theorem web : t.web = u.web := (EndOfEvent.web h).trans rfl
theorem jobs : t.jobs = u.jobs := (EndOfEvent.jobs h).trans rfl
theorem flags : t.mgmt.flags = u.mgmt.flags := (EndOfEvent.flags h).trans rfl

end Answered

theorem LosersFlagged.answered {u t : State} {f : Frame} (h : LosersFlagged u) (ans : Answered u f t) : LosersFlagged t := by
  intro conflict
  rw [ans.web, ans.nip] at conflict
  obtain ⟨flag, owners⟩ := h conflict
  rw [ans.web, ans.nip, ans.setup, ans.flags]
  refine ⟨flag, fun e mem => ?_⟩
  rw [ans.lane]
  exact owners e mem

/-! ## The reply to LANE START (R71) -/

theorem exec_laneStart (token : Byte) (body : List Byte) (s : State) :
    exec (.laneStart token body) s = .next (serve 0x20#8 token (laneStartReply body) s) := rfl

theorem byteAt_laneCode (l : Lane) : byteAt [BitVec.ofNat 8 (laneCode l)] 0 = laneCode l := by cases l <;> rfl

theorem onLane_code (l : Lane) (s : State) (k : Lane → Reply) : onLane [BitVec.ofNat 8 (laneCode l)] s k = k l := by
  cases l <;> rfl

/-- A lane code of 2 or more is refused in field 0 (R197). -/
theorem onLane_bad {code : Byte} (bad : 2 ≤ code.toNat) (s : State) (k : Lane → Reply) : onLane [code] s k = badField 0 s := by
  have none : laneOfCode (byteAt [code] 0) = none := laneOfCode_undefined bad
  rw [onLane, none]

theorem inOrder_iff (x y : StationState) :
    inOrder x y = true ↔ (x.configured = true → y.configured = true → (recordOr x).dist < (recordOr y).dist) := by
  cases hx : x.configured <;> cases hy : y.configured <;> simp [inOrder, hx, hy]

theorem startAllowed_iff (l : Lane) (s : State) : startAllowed l s = true ↔
    s.nodeAddr ≠ 0#8 ∧ (s.station (cutterOf l)).configured = true ∧ inOrder s.lam (s.station (trimmerOf l)) = true ∧
      inOrder s.lam (s.station (cutterOf l)) = true ∧ inOrder (s.station (trimmerOf l)) (s.station (cutterOf l)) = true ∧
      s.tracker.mode ≠ .lost := by
  simp only [startAllowed, Bool.and_eq_true, decide_eq_true_eq, and_assoc]

/-- The lane RUNNING, before the Nip Planner takes the start. -/
def laneRunning (l : Lane) (s : State) : State := s.modLane l (fun x => { x with mode := .running })

section Start

variable {l : Lane} {s : State}

theorem laneStart_running (mode : (s.lane l).mode = .running) :
    laneStartReply [BitVec.ofNat 8 (laneCode l)] s = accept s := by
  simp only [laneStartReply, sized, List.length_singleton, if_true, onLane_code, mode]

theorem laneStart_draining (mode : (s.lane l).mode = .draining) :
    laneStartReply [BitVec.ofNat 8 (laneCode l)] s = refuse .wrongState s := by
  simp only [laneStartReply, sized, List.length_singleton, if_true, onLane_code, mode]

theorem laneStart_refused (mode : (s.lane l).mode = .disabled) (refused : startAllowed l s = false) :
    laneStartReply [BitVec.ofNat 8 (laneCode l)] s = refuse .wrongState s := by
  simp only [laneStartReply, sized, List.length_singleton, if_true, onLane_code, mode, refused, Bool.false_eq_true, if_false]

theorem laneStart_allowed (mode : (s.lane l).mode = .disabled) (allowed : startAllowed l s = true) :
    laneStartReply [BitVec.ofNat 8 (laneCode l)] s = accept (nipStart (laneRunning l s)) := by
  simp only [laneStartReply, sized, List.length_singleton, if_true, onLane_code, mode, allowed]
  rfl

end Start

theorem inside_nipStart (s : State) : Inside s (nipStart s) := by
  unfold nipStart
  split
  · exact (inside_nip s { s.nip with releaseRequest := true } rfl rfl rfl rfl).trans (inside_nipChange _)
  · exact inside_nipChange s

theorem nipWork_nipStart (s : State) : NipWork s (nipStart s) := by
  unfold nipStart
  split
  · exact (nipWork_nip { s.nip with releaseRequest := true } rfl).trans (nipWork_nipChange _)
  · exact nipWork_nipChange s

theorem inside_laneRunning (l : Lane) (s : State) : Inside s (laneRunning l s) := inside_modLane l _ s rfl rfl

/-! ## The start at the Nip Planner (R131, R134, R137) -/

theorem nipStart_known {s : State} (known : s.nip.commanded ≠ .unknown) : nipStart s = nipChange s := by
  rw [nipStart, if_neg known]

theorem nipStart_unknown {s : State} (unknown : s.nip.commanded = .unknown) :
    nipStart s = nipChange { s with nip := { s.nip with releaseRequest := true } } := by
  rw [nipStart, if_pos unknown]

theorem laneRunning_nip (l : Lane) (s : State) : (laneRunning l s).nip = s.nip := by cases l <;> rfl
theorem laneRunning_web (l : Lane) (s : State) : (laneRunning l s).web = s.web := by cases l <;> rfl
theorem laneRunning_lam (l : Lane) (s : State) : (laneRunning l s).lam = s.lam := by cases l <;> rfl
theorem laneRunning_segs (l m : Lane) (s : State) : ((laneRunning l s).lane m).segs = (s.lane m).segs := by
  cases l <;> cases m <;> rfl

theorem stretchAt_eq (plan : List Stretch) (o : Word32) :
    stretchAt plan o = plan.find? (fun x => (decide (x.a = o) || precedes x.a o) && precedes o x.b) := by
  unfold stretchAt reaches
  simp only [eq_comm]

/-- The start an engage over a closed stretch is wanted from: the later of the decided point and the stretch's own (R134). -/
def wantedFrom (n : Nip) (x : Stretch) : Word32 :=
  match n.decided with
  | some h => later h x.a
  | none => x.a

section Offer

variable {n : Nip} {lam : Word32}

theorem offerOf_opened_at (opened : n.commanded = .opened) {x : Stretch} (wants : stretchAt n.plan (planningOrigin n lam) = some x) :
    offerOf n lam = some { kind := .engage, target := lam, wanted := wantedFrom n x, corrective := true } := by
  simp only [offerOf, opened, offerOpened, wants]
  rfl

theorem offerOf_opened_after (opened : n.commanded = .opened) (none : stretchAt n.plan (planningOrigin n lam) = none) :
    offerOf n lam = (stretchAfter n.plan (planningOrigin n lam)).map (fun x =>
      { kind := .engage, target := x.a, wanted := x.a, corrective := false }) := by
  simp only [offerOf, opened, offerOpened, none]
  cases stretchAfter n.plan (planningOrigin n lam) <;> rfl

theorem offerOf_closed_at (closed : n.commanded = .closed) {x : Stretch} (wants : stretchAt n.plan (planningOrigin n lam) = some x) :
    offerOf n lam = some { kind := .release, target := x.b, wanted := x.b, corrective := false } := by
  simp only [offerOf, closed, offerClosed, wants]

theorem offerOf_closed_past (closed : n.commanded = .closed) (none : stretchAt n.plan (planningOrigin n lam) = none) :
    offerOf n lam = some (releaseAt lam) := by
  simp only [offerOf, closed, offerClosed, none]
  rfl

end Offer

/-- The Nip Planner with the plan of its zone list. -/
def planned (s : State) : Nip := { s.nip with plan := planNow s }

/-- Settles O34: an accepted LANE START recomputes the plan and, LAM not being READY, leaves the offer that is made from it. -/
theorem nipOfferFollowsPlan : Obligations.NipOfferFollowsPlan := by
  intro s l token room mode allowed busy known
  have answered := serve_answered (code := 0x20#8) (token := token) room (laneStart_allowed mode allowed)
  refine ⟨_, exec_laneStart token _ s, ?_⟩
  have start : nipStart (laneRunning l s) = recompute (laneRunning l s) := by
    rw [nipStart_known (by rw [laneRunning_nip]; exact known), nipChange_waits (by rw [laneRunning_lam]; exact busy)]
  generalize serve 0x20#8 token (laneStartReply [BitVec.ofNat 8 (laneCode l)]) s = t at answered ⊢
  rw [accept, start] at answered
  obtain ⟨begun, replanned⟩ := recompute_nip (laneRunning l s)
  have pos : lamPos (laneRunning l s) = lamPos s := (inside_laneRunning l s).lamPos
  have setup : (laneRunning l s).setup = s.setup := (inside_laneRunning l s).setup
  rw [laneRunning_nip, laneRunning_web, setup, pos] at replanned
  have nip : t.nip = _ := answered.nip.trans replanned
  refine ⟨⟨?_, fun calm k => ?_⟩, by rw [nip], by rw [nip], by rw [nip], by rw [nip], fun opened => ⟨fun x wants => ?_, fun none => ?_⟩,
    fun closed => ⟨fun x wants => ?_, fun none => ?_⟩⟩
  · exact (losersFlagged_recompute (laneRunning l s)).answered answered
  · rw [answered.lane, recompute_lane (by rw [laneRunning_web, laneRunning_nip]; exact calm), laneRunning_segs]
  · rw [nip]
    exact offerOf_opened_at (n := planned s) opened ((stretchAt_eq (planNow s) (planningOrigin s.nip (lamPos s))).trans wants)
  · rw [nip]
    exact offerOf_opened_after (n := planned s) opened ((stretchAt_eq (planNow s) (planningOrigin s.nip (lamPos s))).trans none)
  · rw [nip]
    exact offerOf_closed_at (n := planned s) closed ((stretchAt_eq (planNow s) (planningOrigin s.nip (lamPos s))).trans wants)
  · rw [nip]
    exact offerOf_closed_past (n := planned s) closed ((stretchAt_eq (planNow s) (planningOrigin s.nip (lamPos s))).trans none)

/-! ## The corrective RELEASE of an UNKNOWN nip (R137) -/

/-- The Nip Planner with a release requested. -/
def releaseRequested (s : State) : State := { s with nip := { s.nip with releaseRequest := true } }

theorem nipStart_requested {s : State} (unknown : s.nip.commanded = .unknown) : nipStart s = nipChange (releaseRequested s) :=
  nipStart_unknown unknown

theorem releaseRequested_wants {s : State} (unknown : s.nip.commanded = .unknown) : WantsRelease (releaseRequested s).nip :=
  .inr ⟨unknown, rfl⟩

/-- Settles O47: by the state of the lane, and by R71's conditions. -/
theorem laneStarted : Obligations.LaneStarted := by
  refine ⟨fun s token code room bad => ⟨_, exec_laneStart token _ s, ?_⟩, fun s l token room => ⟨_, exec_laneStart token _ s, ?_⟩⟩
  · have refused : laneStartReply [code] s = badField 0 s := onLane_bad bad s _
    exact serve_answered room refused
  · refine ⟨fun mode => serve_answered room (laneStart_running mode), fun mode => serve_answered room (laneStart_draining mode),
      fun mode => ⟨fun not => ?_, fun all => ?_⟩⟩
    · have refused : startAllowed l s = false := by
        rw [← Bool.not_eq_true, startAllowed_iff, inOrder_iff, inOrder_iff, inOrder_iff]
        exact not
      exact serve_answered room (laneStart_refused mode refused)
    · have allowed : startAllowed l s = true := by
        rw [startAllowed_iff, inOrder_iff, inOrder_iff, inOrder_iff]
        exact all
      have inside1 := inside_laneRunning l s
      have started := inside1.trans (inside_nipStart (laneRunning l s))
      have answered := serve_accepted (code := 0x20#8) (token := token) room (laneStart_allowed mode allowed) started.nodeAddr
      generalize serve 0x20#8 token (laneStartReply [BitVec.ofNat 8 (laneCode l)]) s = t at answered ⊢
      have work := nipWork_nipStart (laneRunning l s)
      obtain ⟨f, lane, -⟩ := work.lane l
      refine ⟨?_, ?_, ?_, answered.carries, fun unknown => ?_⟩
      · rw [answered.lane, lane]
        simp [laneRunning]
      · rw [answered.lane, lane]
        simp [laneRunning]
      · exact answered.tracker.trans started.tracker
      · have unknown1 : (laneRunning l s).nip.commanded = .unknown := by rw [laneRunning_nip]; exact unknown
        have wants := releaseRequested_wants unknown1
        have lam1 : (releaseRequested (laneRunning l s)).lam = s.lam := laneRunning_lam l s
        have pos : lamPos (releaseRequested (laneRunning l s)) = lamPos s := inside1.lamPos
        rw [answered.nip, answered.lam, nipStart_requested unknown1]
        refine ⟨fun ready slow quick => ?_, fun busy => ?_⟩
        · have released := nipChange_releases wants (by rw [lam1]; exact ready)
            (toGo_lamPos_slow (inside1.tracker ▸ slow) (by rw [lam1]; exact quick))
          exact ⟨released.commanded, released.busy, released.request⟩
        · rw [nipChange_waits (by rw [lam1]; exact busy), recompute_release wants, pos]
          obtain ⟨begun, replanned⟩ := recompute_nip (releaseRequested (laneRunning l s))
          rw [replanned]
          exact ⟨unknown1, rfl, rfl⟩

end Sys2Proof.Machine
end

section
/-! PROOFS. The retirement of a segment, and the web inputs (R74, R87, R88, R164 to R167, R171, R173, R207). -/

namespace Sys2Proof.Machine

/-! ## A segment leaves its map (R87) -/

section LeaveMap

variable (l : Lane) (c : Cause) (g : Segment) (s : State)

/-- A segment out of its map, the zone list and the count of its job record. -/
def unmapped : State :=
  releaseJob g.slot (dropZones l g.id (s.modLane l (fun x => { x with segs := x.segs.filter (fun h => h.id ≠ g.id) })))

theorem leaveMap_eq : leaveMap l c g s =
    drainTest l (if reportDue (s.jobOf g) g then handReport (reportOf l c g) (unmapped l g s) else unmapped l g s) := rfl

theorem unmapped_mgmt : (unmapped l g s).mgmt = s.mgmt := by cases l <;> rfl

theorem unmapped_lane : (unmapped l g s).lane l = { s.lane l with segs := (s.lane l).segs.filter (fun h => h.id ≠ g.id) } := by
  cases l <;> rfl

theorem unmapped_jobs : (unmapped l g s).jobs = s.jobs.modify g.slot (Option.map (fun r => { r with inUse := r.inUse - 1 })) := by
  cases l <;> rfl

theorem drainTest_lane : (drainTest l s).lane l =
    { s.lane l with
      mode := if (s.lane l).mode = .draining ∧ (s.lane l).segs = [] then .disabled else (s.lane l).mode } := by
  unfold drainTest
  split <;> simp

theorem drainTest_jobs : (drainTest l s).jobs = s.jobs := by
  unfold drainTest
  split <;> simp

theorem handReport_jobs (r : Report) : (handReport r s).jobs = s.jobs := by
  unfold handReport
  split <;> rfl

/-- A lane after one of its segments has left: the other segments stay, and a DRAINING lane left empty is DISABLED (R74). -/
theorem leaveMap_lane : (leaveMap l c g s).lane l =
    { s.lane l with
      segs := (s.lane l).segs.filter (fun h => h.id ≠ g.id)
      mode := if (s.lane l).mode = .draining ∧ ∀ h ∈ (s.lane l).segs, h.id = g.id then .disabled else (s.lane l).mode } := by
  have handed : (if reportDue (s.jobOf g) g then handReport (reportOf l c g) (unmapped l g s) else unmapped l g s).lane l =
      (unmapped l g s).lane l := by
    split
    · rw [handReport_lane]
    · rfl
  rw [leaveMap_eq, drainTest_lane, handed, unmapped_lane]
  have empty : (s.lane l).segs.filter (fun h => h.id ≠ g.id) = [] ↔ ∀ h ∈ (s.lane l).segs, h.id = g.id := by
    simp [List.filter_eq_nil_iff]
  simp only [empty]

theorem leaveMap_jobs :
    (leaveMap l c g s).jobs = s.jobs.modify g.slot (Option.map (fun r => { r with inUse := r.inUse - 1 })) := by
  rw [leaveMap_eq, drainTest_jobs]
  split
  · rw [handReport_jobs, unmapped_jobs]
  · rw [unmapped_jobs]

variable {l c g s}

theorem leaveMap_silent (silent : reportDue (s.jobOf g) g = false) : (leaveMap l c g s).mgmt = s.mgmt := by
  rw [leaveMap_eq, silent, drainTest_mgmt]
  exact unmapped_mgmt l g s

/-- A report that finds the queue full is lost (R207). -/
theorem leaveMap_full (due : reportDue (s.jobOf g) g = true) (full : 16 ≤ s.mgmt.reports.length) :
    (leaveMap l c g s).mgmt.reportsLost = bump s.mgmt.reportsLost ∧
      attnHas (leaveMap l c g s).mgmt.flags prioReportLost = true := by
  have lost : handReport (reportOf l c g) (unmapped l g s) = raise prioReportLost
      { unmapped l g s with mgmt := { (unmapped l g s).mgmt with reportsLost := bump (unmapped l g s).mgmt.reportsLost } } :=
    if_neg (by rw [unmapped_mgmt]; omega)
  rw [leaveMap_eq, if_pos due, drainTest_mgmt, lost]
  refine ⟨?_, attnHas_raise (by decide) (by decide) _⟩
  rw [raise_reportsLost, unmapped_mgmt]

end LeaveMap

theorem reportDue_iff (job : JobDef) (g : Segment) : reportDue job g = true ↔ job.notify = true ∨ g.flags ≠ 0#12 := by
  simp [reportDue]

theorem NipWork.ids {s t : State} (h : NipWork s t) (l : Lane) :
    (t.lane l).segs.map (fun x => x.id) = (s.lane l).segs.map (fun x => x.id) := by
  obtain ⟨f, lane, flags⟩ := h.lane l
  rw [lane, List.map_map]
  refine List.map_congr_left fun g _ => ?_
  obtain ⟨d, more, -⟩ := flags g
  show (f g).id = g.id
  rw [more]
  rfl

theorem NipWork.mode {s t : State} (h : NipWork s t) (l : Lane) : (t.lane l).mode = (s.lane l).mode := by
  obtain ⟨f, lane, -⟩ := h.lane l
  rw [lane]

/-- What the retirement of a segment of a lane reads and writes is as it was (R87). -/
structure RollKept (l : Lane) (s t : State) : Prop where
  ids : (t.lane l).segs.map (fun x => x.id) = (s.lane l).segs.map (fun x => x.id)
  mode : (t.lane l).mode = (s.lane l).mode
  jobs : t.jobs = s.jobs
  zones : t.nip.zones = s.nip.zones
  reports : t.mgmt.reports = s.mgmt.reports
  reportsLost : t.mgmt.reportsLost = s.mgmt.reportsLost
  north : t.north = s.north
  flags : s.mgmt.flags ||| t.mgmt.flags = t.mgmt.flags

section RollKept

variable {l : Lane} {s t u : State}

theorem RollKept.refl (l : Lane) (s : State) : RollKept l s s := ⟨rfl, rfl, rfl, rfl, rfl, rfl, rfl, BitVec.or_self⟩

theorem RollKept.trans (h : RollKept l s t) (k : RollKept l t u) : RollKept l s u :=
  ⟨k.ids.trans h.ids, k.mode.trans h.mode, k.jobs.trans h.jobs, k.zones.trans h.zones, k.reports.trans h.reports,
    k.reportsLost.trans h.reportsLost, k.north.trans h.north, by rw [← k.flags, ← BitVec.or_assoc, h.flags]⟩

theorem NipWork.rollKept (work : NipWork s t) (inside : Inside s t) (l : Lane) : RollKept l s t :=
  ⟨work.ids l, work.mode l, work.jobs, work.zones, work.reports, work.reportsLost, inside.north, inside.flags⟩

end RollKept

/-- A segment that leaves its map COMPLETE has retired, whatever else the event does that keeps the map, the reports and the records
(R87). -/
theorem retired_leaveMap {l : Lane} {g : Segment} {s u : State} (kept : RollKept l (leaveMap l .complete g s) u) :
    Retired l g s (finish u) := by
  have ends := endOfEvent_finish u
  have reports : (finish u).mgmt.reports <:+ (leaveMap l .complete g s).mgmt.reports := kept.reports ▸ ends.reports
  constructor
  case leaves =>
    refine ⟨?_, ?_, ?_, ?_⟩
    · rw [ends.lane, kept.ids, leaveMap_lane]
    · rw [ends.lane, kept.mode, leaveMap_lane]
    · rw [ends.jobs, kept.jobs, leaveMap_jobs]
    · rw [ends.nip, kept.zones, leaveMap_nip]
      rfl
  case report =>
    intro due
    rw [← reportDue_iff] at due
    refine ⟨fun room none => ?_, fun full => ?_⟩
    · have north : u.north = s.north := kept.north.trans (inside_leaveMap l .complete g s).north
      have full : ownRoom u = 0 := (ownRoom_congr north).trans none
      rw [finish_reports (by omega), kept.reports, leaveMap_reports due room]
      rfl
    · obtain ⟨lost, flag⟩ := leaveMap_full (l := l) (c := .complete) due full
      rw [ends.reportsLost, kept.reportsLost, ends.flags]
      exact ⟨lost, attnHas_mono kept.flags flag⟩
  case silent =>
    intro quiet clean
    have silent : reportDue (s.jobOf g) g = false := by simp [reportDue, quiet, clean]
    rw [leaveMap_silent silent] at reports
    exact ⟨reports, by rw [ends.reportsLost, kept.reportsLost, leaveMap_silent silent]⟩

/-- A segment that retires (R87). -/
theorem retired_retire (l : Lane) (g : Segment) (s : State) : Retired l g s (finish (retire l g s)) :=
  retired_leaveMap ((nipWork_nipChangeIf _ _).rollKept (inside_nipChangeIf _ _) l)

/-- Settles O36: the segment at that place retires. -/
theorem segmentRetires : Obligations.SegmentRetires := by
  intro s l place g at_place closed idle
  have retires : retireAt l place s = retire l g s := by simp [retireAt, at_place, retirable, closed, idle]
  refine ⟨finish (retire l g s), by rw [← retires]; rfl, ?_⟩
  have retired := retired_retire l g s
  obtain ⟨ids, mode, jobs, zones⟩ := retired.leaves
  have ends := endOfEvent_finish (retire l g s)
  refine ⟨mode, fun m ne => ?_, ids, jobs, zones, ends.tracker.trans (inside_retire l g s).tracker, retired.report, retired.silent⟩
  rw [ends.lane, retire, (nipWork_nipChangeIf _ _).mode, leaveMap_lane_ne ne]

/-! ## The flags of a POS sample (R164, R169, R171, R173) -/

/-- The Web Event Unit takes presence or absence (R171). -/
def presence (present : Bool) (s : State) : State :=
  if present then { s with web := { s.web with present := true, absence := 0, broken := false } }
  else { s with web := { s.web with present := false } }

theorem presence_eq (present : Bool) (s : State) : presence present s = { s with web := { s.web with
    present := present, absence := if present then 0 else s.web.absence, broken := if present then false else s.web.broken } } := by
  cases present <;> rfl

/-- What a splice that rises leaves of the Web Event Unit and the lanes (R173). -/
theorem recordSplice_off {s : State} (off : s.setup.spliceDist = 0) : recordSplice s = s := if_pos off

theorem recordSplice_unrecorded {s : State} (on : s.setup.spliceDist ≠ 0)
    (lost : s.tracker.mode = .noDatum ∨ s.tracker.mode = .lost ∨ 4 ≤ s.web.splices.length) :
    recordSplice s = bumpUnrecorded s := by
  rw [recordSplice, if_neg on]
  by_cases none : s.tracker.mode = .noDatum ∨ s.tracker.mode = .lost
  · rw [if_pos none]
  · rw [if_neg none, if_pos]
    rcases lost with h | h | h
    · exact absurd (.inl h) none
    · exact absurd (.inr h) none
    · exact h

theorem markSpliced_lane (l : Lane) (x : Word32) (s : State) : (markSpliced l x s).lane l = { s.lane l with
    segs := (s.lane l).segs.map (fun g => if inSpan (s.jobOf g) g x then g.flag defSpliced else g) } :=
  State.lane_modLane s l _

theorem markSpliced_lane_ne {l m : Lane} (ne : m ≠ l) (x : Word32) (s : State) : (markSpliced l x s).lane m = s.lane m :=
  State.lane_modLane_ne s l m _ ne

theorem jobOf_markSpliced (l : Lane) (x : Word32) (s : State) (g : Segment) : (markSpliced l x s).jobOf g = s.jobOf g :=
  jobOf_congr (by cases l <;> rfl) g

theorem recordSplice_recorded {s : State} (on : s.setup.spliceDist ≠ 0) (datum : s.tracker.mode ≠ .noDatum)
    (found : s.tracker.mode ≠ .lost) (room : s.web.splices.length < 4) :
    recordSplice s = markSpliced .b (s.tracker.p + pu s.setup.spliceDist) (markSpliced .a (s.tracker.p + pu s.setup.spliceDist)
      { s with web := { s.web with splices := s.web.splices ++ [s.tracker.p + pu s.setup.spliceDist] } }) := by
  rw [recordSplice, if_neg on, if_neg (by rintro (h | h) <;> contradiction), if_neg (by omega)]

/-- A splice changes the splice list, its counter and segments, and nothing else of what follows. -/
structure SpliceKept (s t : State) : Prop where
  tracker : t.tracker = s.tracker
  nip : t.nip = s.nip
  mgmt : t.mgmt = s.mgmt
  web : t.web = { s.web with splices := t.web.splices, unrecorded := t.web.unrecorded }

theorem spliceKept_refl (s : State) : SpliceKept s s := ⟨rfl, rfl, rfl, rfl⟩

theorem spliceKept_recordSplice (s : State) : SpliceKept s (recordSplice s) := by
  unfold recordSplice
  split
  · exact spliceKept_refl s
  · split
    · exact ⟨rfl, rfl, rfl, rfl⟩
    · split <;> exact ⟨rfl, rfl, rfl, rfl⟩

/-- The Web Event Unit's state after a rising splice flag is recorded, not recorded, or not there. -/
def splicedIf (rises : Bool) (s : State) : State := if rises then recordSplice s else s

theorem spliceKept_splicedIf (rises : Bool) (s : State) : SpliceKept s (splicedIf rises s) := by
  cases rises
  · exact spliceKept_refl s
  · exact spliceKept_recordSplice s

/-- The event of a POS sample's flags, its splice having been taken. -/
def flagsTaken (present splice : Bool) (s : State) : State :=
  { splicedIf (splice && !s.web.spliceFlag) (presence present s) with
    web := { (splicedIf (splice && !s.web.spliceFlag) (presence present s)).web with spliceFlag := splice } }

theorem flagsTaken_lane (present splice : Bool) (s : State) (l : Lane) :
    (flagsTaken present splice s).lane l = (splicedIf (splice && !s.web.spliceFlag) (presence present s)).lane l := by
  cases l <;> rfl

theorem presence_lane (present : Bool) (s : State) (l : Lane) : (presence present s).lane l = s.lane l := by
  rw [presence_eq]
  cases l <;> rfl

theorem exec_posSampleFlags (present splice : Bool) (s : State) :
    exec (.posSampleFlags present splice) s = .next (finish (flagsTaken present splice s)) := rfl

theorem flagsTaken_still {present splice : Bool} {s : State}
    (still : splice = false ∨ s.web.spliceFlag = true ∨ s.setup.spliceDist = 0) :
    splicedIf (splice && !s.web.spliceFlag) (presence present s) = presence present s := by
  rcases still with h | h | h
  · simp [splicedIf, h]
  · simp [splicedIf, h]
  · have off : recordSplice (presence present s) = presence present s := recordSplice_off (by rw [presence_eq]; exact h)
    rw [splicedIf, off, ite_self]

theorem flagsTaken_rises {present splice : Bool} {s : State} (up : splice = true) (was : s.web.spliceFlag = false) :
    splicedIf (splice && !s.web.spliceFlag) (presence present s) = recordSplice (presence present s) := by
  simp [splicedIf, up, was]

/-! ## A ROLL descriptor (R166, R167) -/

/-- The media profile and the stretches a ROLL descriptor brings (R166). -/
def rollSeeded (p : Profile) (s : State) : State :=
  { s with
    web := { s.web with profile := some p }
    laneA := { s.laneA with stretch := clampStretch p.stretch.toInt }
    laneB := { s.laneB with stretch := clampStretch p.stretch.toInt } }

theorem exec_rollDescriptor {width : BitVec 16} (low : 1 ≤ width.toNat) (high : width.toNat ≤ 32000) (m : MediaClass)
    (thickness stretch : BitVec 16) (laminate : Bool) (s : State) :
    exec (.rollDescriptor m width thickness stretch laminate) s = .next (finish (takeRoll m width thickness stretch laminate s)) := by
  have range : inRange 1 32000 width.toNat = true := by simp [inRange, low, high]
  exact congrArg _ (if_pos range)

theorem takeRoll_refused {m : MediaClass} {width thickness stretch : BitVec 16} {laminate : Bool} {s : State}
    (held : s.laneA.segs ≠ [] ∨ s.laneB.segs ≠ []) : takeRoll m width thickness stretch laminate s = raise prioRollRefused s := by
  rw [takeRoll, if_neg (by tauto)]

/-- The roll is narrower than a RUNNING lane's far edge (R167). -/
def tooNarrow (width : Nat) (s : State) : Bool := rollNarrow width s.laneA || rollNarrow width s.laneB

/-- What a ROLL descriptor brings, the width warning with it. -/
def rollTaken (p : Profile) (s : State) : State :=
  if tooNarrow p.width.toNat s then raise prioRollRefused (rollSeeded p s) else rollSeeded p s

theorem takeRoll_taken {m : MediaClass} {width thickness stretch : BitVec 16} {laminate : Bool} {s : State}
    (a : s.laneA.segs = []) (b : s.laneB.segs = []) : takeRoll m width thickness stretch laminate s =
      nipChange (rollTaken ⟨m, width, thickness, stretch, laminate⟩ s) := if_pos ⟨a, b⟩

theorem tooNarrow_of {width : Nat} {s : State} {l : Lane} (running : (s.lane l).mode = .running)
    (narrow : width < (s.lane l).record.farEdge) : tooNarrow width s = true := by
  have lane : rollNarrow width (s.lane l) = true := by simp [rollNarrow, running, narrow]
  rw [tooNarrow, Bool.or_eq_true]
  cases l
  · exact .inl lane
  · exact .inr lane

theorem rollTaken_rest (p : Profile) (s : State) : (rollTaken p s).web = (rollSeeded p s).web ∧
    (rollTaken p s).laneA = (rollSeeded p s).laneA ∧ (rollTaken p s).laneB = (rollSeeded p s).laneB ∧
    (rollTaken p s).tracker = s.tracker := by
  unfold rollTaken
  split
  · exact ⟨raise_web _ _, raise_laneA _ _, raise_laneB _ _, raise_tracker _ _⟩
  · exact ⟨rfl, rfl, rfl, rfl⟩

theorem rollTaken_warned {p : Profile} {s : State} (narrow : tooNarrow p.width.toNat s = true) :
    attnHas (rollTaken p s).mgmt.flags prioRollRefused = true := by
  rw [rollTaken, if_pos narrow]
  exact attnHas_raise (by decide) (by decide) _

/-- Settles O24: the flags by whether a splice rises and can be recorded, the descriptor by whether a map holds a segment. -/
theorem webInputsTaken : Obligations.WebInputsTaken := by
  refine ⟨fun s present splice => ?_, fun s m width thickness stretch laminate low high => ?_⟩
  · refine ⟨_, exec_posSampleFlags present splice s, ?_⟩
    have ends := endOfEvent_finish (flagsTaken present splice s)
    have kept := spliceKept_splicedIf (splice && !s.web.spliceFlag) (presence present s)
    have lanes : ∀ l, (finish (flagsTaken present splice s)).lane l =
        (splicedIf (splice && !s.web.spliceFlag) (presence present s)).lane l := fun l => by rw [ends.lane, flagsTaken_lane]
    have web : (finish (flagsTaken present splice s)).web =
        { (splicedIf (splice && !s.web.spliceFlag) (presence present s)).web with spliceFlag := splice } := ends.web
    have tracker := ends.tracker.trans kept.tracker
    have nip := ends.nip.trans kept.nip
    have flags := ends.flags.trans (congrArg Mgmt.flags kept.mgmt)
    generalize finish (flagsTaken present splice s) = t at *
    refine ⟨?_, ?_, ?_, ?_, ?_, ?_, ?_, ?_, fun still => ?_, fun up was on => ⟨fun lost => ?_, fun datum found room => ?_⟩⟩
    · rw [web, kept.web, presence_eq]
    · rw [web]
    · rw [web, kept.web, presence_eq]
    · rw [web, kept.web, presence_eq]
    · rw [web, kept.web, presence_eq]
    · rw [tracker, presence_eq]
    · rw [nip, presence_eq]
    · rw [flags, presence_eq]
    · rw [flagsTaken_still still] at web lanes
      rw [web, presence_eq]
      exact ⟨rfl, rfl, (lanes .a).trans (presence_lane _ s .a), (lanes .b).trans (presence_lane _ s .b)⟩
    · rw [flagsTaken_rises up was, recordSplice_unrecorded (by rw [presence_eq]; exact on) (by rw [presence_eq]; exact lost)]
        at web lanes
      rw [web]
      refine ⟨by rw [presence_eq]; rfl, by rw [presence_eq]; rfl, (lanes .a).trans (presence_lane _ s .a),
        (lanes .b).trans (presence_lane _ s .b)⟩
    · rw [flagsTaken_rises up was, recordSplice_recorded (by rw [presence_eq]; exact on) (by rw [presence_eq]; exact datum)
        (by rw [presence_eq]; exact found) (by rw [presence_eq]; exact room)] at web lanes
      rw [web, presence_eq]
      refine ⟨rfl, rfl, fun l => ?_⟩
      rw [lanes, presence_eq]
      cases l
      · rw [markSpliced_lane_ne (by decide), markSpliced_lane]
        rfl
      · rw [markSpliced_lane, markSpliced_lane_ne (by decide)]
        rfl
  · refine ⟨_, exec_rollDescriptor low high m thickness stretch laminate s, fun held => ?_, fun emptyA emptyB => ?_⟩
    · rw [takeRoll_refused held]
      exact endOfEvent_finish _
    · rw [takeRoll_taken emptyA emptyB]
      obtain ⟨web, laneA, laneB, tracker⟩ := rollTaken_rest ⟨m, width, thickness, stretch, laminate⟩ s
      have warned := fun narrow => rollTaken_warned (p := ⟨m, width, thickness, stretch, laminate⟩) (s := s) narrow
      generalize rollTaken ⟨m, width, thickness, stretch, laminate⟩ s = u at *
      have ends := endOfEvent_finish (nipChange u)
      have work := nipWork_nipChange u
      have inside := inside_nipChange u
      refine ⟨?_, ?_, ?_, ?_, fun ⟨l, running, narrow⟩ => ?_⟩
      · rw [ends.web, work.web, web]
        rfl
      · refine (ends.lane .a).trans ((nipWork_lane_empty work (m := .a) ?_).trans laneA)
        exact (congrArg LaneState.segs laneA).trans emptyA
      · refine (ends.lane .b).trans ((nipWork_lane_empty work (m := .b) ?_).trans laneB)
        exact (congrArg LaneState.segs laneB).trans emptyB
      · exact (ends.tracker.trans inside.tracker).trans tracker
      · rw [ends.flags]
        exact attnHas_mono inside.flags (warned (tooNarrow_of running narrow))

end Sys2Proof.Machine
end

section
/-! PROOFS. Marks turned away: the conversion of a mark, and the tests of cue acceptance one by one (R41, R43, R50 to R56, R58). -/

namespace Sys2Proof.Machine

/-! ## Conversion (R40, R41, R43) -/

section Convert

variable {l : Lane} {shape : MarkShape} {tag : Byte} {c : Word32} {r : Reference} {s : State}

theorem exec_markConversion (l : Lane) (shape : MarkShape) (tag : Byte) (c : Word32) (s : State) :
    exec (.markConversion l shape tag c) s = .next (finish (convertMark l shape tag c s)) := rfl

theorem convertMark_noPosition (none : s.tracker.mode = .noDatum ∨ s.tracker.mode = .lost) :
    convertMark l shape tag c s = markOut s := if_pos none

theorem convertMark_reversed (datum : s.tracker.mode ≠ .noDatum) (found : s.tracker.mode ≠ .lost) (owed : 0 < s.tracker.debt) :
    convertMark l shape tag c s = markReversed s := by
  rw [convertMark, if_neg (by tauto), if_pos owed]

/-- The conditions under which a mark is converted to a web position (R41, R43). -/
structure Convertible (c : Word32) (r : Reference) (s : State) : Prop where
  datum : s.tracker.mode ≠ .noDatum
  found : s.tracker.mode ≠ .lost
  paid : s.tracker.debt = 0
  ref : s.tracker.reference = some r
  near : (sdiff r.count c).natAbs ≤ 65535

theorem convertMark_far (datum : s.tracker.mode ≠ .noDatum) (found : s.tracker.mode ≠ .lost) (paid : s.tracker.debt = 0)
    (ref : s.tracker.reference = some r) (far : 65535 < (sdiff r.count c).natAbs) :
    convertMark l shape tag c s = markOut s := by
  rw [convertMark, if_neg (by tauto), if_neg (by omega)]
  simp only [ref]
  exact if_pos far

/-- The web position of a mark latched at a count (R40). -/
def markedAt (c : Word32) (r : Reference) (s : State) : Word32 := markAt s.tracker.pEnc (sdiff r.count c) s.setup.k

theorem Convertible.taken (h : Convertible c r s) (l : Lane) (shape : MarkShape) (tag : Byte) :
    convertMark l shape tag c s = takeMark l shape tag (markedAt c r s) s := by
  have paid := h.paid
  rw [convertMark, if_neg fun k => k.elim h.datum h.found, if_neg (by omega)]
  simp only [h.ref]
  exact if_neg (not_lt.mpr h.near)

end Convert

/-! ## A mark at a lane (R50, R58) -/

section Mark

variable {l : Lane} {shape : MarkShape} {tag : Byte} {p : Word32} {g : Segment} {s : State}

theorem takeMark_disabled (mode : (s.lane l).mode = .disabled) : takeMark l shape tag p s = s := by
  simp only [takeMark, mode]

theorem takeMark_draining_cue (mode : (s.lane l).mode = .draining) : takeMark l .cue tag p s = bumpRefused l s := by
  simp only [takeMark, mode]

theorem takeMark_cue (mode : (s.lane l).mode = .running) : takeMark l .cue tag p s = takeCue l tag p s := by
  simp only [takeMark, mode]

theorem takeMark_inner (mode : (s.lane l).mode ≠ .disabled) (inner : shape ≠ .cue) :
    takeMark l shape tag p s = takeInnerMark l shape p s := by
  cases m : (s.lane l).mode
  case disabled => exact absurd m mode
  all_goals cases shape <;> first | exact absurd rfl inner | simp only [takeMark, m]

theorem takeInnerMark_none (none : openSeg (s.lane l) = none) : takeInnerMark l shape p s = bumpStray l s := by
  simp only [takeInnerMark, none]

theorem takeInnerMark_open {m : NextMark} (open' : openSeg (s.lane l) = some g) (next : g.next = some m) :
    takeInnerMark l shape p s =
      if marksMatch (s.jobOf g) (s.lane l).record.markTol shape p g m then takeMatch l p g m s else bumpStray l s := by
  simp only [takeInnerMark, open', next]

theorem marksMatch_iff (job : JobDef) (tol : Nat) (shape : MarkShape) (p : Word32) (g : Segment) (m : NextMark) :
    marksMatch job tol shape p g m = true ↔ shape = shapeOf m ∧ (shape = .tail → job.tail = true) ∧
      (sdiff p (g.coord (markOffset job m))).natAbs ≤ tol := by
  simp only [marksMatch, Bool.and_eq_true, Bool.or_eq_true, decide_eq_true_eq, and_assoc]
  tauto

/-! ## The steps of cue acceptance (R52 to R57) -/

/-- The expected tail of a segment less the tolerance, from which a cue passes the segment (R53). -/
def passPoint (l : Lane) (g : Segment) (s : State) : Word32 := expectedTail (s.jobOf g) g - pu (s.lane l).record.markTol

theorem takeCue_unreadable (unreadable : tag = 0#8 ∨ tag = 255#8) :
    takeCue l tag p s = raise prioCueRefused (bumpRefused l s) := if_pos unreadable

theorem takeCue_empty (low : tag ≠ 0#8) (high : tag ≠ 255#8) (empty : newest (s.lane l) = none) :
    takeCue l tag p s = acceptCue l tag p s := by
  rw [takeCue, if_neg (by tauto)]
  simp only [empty]

theorem takeCue_early (low : tag ≠ 0#8) (high : tag ≠ 255#8) (last : newest (s.lane l) = some g)
    (early : reaches p (passPoint l g s) = false) : takeCue l tag p s = bumpStray l s := by
  rw [passPoint] at early
  rw [takeCue, if_neg (by tauto)]
  simp only [last, early, Bool.false_eq_true, if_false]

/-- A cue that reaches the newest segment's expected tail closes it, and is stray where it does not follow its cue (R53, R54). -/
theorem takeCue_passes (low : tag ≠ 0#8) (high : tag ≠ 255#8) (last : newest (s.lane l) = some g)
    (passes : reaches p (passPoint l g s) = true) : takeCue l tag p s =
      if precedes g.pCue p then acceptCue l tag p (closeByCue l g s) else bumpStray l (closeByCue l g s) := by
  rw [passPoint] at passes
  rw [takeCue, if_neg (by tauto)]
  simp only [last, passes, if_true]

theorem closeByCue_of_closed (closed : g.state = .closed) : closeByCue l g s = s := by
  rw [closeByCue, if_neg (by rw [closed]; decide)]

variable {i : Nat} {j : JobRecord}

theorem acceptCue_unheld (none : s.holding tag = none) : acceptCue l tag p s = raise prioCueRefused (bumpRefused l s) := by
  simp only [acceptCue, lookupCue, none]

theorem acceptCue_refused (held : s.holding tag = some i) (slot : s.slot i = some j)
    (refused : laneAdmits j.defn.lane l = false ∨ j.state = .exhausted) :
    acceptCue l tag p s = raise prioCueRefused (bumpRefused l s) := by
  cases admits : laneAdmits j.defn.lane l
  · simp only [acceptCue, lookupCue, held, slot, admits, Bool.false_eq_true, if_false]
  · have exhausted : j.state = .exhausted := refused.resolve_left (by rw [admits]; decide)
    simp only [acceptCue, lookupCue, held, slot, admits, exhausted, if_true]

theorem acceptCue_found (held : s.holding tag = some i) (slot : s.slot i = some j) (admits : laneAdmits j.defn.lane l = true)
    (loaded : j.state = .loaded) : acceptCue l tag p s =
      if hasRoom l j.defn s then register l tag i p j s else raise prioNoRoom (bumpNoRoom l s) := by
  have notExhausted : ¬ JobState.loaded = .exhausted := by decide
  simp only [acceptCue, lookupCue, held, slot, admits, loaded, if_true, if_neg notExhausted]

theorem roomFor_iff (job : JobDef) : roomFor l job s ↔ hasRoom l job s = true := (hasRoom_iff l job s).symm

theorem acceptCue_registers (held : s.holding tag = some i) (slot : s.slot i = some j)
    (admits : laneAdmits j.defn.lane l = true) (loaded : j.state = .loaded) (room : roomFor l j.defn s) :
    acceptCue l tag p s = register l tag i p j s := by
  rw [acceptCue_found held slot admits loaded, if_pos ((roomFor_iff _).mp room)]

theorem acceptCue_full (held : s.holding tag = some i) (slot : s.slot i = some j)
    (admits : laneAdmits j.defn.lane l = true) (loaded : j.state = .loaded) (room : ¬ roomFor l j.defn s) :
    acceptCue l tag p s = raise prioNoRoom (bumpNoRoom l s) := by
  rw [acceptCue_found held slot admits loaded, if_neg fun h => room ((roomFor_iff _).mpr h)]

/-- A cue with a readable tag that finds the map empty or its newest segment passed and CLOSED goes on to the Job Table. -/
theorem takeCue_accepts (low : tag ≠ 0#8) (high : tag ≠ 255#8)
    (passed : ∀ g, newest (s.lane l) = some g → g.state = .closed ∧ reaches p (passPoint l g s) = true ∧ precedes g.pCue p = true) :
    takeCue l tag p s = acceptCue l tag p s := by
  cases last : newest (s.lane l) with
  | none => exact takeCue_empty low high last
  | some g =>
    obtain ⟨closed, passes, follows⟩ := passed g last
    rw [takeCue_passes low high last passes, if_pos follows, closeByCue_of_closed closed]

end Mark

/-- Settles O17: each test of the conversion, of the cue and of the inner mark, in the order in which they decide. -/
theorem markTurnedAway : Obligations.MarkTurnedAway := by
  intro s l shape tag c
  refine ⟨_, exec_markConversion l shape tag c s, fun out => ?_, fun datum found owed => ?_,
    fun r datum found paid ref near => ?_⟩
  · have isOut : convertMark l shape tag c s = markOut s := by
      by_cases none : s.tracker.mode = .noDatum ∨ s.tracker.mode = .lost
      · exact convertMark_noPosition none
      · obtain ⟨paid, r, ref, far⟩ := (out.resolve_left fun h => none (.inl h)).resolve_left fun h => none (.inr h)
        exact convertMark_far (fun h => none (.inl h)) (fun h => none (.inr h)) paid ref far
    rw [isOut]
    exact endOfEvent_finish _
  · rw [convertMark_reversed datum found owed]
    exact endOfEvent_finish _
  · have convertible : Convertible c r s := ⟨datum, found, paid, ref, near⟩
    rw [convertible.taken l shape tag]
    refine ⟨fun mode => ?_, fun mode cue => ?_, fun mode cue => ⟨fun unreadable => ?_, fun low high => ⟨?_, ?_, ?_⟩⟩,
      fun mode inner => ⟨fun none => ?_, fun g m open' next fails => ?_⟩⟩
    · rw [takeMark_disabled mode]
      exact endOfEvent_finish _
    · subst cue
      rw [takeMark_draining_cue mode]
      exact endOfEvent_finish _
    · subst cue
      rw [takeMark_cue mode, takeCue_unreadable unreadable]
      exact endOfEvent_finish _
    · intro g last early
      subst cue
      rw [takeMark_cue mode, takeCue_early (p := markedAt c r s) low high last early]
      exact endOfEvent_finish _
    · intro g last closed passes behind
      subst cue
      have follows : ¬ precedes g.pCue (markedAt c r s) = true := by
        show ¬ precedes g.pCue (markAt _ _ _) = true
        rw [behind]
        decide
      rw [takeMark_cue mode, takeCue_passes (p := markedAt c r s) low high last passes, if_neg follows, closeByCue_of_closed closed]
      exact endOfEvent_finish _
    · intro passed
      subst cue
      rw [takeMark_cue mode, takeCue_accepts (p := markedAt c r s) low high passed]
      refine ⟨fun none => ?_, fun i j held slot => ⟨fun refused => ?_, fun admits loaded room => ?_⟩⟩
      · rw [acceptCue_unheld none]
        exact endOfEvent_finish _
      · rw [acceptCue_refused held slot refused]
        exact endOfEvent_finish _
      · rw [acceptCue_full held slot admits loaded room]
        exact endOfEvent_finish _
    · rw [takeMark_inner mode inner, takeInnerMark_none none]
      exact endOfEvent_finish _
    · have stray : ¬ marksMatch (s.jobOf g) (s.lane l).record.markTol shape (markedAt c r s) g m = true := by
        rw [marksMatch_iff]
        rintro ⟨same, tail, close⟩
        rcases fails with other | ⟨isTail, noTail⟩ | far
        · exact other same
        · rw [tail isTail] at noTail
          exact absurd noTail (by decide)
        · exact absurd close (not_le.mpr far)
      rw [takeMark_inner mode inner, takeInnerMark_open open' next, if_neg stray]
      exact endOfEvent_finish _

end Sys2Proof.Machine
end

section
/-! PROOFS. What the issue tests give back to the Job Table, and the registration of a cue (R16, R17, R40, R57, R81, R85, R150). -/

namespace Sys2Proof.Machine

/-! ## Uses of job records given back (R17, R87) -/

/-- Every slot holds the record it held, but for uses given back. -/
def SlotsKept (s t : State) : Prop := ∀ i r, s.slot i = some r → ∃ n ≤ r.inUse, t.slot i = some { r with inUse := n }

theorem slotsKept_of_jobs {s t : State} (h : t.jobs = s.jobs) : SlotsKept s t :=
  fun i r hr => ⟨r.inUse, Nat.le_refl _, by rw [State.slot, h]; exact hr⟩

theorem SlotsKept.trans {s t u : State} (h : SlotsKept s t) (k : SlotsKept t u) : SlotsKept s u := by
  intro i r hr
  obtain ⟨n, less, ht⟩ := h i r hr
  obtain ⟨m, fewer, hu⟩ := k i _ ht
  exact ⟨m, fewer.trans less, hu⟩

/-- Work on a lane: its map after it, and the uses of job records it gives back, none while every segment of the map is OPEN. -/
structure Gives (l : Lane) (s t : State) : Prop where
  map : MapAfter l s t
  slots : SlotsKept s t
  none : (∀ g ∈ (s.lane l).segs, g.state = .opened) → t.jobs = s.jobs

section Gives

variable {l : Lane} {s t u : State}

theorem gives_of_jobs (map : MapAfter l s t) (jobs : t.jobs = s.jobs) : Gives l s t :=
  ⟨map, slotsKept_of_jobs jobs, fun _ => jobs⟩

theorem Gives.refl (l : Lane) (s : State) : Gives l s s := gives_of_jobs (.refl l s) rfl

theorem MapAfter.allOpen (h : MapAfter l s t) (all : ∀ g ∈ (s.lane l).segs, g.state = .opened) :
    ∀ g ∈ (t.lane l).segs, g.state = .opened := by
  obtain ⟨p, f, e, grown, -⟩ := h.segs
  intro g hg
  rw [e] at hg
  obtain ⟨x, hx, rfl⟩ := List.mem_map.mp hg
  rw [(grown x).state]
  exact all x (List.mem_filter.mp hx).1

theorem Gives.trans (h : Gives l s t) (k : Gives l t u) : Gives l s u :=
  ⟨h.map.trans k.map, h.slots.trans k.slots, fun all => (k.none (h.map.allOpen all)).trans (h.none all)⟩

theorem NipWork.gives (map : MapAfter l s t) (h : NipWork s t) : Gives l s t := gives_of_jobs map h.jobs

theorem slotsKept_leaveMap (l : Lane) (c : Cause) (g : Segment) (s : State) : SlotsKept s (leaveMap l c g s) := by
  intro i r hr
  have left : (leaveMap l c g s).slot i = (s.modSlot g.slot (fun r => { r with inUse := r.inUse - 1 })).slot i := by
    rw [State.slot, State.slot, leaveMap_jobs]
    rfl
  rw [left, slot_map]
  by_cases same : g.slot = i
  · exact ⟨r.inUse - 1, Nat.sub_le _ _, by rw [if_pos same, hr]; rfl⟩
  · exact ⟨r.inUse, Nat.le_refl _, by rw [if_neg same, hr]⟩

theorem gives_retireTest (l : Lane) (id : Nat) (s : State) : Gives l s (retireTest l id s) := by
  refine ⟨mapAfter_retireTest l l id s, ?_, fun all => ?_⟩
  · unfold retireTest
    split
    · split
      · exact (slotsKept_leaveMap _ _ _ s).trans (slotsKept_of_jobs (nipWork_nipChangeIf _ _).jobs)
      · exact slotsKept_of_jobs rfl
    · exact slotsKept_of_jobs rfl
  · unfold retireTest
    split
    · next g found =>
      have opened := all g (seg?_mem found).1
      rw [if_neg (by simp [retirable, opened])]
    · rfl

theorem flagOwner_jobs (l : Lane) (act : Action) (d : BitVec 12) (s : State) : (flagOwner l act d s).jobs = s.jobs := by
  unfold flagOwner
  split
  · exact flagSeg_jobs _ _ _ _
  · rfl

theorem flagEstimated_jobs (l : Lane) (act : Action) (s : State) : (flagEstimated l act s).jobs = s.jobs := by
  unfold flagEstimated
  split
  · split
    · exact flagSeg_jobs _ _ _ _
    · rfl
  · rfl

theorem modSeg_jobs (l : Lane) (id : Nat) (f : Segment → Segment) (s : State) : (s.modSeg l id f).jobs = s.jobs := by
  simp [State.modSeg]

theorem trimFinal_jobs (l : Lane) (key : Nat) (done : Bool) (s : State) : (trimFinal l key done s).jobs = s.jobs := by
  unfold trimFinal
  dsimp only
  split <;> simp

theorem popCut_jobs (l : Lane) (s : State) : (popCut l s).jobs = s.jobs := by cases l <;> rfl
theorem popTrim_jobs (l : Lane) (s : State) : (popTrim l s).jobs = s.jobs := by cases l <;> rfl

theorem gives_popCut (l : Lane) (s : State) : Gives l s (popCut l s) := gives_of_jobs (mapAfter_popCut l l s) (popCut_jobs l s)
theorem gives_popTrim (l : Lane) (s : State) : Gives l s (popTrim l s) := gives_of_jobs (mapAfter_popTrim l l s) (popTrim_jobs l s)

theorem gives_raise (l : Lane) (p : Nat) (s : State) : Gives l s (raise p s) :=
  gives_of_jobs (mapAfter_raise l p s) (raise_jobs p s)

theorem gives_flagOwner (l : Lane) (act : Action) (d : BitVec 12) (s : State) : Gives l s (flagOwner l act d s) :=
  gives_of_jobs (mapAfter_flagOwner l l act d s) (flagOwner_jobs l act d s)

theorem gives_mapFinal (l : Lane) (act : Action) (fin : FinalState) (s : State) : Gives l s (mapFinal l act fin s) := by
  unfold mapFinal
  split
  · exact (gives_of_jobs (mapAfter_modSeg l l _ _ (grown_tally _ _) s) (modSeg_jobs _ _ _ s)).trans (gives_retireTest l _ _)
  · exact .refl l s

theorem gives_knifeFinal (l : Lane) (act : Action) (fin : FinalState) (s : State) : Gives l s (knifeFinal l act fin s) :=
  (gives_of_jobs (mapAfter_trimFinal l l _ _ s) (trimFinal_jobs l _ _ s)).trans (gives_mapFinal l act fin _)

theorem issueCut_jobs (l : Lane) (act : Action) (s : State) : (issueCut l act s).jobs = s.jobs := by
  have issued : ∀ delay, (flagEstimated l act (issueCore (cutterOf l) act delay 0 (popCut l s))).jobs = s.jobs := fun delay =>
    (flagEstimated_jobs l act _).trans ((issueCore_jobs _ _ _ _ _).trans (popCut_jobs l s))
  unfold issueCut
  dsimp only
  split
  · split
    · rw [modSeg_jobs, issued]
    · rw [issued]
  · rw [issued]

theorem issueKnife_jobs (l : Lane) (act : Action) (s : State) : (issueKnife l act s).jobs = s.jobs :=
  (modSeg_jobs l act.key _ _).trans ((flagEstimated_jobs l act _).trans ((issueCore_jobs _ _ _ _ _).trans (popTrim_jobs l s)))

theorem gives_skipCut (l : Lane) (act : Action) (s : State) : Gives l s (skipCut l act s) :=
  (((gives_popCut l s).trans (gives_flagOwner l act _ _)).trans (gives_raise l _ _)).trans (gives_mapFinal l act _ _)

theorem gives_cancelCut (l : Lane) (act : Action) (s : State) : Gives l s (cancelCut l act s) :=
  (((gives_popCut l s).trans (gives_flagOwner l act _ _)).trans (gives_raise l _ _)).trans (gives_mapFinal l act _ _)

theorem gives_cancelKnife (l : Lane) (act : Action) (s : State) : Gives l s (cancelKnife l act s) :=
  (((gives_popTrim l s).trans (gives_flagOwner l act _ _)).trans (gives_raise l _ _)).trans (gives_knifeFinal l act _ _)

theorem gives_cutTestN (l : Lane) (n : Nat) (s : State) : Gives l s (cutTestN l n s) := by
  induction n generalizing s with
  | zero => exact .refl l s
  | succ n ih =>
    unfold cutTestN
    split
    · exact .refl l s
    · split
      · exact .refl l s
      · exact gives_of_jobs (mapAfter_issueCut l l _ s) (issueCut_jobs l _ s)
      · exact (gives_skipCut l _ s).trans (ih _)
      · exact (gives_cancelCut l _ s).trans (ih _)

theorem gives_trimTestN (l : Lane) (n : Nat) (s : State) : Gives l s (trimTestN l n s) := by
  induction n generalizing s with
  | zero => exact .refl l s
  | succ n ih =>
    unfold trimTestN
    split
    · exact .refl l s
    · split
      · exact .refl l s
      · exact gives_of_jobs (mapAfter_issueKnife l l _ s) (issueKnife_jobs l _ s)
      · exact .refl l s
      · exact (gives_cancelKnife l _ s).trans (ih _)

/-- A station that works for a lane: its cutter, its trim station, or LAM. -/
def WorksFor (l : Lane) (st : Station) : Prop := st = cutterOf l ∨ st = trimmerOf l ∨ st = .lam

theorem gives_issueTest {l : Lane} {st : Station} (works : WorksFor l st) (s : State) : Gives l s (issueTest st s) := by
  rcases works with rfl | rfl | rfl
  · cases l
    · exact gives_cutTestN .a _ s
    · exact gives_cutTestN .b _ s
  · cases l
    · exact gives_trimTestN .a _ s
    · exact gives_trimTestN .b _ s
  · exact (nipWork_lamTest s).gives (mapAfter_lamTest l s)

theorem gives_issueTests {l : Lane} {sts : List Station} (works : ∀ st ∈ sts, WorksFor l st) (s : State) :
    Gives l s (issueTests sts s) := by
  have fold : ∀ (xs : List Station) (u : State), (∀ st ∈ xs, WorksFor l st) →
      Gives l u (xs.foldl (fun acc st => issueTest st acc) u) := by
    intro xs
    induction xs with
    | nil => exact fun u _ => .refl l u
    | cons st xs ih => exact fun u each => (gives_issueTest (each st (by simp)) u).trans (ih _ fun x hx => each x (by simp [hx]))
  have turned : Gives l s s.dropTurn := gives_of_jobs (mapAfter_eq (by cases l <;> rfl)) rfl
  exact turned.trans (fold _ _ fun st hst => works st (mem_arrange.mp hst))

theorem touched_worksFor {l : Lane} {misses zoned : Bool} : ∀ st ∈ touched l misses zoned, WorksFor l st := by
  intro st hst
  cases misses <;> cases zoned <;> simp [touched] at hst <;> simp [WorksFor] <;> tauto

end Gives

/-! ## A registration (R57, R81) -/

section Register

variable (l : Lane) (tag : Byte) (slot : Nat) (p : Word32) (r : JobRecord) (s : State)

/-- The registration makes zone entries: LAM is configured and the job has zones (R83). -/
def makesZones (job : JobDef) (s : State) : Bool := s.lam.configured && !job.zones.isEmpty

/-- The segment a registration creates. -/
def created : Segment := newSegment l tag slot p r.defn (takeCopy r).registered s

/-- The state with the segment and its work entered, before the plan is recomputed and the stations are tested. -/
def entered : State := if makesZones r.defn s then enrollZones l tag slot p r s else enroll l tag slot p r s

theorem register_entered : register l tag slot p r s =
    issueTests (touched l (trimMisses l r.defn s) (makesZones r.defn s))
      (if makesZones r.defn s then recompute (entered l tag slot p r s) else entered l tag slot p r s) := by
  rw [register_eq]
  unfold entered makesZones
  split <;> rfl

theorem entered_lane : (entered l tag slot p r s).lane l =
    addToLane (created l tag slot p r s) r.defn (trimMisses l r.defn s) (knifeTarget l s) (s.lane l) := by
  have zones : (enrollZones l tag slot p r s).lane l = (enroll l tag slot p r s).lane l := by cases l <;> rfl
  unfold entered
  split
  · rw [zones, enroll_lane]
    rfl
  · rw [enroll_lane]
    rfl

theorem entered_segs : ((entered l tag slot p r s).lane l).segs = (s.lane l).segs ++ [created l tag slot p r s] := by
  rw [entered_lane, addToLane_segs]

theorem entered_jobs : (entered l tag slot p r s).jobs = (s.modSlot slot takeCopy).jobs := by
  have enrolled : (enroll l tag slot p r s).jobs = (s.modSlot slot takeCopy).jobs := by
    unfold enroll
    dsimp only
    split <;> simp
  unfold entered
  split
  · exact enrolled
  · exact enrolled

theorem gives_register : Gives l (entered l tag slot p r s) (register l tag slot p r s) := by
  rw [register_entered]
  refine Gives.trans ?_ (gives_issueTests touched_worksFor _)
  split
  · exact (nipWork_recompute _).gives (mapAfter_recompute l _)
  · exact .refl l _

theorem aside_register : Aside (fun k => ∃ st, k = .station st) (entered l tag slot p r s) (register l tag slot p r s) := by
  rw [register_entered]
  refine Aside.trans ?_ (aside_issueTests (fun st _ => ⟨st, rfl⟩) _)
  split
  · exact (nipWork_recompute _).aside
  · exact .refl _

variable {l tag slot p r s}

theorem created_id : (created l tag slot p r s).id = s.nextSeg := rfl

theorem created_alone (fresh : ∀ h ∈ (s.lane l).segs, h.id < s.nextSeg) :
    ∀ h ∈ ((entered l tag slot p r s).lane l).segs, h.id = s.nextSeg → h = created l tag slot p r s := by
  intro h hh same
  rw [entered_segs] at hh
  rcases List.mem_append.mp hh with old | new
  · exact absurd (fresh h old) (by omega)
  · exact List.mem_singleton.mp new

/-- The newest segment after a registration is the one created, its registration flags as they were (R57, R85). -/
theorem register_newest (fresh : ∀ h ∈ (s.lane l).segs, h.id < s.nextSeg) :
    ∃ g, newest ((register l tag slot p r s).lane l) = some g ∧ Grown (created l tag slot p r s) g ∧
      g.flags &&& registeredFlags = (created l tag slot p r s).flags &&& registeredFlags := by
  have alone := created_alone (tag := tag) (slot := slot) (p := p) (r := r) fresh
  obtain ⟨older, g, segs, grown, -⟩ := (gives_register l tag slot p r s).map.newest (entered_segs l tag slot p r s)
    (fun h hh same => by rw [alone h hh same]; rfl)
  have mem : g ∈ ((register l tag slot p r s).lane l).segs := by rw [segs]; simp
  obtain ⟨h, hh, traces⟩ := (aside_register l tag slot p r s).segs l g mem
  have same : h = created l tag slot p r s := alone h hh (traces.id.symm.trans grown.id)
  refine ⟨g, by rw [newest, segs, List.getLast?_concat], grown, ?_⟩
  rw [traces.registered, same]

theorem takeCopy_eq (loaded : r.state = .loaded) : takeCopy r = { r with
    remaining := if r.defn.copies = 0 then r.remaining else r.remaining - 1
    state := if r.defn.copies ≠ 0 ∧ r.remaining ≤ 1 then .exhausted else .loaded
    registered := min (r.registered + 1) 65535
    inUse := r.inUse + 1 } := by
  rw [takeCopy, loaded]
  rfl

theorem entered_slot (held : s.slot slot = some r) : (entered l tag slot p r s).slot slot = some (takeCopy r) := by
  have left : (entered l tag slot p r s).slot slot = (s.modSlot slot takeCopy).slot slot := by
    rw [State.slot, State.slot, entered_jobs]
  rw [left, slot_map, if_pos rfl, held]
  rfl

end Register

/-! ## The defect flags of a registration (R84, R85, R150) -/

/-- The defect flags a registration sets, by what it finds. -/
theorem registration_flags (lam trim clamped spliced : Bool) :
    ((if lam = true then defLamShort else 0#12) ||| (if trim = true then defTrimShort else 0#12) |||
        (if clamped = true then defTrimClamped else 0#12) ||| (if spliced = true then defSpliced else 0#12)) &&& registeredFlags =
      (if clamped = true then defTrimClamped else 0#12) ||| (if spliced = true then defSpliced else 0#12) := by
  revert lam trim clamped spliced
  decide

theorem registered_spliced {f : BitVec 12} {clamped spliced : Bool}
    (h : f &&& registeredFlags = (if clamped = true then defTrimClamped else 0#12) ||| (if spliced = true then defSpliced else 0#12)) :
    f &&& defSpliced = if spliced = true then defSpliced else 0#12 := by
  have part : defSpliced = registeredFlags &&& defSpliced := by decide
  rw [part, ← BitVec.and_assoc, h]
  clear h f
  revert clamped spliced
  decide

theorem registered_clamped {f : BitVec 12} {clamped spliced : Bool}
    (h : f &&& registeredFlags = (if clamped = true then defTrimClamped else 0#12) ||| (if spliced = true then defSpliced else 0#12)) :
    f &&& defTrimClamped = if clamped = true then defTrimClamped else 0#12 := by
  have part : defTrimClamped = registeredFlags &&& defTrimClamped := by decide
  rw [part, ← BitVec.and_assoc, h]
  clear h f
  revert clamped spliced
  decide

theorem trimClamped_some {r : LaneRecord} {job : JobDef} {n f : Nat} (edges : r.nearEdge ≤ r.farEdge) (trim : job.trim = some (n, f)) :
    trimClamped r job = true ↔ r.farEdge < r.nearEdge + n ∨ r.farEdge < r.nearEdge + f := by
  have clamps : ∀ k, clampNat r.nearEdge r.farEdge (r.nearEdge + k) ≠ r.nearEdge + k ↔ r.farEdge < r.nearEdge + k := fun k => by
    unfold clampNat
    omega
  simp only [trimClamped, trim, clampedTrim, Bool.or_eq_true, decide_eq_true_eq, clamps]

/-- Settles O18: the cue passes every test, and what a registration enters stays as the newest segment of the map. -/
theorem cueRegistersSegment : Obligations.CueRegistersSegment := by
  intro s l tag c r i j datum found paid ref near mode low high held slot admits loaded room fresh passed
  have convertible : Convertible c r s := ⟨datum, found, paid, ref, near⟩
  have registers : convertMark l .cue tag c s = register l tag i (markedAt c r s) j s := by
    rw [convertible.taken, takeMark_cue mode, takeCue_accepts (p := markedAt c r s) low high passed,
      acceptCue_registers held slot admits loaded room]
  have ends := endOfEvent_finish (register l tag i (markedAt c r s) j s)
  obtain ⟨g, newest, grown, flags⟩ := register_newest (tag := tag) (slot := i) (p := markedAt c r s) (r := j) fresh
  have bits := flags.trans (registration_flags _ _ _ _)
  have coord : ∀ x, g.coord x = (created l tag i (markedAt c r s) j s).coord x := fun x => by
    simp only [Segment.coord, grown.anchorP, grown.anchorX, grown.stretch]
  have jobs : ∀ k, (finish (register l tag i (markedAt c r s) j s)).slot k = (register l tag i (markedAt c r s) j s).slot k :=
    fun k => by rw [State.slot, State.slot, ends.jobs]
  have gives := gives_register l tag i (markedAt c r s) j s
  refine ⟨finish (register l tag i (markedAt c r s) j s), g, by rw [exec_markConversion, registers], by rw [ends.lane, newest],
    grown.tag, grown.slot, grown.ordinal, grown.pCue, grown.anchorP.trans grown.pCue.symm, grown.anchorX, grown.stretch,
    grown.state, grown.next, ?_, fun edges => ?_, ?_, fun empty => ?_⟩
  · rw [registered_spliced bits, grown.pCue]
    simp only [coord]
    rfl
  · rw [registered_clamped bits]
    cases trim : j.defn.trim with
    | none => simp [trimClamped, trim]
    | some nf => simp only [trimClamped_some edges trim]
  · obtain ⟨n, less, left⟩ := gives.slots i _ (entered_slot slot)
    refine ⟨_, (jobs i).trans left, rfl, less, rfl, ?_, rfl⟩
    rw [takeCopy_eq loaded]
  · have none := gives.none fun h hh => by
      rw [entered_segs, empty] at hh
      rw [List.mem_singleton.mp hh]
      rfl
    rw [jobs, State.slot, none, ← State.slot, entered_slot slot, takeCopy_eq loaded]

end Sys2Proof.Machine
end

section
/-! PROOFS. The closing of a segment by a passed window or a passing cue (R53, R59, R60, R87). -/

namespace Sys2Proof.Machine

/-! ## Missed marks and the closing (R53, R59, R60) -/

section Closing

variable (l : Lane) (id k : Nat) (s : State)

theorem missMarks_lane : (missMarks l id k s).lane l = { s.lane l with
    segs := (s.lane l).segs.map (fun g => if g.id = id then { g with flags := if k = 0 then g.flags else g.flags ||| defMarkMissed }
      else g)
    missedMarks := if k = 0 then (s.lane l).missedMarks else min ((s.lane l).missedMarks + k) 65535 } := by
  by_cases none : k = 0
  · have same : ∀ g : Segment, (if g.id = id then { g with flags := g.flags } else g) = g := fun g => ite_self g
    simp only [missMarks, none, if_true, same, List.map_id']
  · simp only [missMarks, if_neg none, raise_lane, State.lane_modLane, flagSeg, State.modSeg]
    rfl

theorem missMarks_none : missMarks l id 0 s = s := if_pos rfl

/-- A segment as its closing leaves it, `k` marks of it missed (R60). -/
def closedWith (g : Segment) : Segment :=
  { g with flags := if k = 0 then g.flags else g.flags ||| defMarkMissed, state := .closed, next := none }

/-- The state with a segment CLOSED and `k` marks of it missed, before its retirement test. -/
def closing : State := (missMarks l id k s).modSeg l id (fun g => { g with state := .closed, next := none })

theorem closeSeg_missed : closeSeg l id (missMarks l id k s) = retireTest l id (closing l id k s) := rfl

theorem closing_lane : (closing l id k s).lane l = { s.lane l with
    segs := (s.lane l).segs.map (fun g => if g.id = id then closedWith k g else g)
    missedMarks := if k = 0 then (s.lane l).missedMarks else min ((s.lane l).missedMarks + k) 65535 } := by
  rw [closing, State.modSeg, State.lane_modLane, missMarks_lane]
  dsimp only
  rw [List.map_map]
  congr 1
  refine List.map_congr_left fun g _ => ?_
  by_cases same : g.id = id <;> simp [same, closedWith]

theorem closing_flag (some : 0 < k) : attnHas (closing l id k s).mgmt.flags prioMarkMissed = true := by
  have mgmt : (closing l id k s).mgmt = (missMarks l id k s).mgmt := by simp [closing, State.modSeg]
  rw [mgmt, missMarks, if_neg (by omega)]
  exact attnHas_raise (by decide) (by decide) _

variable {l id k s}

theorem retireTest_stays (busy : ∀ h ∈ (s.lane l).segs, h.id = id → retirable h = false) : retireTest l id s = s := by
  unfold retireTest
  split
  · next h found =>
    obtain ⟨mem, same⟩ := seg?_mem found
    rw [busy h mem same]
    rfl
  · rfl

theorem retireTest_retires {h : Segment} (found : s.seg? l id = some h) (idle : retirable h = true) :
    retireTest l id s = retire l h s := by simp only [retireTest, found, idle, if_true]

theorem seg?_last {older : List Segment} {g : Segment} (segs : (s.lane l).segs = older ++ [g]) (alone : ∀ h ∈ older, h.id ≠ g.id) :
    s.seg? l g.id = some g := by
  have none : older.find? (fun h => h.id == g.id) = none := List.find?_eq_none.mpr fun h hh => by simp [alone h hh]
  simp [State.seg?, segs, List.find?_append, none]

theorem map_last {older : List Segment} {g : Segment} (f : Segment → Segment) (alone : ∀ h ∈ older, h.id ≠ g.id) :
    (older ++ [g]).map (fun h => if h.id = g.id then f h else h) = older ++ [f g] := by
  rw [List.map_append]
  congr 1
  · rw [List.map_congr_left (g := fun h => h) fun h hh => if_neg (alone h hh), List.map_id']
  · simp

theorem filter_last {older : List Segment} {g : Segment} (alone : ∀ h ∈ older, h.id ≠ g.id) :
    (older ++ [g]).filter (fun h => h.id ≠ g.id) = older := by
  rw [List.filter_append, List.filter_eq_self.mpr fun h hh => by simpa using alone h hh]
  simp

/-- The map after the closing of its newest segment. -/
theorem closing_segs {older : List Segment} {g : Segment} (segs : (s.lane l).segs = older ++ [g])
    (alone : ∀ h ∈ older, h.id ≠ g.id) : ((closing l g.id k s).lane l).segs = older ++ [closedWith k g] := by
  rw [closing_lane, segs]
  exact map_last (closedWith k) alone

/-- With no unfinished work the closed segment retires in the closing (R87). -/
theorem closeSeg_retires {older : List Segment} {g : Segment} (segs : (s.lane l).segs = older ++ [g])
    (alone : ∀ h ∈ older, h.id ≠ g.id) (idle : g.unfinished = 0) :
    closeSeg l g.id (missMarks l g.id k s) = retire l (closedWith k g) (closing l g.id k s) := by
  have idle1 : retirable (closedWith k g) = true := by simp [retirable, closedWith, idle]
  have found : (closing l g.id k s).seg? l g.id = some (closedWith k g) :=
    seg?_last (g := closedWith k g) (closing_segs segs alone) alone
  rw [closeSeg_missed, retireTest_retires found idle1]

theorem closeSeg_stays (busy : ∀ h ∈ (s.lane l).segs, h.id = id → 0 < h.unfinished) :
    closeSeg l id (missMarks l id k s) = closing l id k s := by
  rw [closeSeg_missed, retireTest_stays]
  intro h hh same
  rw [closing_lane] at hh
  obtain ⟨x, hx, rfl⟩ := List.mem_map.mp hh
  by_cases e : x.id = id
  · have work := busy x hx e
    simp only [if_pos e, retirable, closedWith, Bool.and_eq_false_iff, decide_eq_false_iff_not]
    exact .inr (by omega)
  · rw [if_neg e] at same
    exact absurd same e

end Closing

/-! ## Retirement within a longer event -/

section RollKept

variable {l : Lane} {s t u : State}

theorem rollKept_raise (l : Lane) (p : Nat) (s : State) : RollKept l s (raise p s) :=
  (nipWork_raise p s).rollKept (inside_raise p s) l

/-- A change of a lane that keeps its mode and its segments' serials. -/
theorem rollKept_modLane (l : Lane) (f : LaneState → LaneState) (s : State)
    (ids : (f (s.lane l)).segs.map (fun x => x.id) = (s.lane l).segs.map (fun x => x.id))
    (mode : (f (s.lane l)).mode = (s.lane l).mode) : RollKept l s (s.modLane l f) := by
  constructor
  case ids => rw [State.lane_modLane, ids]
  case mode => rw [State.lane_modLane, mode]
  case flags =>
    have mgmt : (s.modLane l f).mgmt = s.mgmt := by simp
    rw [mgmt]
    exact BitVec.or_self
  all_goals simp

theorem rollKept_modSeg (l : Lane) (id : Nat) (f : Segment → Segment) (s : State) (keeps : ∀ g, (f g).id = g.id) :
    RollKept l s (s.modSeg l id f) := by
  refine rollKept_modLane l _ s ?_ rfl
  rw [List.map_map]
  refine List.map_congr_left fun g _ => ?_
  show (if g.id = id then f g else g).id = g.id
  split
  · exact keeps g
  · rfl

theorem rollKept_missMarks (l : Lane) (id k : Nat) (s : State) : RollKept l s (missMarks l id k s) := by
  unfold missMarks
  split
  · exact .refl l s
  · exact ((rollKept_modSeg l id (Segment.flag defMarkMissed) s fun _ => rfl).trans
      (rollKept_modLane l (fun x => { x with missedMarks := bumpBy k x.missedMarks }) _ rfl rfl)).trans (rollKept_raise l _ _)

theorem rollKept_closing (l : Lane) (id k : Nat) (s : State) : RollKept l s (closing l id k s) :=
  (rollKept_missMarks l id k s).trans (rollKept_modSeg l id _ _ fun _ => rfl)

/-- A retirement seen from an earlier state whose map, reports and records are as those it is made from. -/
theorem Retired.earlier {h : Segment} (kept : RollKept l s t) (retired : Retired l h t u) : Retired l h s u := by
  have others : (t.lane l).segs.map (fun x => x.id) = (s.lane l).segs.map (fun x => x.id) := kept.ids
  have filtered : ((t.lane l).segs.filter (fun x => x.id ≠ h.id)).map (fun x => x.id) =
      ((s.lane l).segs.filter (fun x => x.id ≠ h.id)).map (fun x => x.id) := by
    have through : ∀ xs : List Segment, (xs.filter (fun x => x.id ≠ h.id)).map (fun x => x.id) =
        (xs.map (fun x => x.id)).filter (fun k => k ≠ h.id) := fun xs => by
      rw [List.filter_map]
      rfl
    rw [through, through, others]
  have all : (∀ x ∈ (t.lane l).segs, x.id = h.id) ↔ ∀ x ∈ (s.lane l).segs, x.id = h.id := by
    have through : ∀ xs : List Segment, (∀ x ∈ xs, x.id = h.id) ↔ ∀ k ∈ xs.map (fun x => x.id), k = h.id := by simp
    rw [through, through, others]
  have job : t.jobOf h = s.jobOf h := jobOf_congr kept.jobs h
  have room : ownRoom t = ownRoom s := ownRoom_congr kept.north
  obtain ⟨ids, mode, jobs, zones⟩ := retired.leaves
  constructor
  case leaves =>
    refine ⟨ids.trans filtered, ?_, by rw [jobs, kept.jobs], by rw [zones, kept.zones]⟩
    rw [mode, kept.mode]
    simp only [all]
  case report =>
    have report := retired.report
    rw [job, kept.reports, kept.reportsLost, room] at report
    exact report
  case silent =>
    have silent := retired.silent
    rw [job, kept.reports, kept.reportsLost] at silent
    exact silent

end RollKept

/-! ## WINDOW_EXPIRY (R59, R60) -/

section Windows

variable {l : Lane} {n : Nat} {s : State} {g : Segment}

theorem openSeg_spec (h : openSeg (s.lane l) = some g) : ∃ older, (s.lane l).segs = older ++ [g] ∧ g.state = .opened := by
  unfold openSeg newest at h
  cases last : (s.lane l).segs.getLast? with
  | none => simp [last] at h
  | some x =>
    rw [last] at h
    by_cases opened : x.state = .opened
    · simp only [opened, if_true, Option.some.injEq] at h
      subst h
      exact ⟨(s.lane l).segs.dropLast, (List.dropLast_append_getLast? x last).symm, opened⟩
    · simp [opened] at h

theorem openSeg_last {x : LaneState} {older : List Segment} (segs : x.segs = older ++ [g]) (opened : g.state = .opened) :
    openSeg x = some g := by simp [openSeg, newest, segs, opened]

theorem expireN_pitch {i : Nat} (open' : openSeg (s.lane l) = some g) (next : g.next = some (.pitch i))
    (passed : windowPassed (s.jobOf g) (s.lane l).record.markTol s.tracker.p g (.pitch i) = true) :
    expireN l (n + 1) s = expireN l n (setNext l g.id (afterPitch (s.jobOf g) i) (missMarks l g.id 1 s)) := by
  simp only [expireN, open', next, passed, if_true]

theorem expireN_waits {m : NextMark} (open' : openSeg (s.lane l) = some g) (next : g.next = some m)
    (waits : windowPassed (s.jobOf g) (s.lane l).record.markTol s.tracker.p g m = false) : expireN l (n + 1) s = s := by
  simp only [expireN, open', next, waits, Bool.false_eq_true, if_false]

/-- The marks missed where a passed window is the tail's: one, where the job has a tail mark (R59). -/
def tailMissed (job : JobDef) : Nat := if job.tail then 1 else 0

theorem expireN_tail (open' : openSeg (s.lane l) = some g) (next : g.next = some .tail)
    (passed : windowPassed (s.jobOf g) (s.lane l).record.markTol s.tracker.p g .tail = true) :
    expireN l (n + 1) s = closeSeg l g.id (missMarks l g.id (tailMissed (s.jobOf g)) s) := by
  simp only [expireN, open', next, passed, if_true, tailMissed]
  split
  · rfl
  · rw [missMarks_none]

/-- The state with a missed PITCH counted and the next mark expected. -/
def pitchMissed (l : Lane) (g : Segment) (m : NextMark) (s : State) : State := setNext l g.id m (missMarks l g.id 1 s)

theorem pitchMissed_lane (m : NextMark) : (pitchMissed l g m s).lane l = { s.lane l with
    segs := (s.lane l).segs.map (fun h =>
      if h.id = g.id then { h with flags := h.flags ||| defMarkMissed, next := some m } else h)
    missedMarks := min ((s.lane l).missedMarks + 1) 65535 } := by
  rw [pitchMissed, setNext, State.modSeg, State.lane_modLane, missMarks_lane]
  dsimp only
  rw [List.map_map]
  congr 1
  refine List.map_congr_left fun h _ => ?_
  by_cases same : h.id = g.id <;> simp [same]

theorem pitchMissed_flag (m : NextMark) : attnHas (pitchMissed l g m s).mgmt.flags prioMarkMissed = true := by
  have mgmt : (pitchMissed l g m s).mgmt = (missMarks l g.id 1 s).mgmt := by simp [pitchMissed, setNext, State.modSeg]
  rw [mgmt]
  exact attnHas_raise (by decide) (by decide) _

/-- A missed PITCH whose successor's window has not passed is the only expectation that expires. -/
theorem expireWindows_pitch {i : Nat} (open' : openSeg (s.lane l) = some g) (next : g.next = some (.pitch i))
    (passed : windowPassed (s.jobOf g) (s.lane l).record.markTol s.tracker.p g (.pitch i) = true)
    (waits : windowPassed (s.jobOf g) (s.lane l).record.markTol s.tracker.p g (afterPitch (s.jobOf g) i) = false) :
    expireWindows l s = pitchMissed l g (afterPitch (s.jobOf g) i) s := by
  obtain ⟨older, segs, opened⟩ := openSeg_spec open'
  have inside : Inside s (pitchMissed l g (afterPitch (s.jobOf g) i) s) :=
    (inside_missMarks l g.id 1 s).trans (inside_modSeg l g.id _ _)
  have aside : Aside (fun _ => True) s (pitchMissed l g (afterPitch (s.jobOf g) i) s) :=
    (aside_missMarks l g.id 1 s trivial).trans (aside_setNext l g.id _ _)
  have last : openSeg ((pitchMissed l g (afterPitch (s.jobOf g) i) s).lane l) =
      some { g with flags := g.flags ||| defMarkMissed, next := some (afterPitch (s.jobOf g) i) } := by
    refine openSeg_last (older := older.map (fun h =>
      if h.id = g.id then { h with flags := h.flags ||| defMarkMissed, next := some (afterPitch (s.jobOf g) i) } else h)) ?_ opened
    rw [pitchMissed_lane, segs]
    simp
  have stops : expireN l 16 (pitchMissed l g (afterPitch (s.jobOf g) i) s) = pitchMissed l g (afterPitch (s.jobOf g) i) s := by
    refine expireN_waits last rfl ?_
    rw [aside.jobOf, inside.laneRecord, inside.tracker]
    exact waits
  exact (expireN_pitch open' next passed).trans stops

end Windows

/-- Settles O23: one pass over the expectations, a PITCH or the TAIL, and for the TAIL whether work is left. -/
theorem windowExpiryMisses : Obligations.WindowExpiryMisses := by
  intro s l g open'
  refine ⟨fun i next passed waits => ?_, fun next busy passed => ?_, fun older segs alone next idle passed => ?_⟩
  · have ends := endOfEvent_finish (expireWindows l s)
    refine ⟨finish (expireWindows l s), rfl, ?_, ?_⟩
    · rw [ends.flags, expireWindows_pitch open' next passed waits]
      exact pitchMissed_flag _
    · rw [ends.lane, expireWindows_pitch open' next passed waits, pitchMissed_lane]
  · have expires : expireWindows l s = closing l g.id (tailMissed (s.jobOf g)) s :=
      (expireN_tail open' next passed).trans (closeSeg_stays busy)
    refine ⟨finish (expireWindows l s), rfl, ?_⟩
    rw [(endOfEvent_finish _).lane, expires, closing_lane, tailMissed]
    unfold closedWith
    cases (s.jobOf g).tail <;> rfl
  · have expires : expireWindows l s = retire l (closedWith (tailMissed (s.jobOf g)) g) (closing l g.id (tailMissed (s.jobOf g)) s) :=
      (expireN_tail open' next passed).trans (closeSeg_retires segs alone idle)
    have ends := endOfEvent_finish (expireWindows l s)
    have retired : Retired l (closedWith (tailMissed (s.jobOf g)) g) s (finish (expireWindows l s)) := by
      rw [expires]
      exact (retired_retire l _ _).earlier (rollKept_closing l g.id _ s)
    refine ⟨finish (expireWindows l s), rfl, ?_, ?_, ?_, fun tail => ?_⟩
    · have closed : closedWith (tailMissed (s.jobOf g)) g = { g with
          flags := if (s.jobOf g).tail then g.flags ||| defMarkMissed else g.flags, state := .closed, next := none } := by
        unfold closedWith tailMissed
        cases (s.jobOf g).tail <;> rfl
      exact closed ▸ retired
    · obtain ⟨f, lane, flags⟩ := (nipWork_nipChangeIf (ownsZone l (closedWith (tailMissed (s.jobOf g)) g).id
        (closing l g.id (tailMissed (s.jobOf g)) s)) (leaveMap l .complete (closedWith (tailMissed (s.jobOf g)) g)
        (closing l g.id (tailMissed (s.jobOf g)) s))).lane l
      have left : ((leaveMap l .complete (closedWith (tailMissed (s.jobOf g)) g)
          (closing l g.id (tailMissed (s.jobOf g)) s)).lane l).segs = older := by
        rw [leaveMap_segs, closing_segs segs alone]
        exact filter_last (g := closedWith (tailMissed (s.jobOf g)) g) alone
      rw [ends.lane, expires, retire, lane, newest, left, List.getLast?_map, Option.map_map]
      refine congrArg (fun k => Option.map k older.getLast?) (funext fun x => ?_)
      obtain ⟨d, more, -⟩ := flags x
      simp only [Function.comp, more]
      rfl
    · have side : Aside (fun k => k ≠ .marks l) (closing l g.id (tailMissed (s.jobOf g)) s) (expireWindows l s) := by
        rw [expires]
        exact aside_retire l _ _
      rw [ends.lane, side.missed l (fun h => h rfl), closing_lane, tailMissed]
      cases (s.jobOf g).tail <;> rfl
    · have inside : Inside (closing l g.id (tailMissed (s.jobOf g)) s) (expireWindows l s) := by
        rw [expires]
        exact inside_retire l _ _
      rw [ends.flags]
      exact attnHas_mono inside.flags (closing_flag l g.id _ s (by simp [tailMissed, tail]))

end Sys2Proof.Machine
end

section
/-! PROOFS. A cue that passes an OPEN newest segment closes it, whatever it goes on to do (R53 to R57, R60, R87). -/

namespace Sys2Proof.Machine

/-! ## Changes of a lane, put together -/

theorem modLane_modLane (l : Lane) (f g : LaneState → LaneState) (s : State) :
    (s.modLane l f).modLane l g = s.modLane l (fun x => g (f x)) := by cases l <;> rfl

theorem modLane_raise (l : Lane) (f : LaneState → LaneState) (p : Nat) (s : State) :
    (raise p s).modLane l f = raise p (s.modLane l f) := by cases l <;> rfl

theorem modLane_congr {l : Lane} {f g : LaneState → LaneState} {s : State} (h : f (s.lane l) = g (s.lane l)) :
    s.modLane l f = s.modLane l g := by rw [State.modLane, State.modLane, h]

/-! ## The closing as a state -/

section Closed

variable {l : Lane} {older : List Segment} {g : Segment} {k : Nat} {s : State}

/-- The lane with its newest segment CLOSED, `k` marks of it missed (R53, R60). -/
def closedLane (older : List Segment) (g : Segment) (k : Nat) (x : LaneState) : LaneState :=
  { x with
    segs := older ++ [closedWith k g]
    missedMarks := if k = 0 then x.missedMarks else min (x.missedMarks + k) 65535 }

theorem closing_eq (segs : (s.lane l).segs = older ++ [g]) (alone : ∀ h ∈ older, h.id ≠ g.id) : closing l g.id k s =
    if k = 0 then s.modLane l (closedLane older g k) else raise prioMarkMissed (s.modLane l (closedLane older g k)) := by
  have lane : (closing l g.id k s).lane l = closedLane older g k (s.lane l) := by
    rw [closing_lane, closedLane, segs, map_last (closedWith k) alone]
  by_cases none : k = 0
  · subst none
    rw [closing, missMarks_none, State.modSeg] at lane ⊢
    rw [if_pos rfl]
    rw [State.lane_modLane] at lane
    exact modLane_congr lane
  · rw [closing, missMarks, if_neg none, State.modSeg, flagSeg, State.modSeg] at lane ⊢
    rw [modLane_raise, modLane_modLane, modLane_modLane, raise_lane, State.lane_modLane] at lane
    rw [if_neg none, modLane_raise, modLane_modLane, modLane_modLane]
    exact congrArg (raise prioMarkMissed) (modLane_congr lane)

theorem closeByCue_closing (opened : g.state = .opened) (busy : ∀ h ∈ (s.lane l).segs, h.id = g.id → 0 < h.unfinished) :
    closeByCue l g s = closing l g.id (remainingMarks (s.jobOf g) g) s := by
  rw [closeByCue, if_pos opened, closeSeg_stays busy]

theorem closeByCue_retires (segs : (s.lane l).segs = older ++ [g]) (alone : ∀ h ∈ older, h.id ≠ g.id) (opened : g.state = .opened)
    (idle : g.unfinished = 0) : closeByCue l g s =
      retire l (closedWith (remainingMarks (s.jobOf g) g) g) (closing l g.id (remainingMarks (s.jobOf g) g) s) := by
  rw [closeByCue, if_pos opened, closeSeg_retires segs alone idle]

theorem aside_closing (l : Lane) (id k : Nat) (s : State) : Aside (fun t => t = .marks l) s (closing l id k s) :=
  (aside_missMarks (own := fun t => t = .marks l) l id k s rfl).trans
    (aside_modSeg l id (fun g => { g with state := .closed, next := none }) _ fun g => { Traces.refl g with })

theorem inside_closing (l : Lane) (id k : Nat) (s : State) : Inside s (closing l id k s) :=
  (inside_missMarks l id k s).trans (inside_modSeg l id _ _)

end Closed

/-! ## What the later steps of a cue read (R55, R56) -/

section Later

variable {l : Lane} {tag : Byte} {s t : State}

theorem holding_congr (jobs : t.jobs = s.jobs) : t.holding tag = s.holding tag := by rw [State.holding, State.holding, jobs]
theorem slot_congr (jobs : t.jobs = s.jobs) (i : Nat) : t.slot i = s.slot i := by rw [State.slot, State.slot, jobs]

/-- Uses given back leave every tag in its slot. -/
theorem holdingFrom_modify (tag : Byte) {f : JobRecord → JobRecord} (keeps : ∀ r, (f r).defn = r.defn)
    (jobs : List (Option JobRecord)) (i n : Nat) :
    holdingFrom tag n (jobs.modify i (Option.map f)) = holdingFrom tag n jobs := by
  induction jobs generalizing i n with
  | nil => simp
  | cons x jobs ih =>
    cases i with
    | zero =>
      rw [List.modify_zero_cons]
      cases x with
      | none => rfl
      | some r => simp only [Option.map_some, holdingFrom, keeps]
    | succ i =>
      rw [List.modify_succ_cons]
      cases x with
      | none => exact ih i (n + 1)
      | some r =>
        simp only [holdingFrom]
        rw [ih]

theorem holding_leaveMap (c : Cause) (g : Segment) (s : State) : (leaveMap l c g s).holding tag = s.holding tag := by
  rw [State.holding, State.holding, leaveMap_jobs]
  exact holdingFrom_modify tag (f := fun r => { r with inUse := r.inUse - 1 }) (fun _ => rfl) s.jobs g.slot 0

theorem configured_congr {x y : StationState} (record : y.record = x.record) : y.configured = x.configured := by
  rw [StationState.configured, StationState.configured, record]

/-- What the room for a registration is read from (R80). -/
def roomRead (l : Lane) (s : State) : (Nat × List Action × List Action) × (KnifePlan × LaneRecord) × Bool × Bool × Nat :=
  (((s.lane l).segs.length, (s.lane l).cutQueue, (s.lane l).trimQueue), ((s.lane l).knifePlan, (s.lane l).record),
    (s.station (trimmerOf l)).configured, s.lam.configured, s.nip.zones.length)

theorem roomFor_congr (same : roomRead l t = roomRead l s) (job : JobDef) : roomFor l job t ↔ roomFor l job s := by
  simp only [roomRead, Prod.mk.injEq] at same
  obtain ⟨⟨segs, cuts, knives⟩, ⟨plan, record⟩, trim, lam, zones⟩ := same
  rw [roomFor, roomFor, knifeNeeded, knifeNeeded, segs, cuts, knives, plan, record, trim, lam, zones]

/-- Work that keeps a lane's queues and its knife plan. -/
theorem roomRead_aside {own : Taker → Prop} (aside : Aside own s t) (inside : Inside s t) (cutter : ¬own (.station (cutterOf l)))
    (trimmer : ¬own (.station (trimmerOf l))) : roomRead l t =
      (((t.lane l).segs.length, (s.lane l).cutQueue, (s.lane l).trimQueue), ((s.lane l).knifePlan, (s.lane l).record),
        (s.station (trimmerOf l)).configured, s.lam.configured, t.nip.zones.length) := by
  have knives := aside.knives l trimmer
  simp only [knifeSide, Prod.mk.injEq] at knives
  obtain ⟨trimQueue, plan, -⟩ := knives
  have trim : (t.station (trimmerOf l)).configured = (s.station (trimmerOf l)).configured :=
    configured_congr (inside.stationRecord _)
  have lam : t.lam.configured = s.lam.configured := configured_congr (inside.stationRecord .lam)
  rw [roomRead, aside.cuts l cutter, trimQueue, plan, trim, lam, inside.laneRecord]

end Later

/-! ## A registration after a closing -/

section RegisterAfter

variable {l : Lane} {tag : Byte} {i : Nat} {p : Word32} {r : JobRecord} {w : State}

theorem register_missed : ((register l tag i p r w).lane l).missedMarks = (w.lane l).missedMarks := by
  have entered : ((entered l tag i p r w).lane l).missedMarks = (w.lane l).missedMarks := by
    rw [entered_lane]
    unfold addToLane
    dsimp only
    split <;> rfl
  rw [(aside_register l tag i p r w).missed l (by rintro ⟨st, h⟩; cases h), entered]

theorem register_segs {x : Segment} (mem : x ∈ ((register l tag i p r w).lane l).segs) :
    x.id = w.nextSeg ∨ ∃ y ∈ (w.lane l).segs, y.id = x.id := by
  obtain ⟨y, hy, traces⟩ := (aside_register l tag i p r w).segs l x mem
  rw [entered_segs] at hy
  rcases List.mem_append.mp hy with old | new
  · exact .inr ⟨y, old, traces.id.symm⟩
  · rw [List.mem_singleton.mp new] at traces
    exact .inl traces.id

theorem entered_zones : (entered l tag i p r w).nip.zones =
    w.nip.zones ++ if makesZones r.defn w then zoneEntries l (created l tag i p r w) 0 r.defn.zones else [] := by
  unfold entered
  split
  · have zones : (enrollZones l tag i p r w).nip.zones =
        (enroll l tag i p r w).nip.zones ++ zoneEntries l (created l tag i p r w) 0 r.defn.zones := rfl
    rw [zones, enroll_nip]
  · rw [enroll_nip, List.append_nil]

theorem register_zones {e : ZoneEntry} (mem : e ∈ (register l tag i p r w).nip.zones) :
    e ∈ w.nip.zones ∨ e.lane = l ∧ e.seg = w.nextSeg := by
  have before := (aside_register l tag i p r w).zones e mem
  rw [entered_zones] at before
  rcases List.mem_append.mp before with old | new
  · exact .inl old
  · split at new
    · exact .inr (mem_zoneEntries new)
    · cases new

/-- The newest segment after a cue's registration. -/
theorem register_newest_fields (fresh : ∀ h ∈ (w.lane l).segs, h.id < w.nextSeg) :
    ∃ n, newest ((finish (register l tag i p r w)).lane l) = some n ∧ n.tag = tag ∧ n.slot = i ∧ n.pCue = p ∧ n.state = .opened := by
  obtain ⟨g, newest, grown, -⟩ := register_newest (tag := tag) (slot := i) (p := p) (r := r) fresh
  rw [(endOfEvent_finish _).lane]
  exact ⟨g, newest, grown.tag, grown.slot, grown.pCue, grown.state⟩

end RegisterAfter

theorem bumpRefused_lane (l : Lane) (s : State) : (bumpRefused l s).lane l =
    { s.lane l with cuesRefused := min ((s.lane l).cuesRefused + 1) 65535 } := State.lane_modLane s l _

theorem bumpStray_lane (l : Lane) (s : State) : (bumpStray l s).lane l =
    { s.lane l with strayMarks := min ((s.lane l).strayMarks + 1) 65535 } := State.lane_modLane s l _

theorem bumpNoRoom_lane (l : Lane) (s : State) : (bumpNoRoom l s).lane l =
    { s.lane l with noRoom := min ((s.lane l).noRoom + 1) 65535 } := State.lane_modLane s l _

theorem acceptCue_missed (l : Lane) (tag : Byte) (p : Word32) (w : State) :
    ((acceptCue l tag p w).lane l).missedMarks = (w.lane l).missedMarks := by
  have refused : ((raise prioCueRefused (bumpRefused l w)).lane l).missedMarks = (w.lane l).missedMarks := by
    rw [raise_lane, bumpRefused_lane]
  unfold acceptCue
  split
  · split
    · split
      · exact register_missed
      · rw [raise_lane, bumpNoRoom_lane]
    · exact refused
  · exact refused
  · exact refused
  · exact refused

/-! ## The marks still expected (R53) -/

/-- The marks still expected from a mark on (R53). -/
def marksLeft (job : JobDef) (m : NextMark) : Nat :=
  (match m with | .pitch i => job.pitches.length - i | .tail => 0) + (if job.tail then 1 else 0)

theorem remainingMarks_eq {job : JobDef} {g : Segment} {m : NextMark} (next : g.next = some m) :
    remainingMarks job g = marksLeft job m := by
  cases m with
  | pitch i => simp only [remainingMarks, next, marksLeft]
  | tail => simp only [remainingMarks, next, marksLeft, Nat.zero_add]

/-! ## A passing cue (R53 to R57) -/

section Passing

variable {l : Lane} {tag : Byte} {c : Word32} {r : Reference} {s : State} {older : List Segment} {g : Segment} {m : NextMark}

/-- A readable cue that reaches the expected tail of the newest segment, on a RUNNING lane (R52, R53). -/
structure Passes (l : Lane) (tag : Byte) (c : Word32) (r : Reference) (older : List Segment) (g : Segment) (m : NextMark)
    (s : State) : Prop where
  convertible : Convertible c r s
  mode : (s.lane l).mode = .running
  low : tag ≠ 0#8
  high : tag ≠ 255#8
  segs : (s.lane l).segs = older ++ [g]
  alone : ∀ h ∈ older, h.id ≠ g.id
  opened : g.state = .opened
  next : g.next = some m
  reaches : reaches (markedAt c r s) (passPoint l g s) = true

/-- The state with the newest segment closed by the cue, and retired where it has no work left. -/
def cueClosed (l : Lane) (g : Segment) (m : NextMark) (s : State) : State :=
  closeSeg l g.id (missMarks l g.id (marksLeft (s.jobOf g) m) s)

variable (h : Passes l tag c r older g m s)
include h

theorem Passes.taken : convertMark l .cue tag c s =
    if precedes g.pCue (markedAt c r s) then acceptCue l tag (markedAt c r s) (cueClosed l g m s)
    else bumpStray l (cueClosed l g m s) := by
  have last : newest (s.lane l) = some g := by rw [newest, h.segs, List.getLast?_concat]
  have closes : closeByCue l g s = cueClosed l g m s := by
    rw [closeByCue, if_pos h.opened, remainingMarks_eq h.next]
    rfl
  rw [h.convertible.taken, takeMark_cue h.mode, takeCue_passes h.low h.high last h.reaches, closes]

theorem Passes.behind (behind : precedes g.pCue (markedAt c r s) = false) :
    convertMark l .cue tag c s = bumpStray l (cueClosed l g m s) := by
  rw [h.taken, if_neg (by rw [behind]; decide)]

theorem Passes.follows (follows : precedes g.pCue (markedAt c r s) = true) :
    convertMark l .cue tag c s = acceptCue l tag (markedAt c r s) (cueClosed l g m s) := by rw [h.taken, if_pos follows]

theorem Passes.stays (busy : 0 < g.unfinished) : cueClosed l g m s = closing l g.id (marksLeft (s.jobOf g) m) s := by
  refine closeSeg_stays fun x hx same => ?_
  rw [h.segs] at hx
  rcases List.mem_append.mp hx with old | new
  · exact absurd same (h.alone x old)
  · rw [List.mem_singleton.mp new]
    exact busy

theorem Passes.retires (idle : g.unfinished = 0) : cueClosed l g m s =
    retire l (closedWith (marksLeft (s.jobOf g) m) g) (closing l g.id (marksLeft (s.jobOf g) m) s) :=
  closeSeg_retires h.segs h.alone idle

end Passing

theorem fresh_congr {l : Lane} {s t : State} (ids : (t.lane l).segs.map (fun x => x.id) = (s.lane l).segs.map (fun x => x.id))
    (next : t.nextSeg = s.nextSeg) (fresh : ∀ h ∈ (s.lane l).segs, h.id < s.nextSeg) :
    ∀ h ∈ (t.lane l).segs, h.id < t.nextSeg := by
  have through : ∀ (u : State) (n : Nat), (∀ h ∈ (u.lane l).segs, h.id < n) ↔ ∀ k ∈ (u.lane l).segs.map (fun x => x.id), k < n := by
    simp
  rw [through] at fresh
  rw [through, ids, next]
  exact fresh

/-- Settles O19: by whether the closed segment has work left, and by what the cue goes on to do. -/
theorem cueClosesOpenSegment : Obligations.CueClosesOpenSegment := by
  refine ⟨fun s l tag c r older g m datum found paid ref near mode low high segs alone opened next busy reaches => ?_,
    fun s l tag c r older g m datum found paid ref near mode low high segs alone opened next idle reaches => ?_⟩
  · have passes : Passes l tag c r older g m s :=
      ⟨⟨datum, found, paid, ref, near⟩, mode, low, high, segs, alone, opened, next, reaches⟩
    refine ⟨_, exec_markConversion l .cue tag c s, ?_⟩
    intro k closed u refused
    have stays : cueClosed l g m s = u := (passes.stays busy).trans (closing_eq segs alone)
    have aside := aside_closing l g.id k s
    have inside := inside_closing l g.id k s
    have same : closing l g.id k s = u := closing_eq segs alone
    rw [same] at aside inside
    have jobs : u.jobs = s.jobs := same ▸ (rollKept_closing l g.id k s).jobs
    have lane : u.lane l = closed.lane l := by
      by_cases none : k = 0
      · simp only [u, if_pos none]
      · simp only [u, if_neg none, raise_lane]
    refine ⟨fun behind => ?_, fun follows => ?_⟩
    · rw [passes.behind behind, stays]
      exact endOfEvent_finish _
    · rw [passes.follows follows, stays]
      refine ⟨fun none => ?_, fun i j held slot => ⟨fun refuses => ?_, fun admits loaded => ?_⟩⟩
      · rw [acceptCue_unheld ((holding_congr jobs).trans none)]
        exact endOfEvent_finish _
      · rw [acceptCue_refused ((holding_congr jobs).trans held) ((slot_congr jobs i).trans slot) refuses]
        exact endOfEvent_finish _
      · have room : roomFor l j.defn u ↔ roomFor l j.defn s := by
          refine roomFor_congr ?_ j.defn
          have length : (u.lane l).segs.length = (s.lane l).segs.length := by
            rw [lane, State.lane_modLane, segs]
            simp
          rw [roomRead_aside aside inside (fun h => by cases h) (fun h => by cases h), length, ← same,
            (rollKept_closing l g.id k s).zones]
          rfl
        refine ⟨fun full => ?_, fun fits fresh => ?_⟩
        · rw [acceptCue_full ((holding_congr jobs).trans held) ((slot_congr jobs i).trans slot) admits loaded
            fun h => full (room.mp h)]
          exact endOfEvent_finish _
        · rw [acceptCue_registers ((holding_congr jobs).trans held) ((slot_congr jobs i).trans slot) admits loaded (room.mpr fits)]
          refine ⟨?_, fun some => ?_, register_newest_fields ?_⟩
          · rw [(endOfEvent_finish _).lane, register_missed, lane]
          · rw [(endOfEvent_finish _).flags]
            exact attnHas_mono (inside_register l tag i _ j u).flags (same ▸ closing_flag l g.id k s some)
          · exact fresh_congr (same ▸ (rollKept_closing l g.id k s).ids) aside.nextSeg fresh
  · have passes : Passes l tag c r older g m s :=
      ⟨⟨datum, found, paid, ref, near⟩, mode, low, high, segs, alone, opened, next, reaches⟩
    refine ⟨_, exec_markConversion l .cue tag c s, ?_⟩
    intro k h left refused
    have retires : cueClosed l g m s = retire l h (closing l g.id k s) := passes.retires idle
    have kept := rollKept_closing l g.id k s
    have rolled : RollKept l (leaveMap l .complete h (closing l g.id k s)) (cueClosed l g m s) := by
      rw [retires]
      exact (nipWork_nipChangeIf _ _).rollKept (inside_nipChangeIf _ _) l
    have retired : ∀ {u : State}, RollKept l (cueClosed l g m s) u → Retired l h s (finish u) :=
      fun later => (retired_leaveMap (rolled.trans later)).earlier kept
    have aside : Aside (fun t => t = .marks l) s (cueClosed l g m s) := by
      rw [retires]
      exact (aside_closing l g.id k s).trans (aside_retire l _ _)
    have inside : Inside s (cueClosed l g m s) := by
      rw [retires]
      exact (inside_closing l g.id k s).trans (inside_retire l _ _)
    have missed : ((cueClosed l g m s).lane l).missedMarks =
        if k = 0 then (s.lane l).missedMarks else min ((s.lane l).missedMarks + k) 65535 := by
      have side : Aside (fun _ => False) (closing l g.id k s) (cueClosed l g m s) := by
        rw [retires]
        exact aside_retire l _ _
      rw [side.missed l id, closing_lane]
    have flag : 0 < k → attnHas (cueClosed l g m s).mgmt.flags prioMarkMissed = true := fun some => by
      rw [retires]
      exact attnHas_mono (inside_retire l h _).flags (closing_flag l g.id k s some)
    have ids : ∀ x ∈ ((cueClosed l g m s).lane l).segs, ∃ y ∈ older, y.id = x.id := by
      have listed := rolled.ids
      rw [leaveMap_segs, closing_segs segs alone] at listed
      rw [show (older ++ [closedWith k g]).filter (fun x => x.id ≠ h.id) = older from filter_last (g := closedWith k g) alone]
        at listed
      intro x hx
      have mem : x.id ∈ older.map (fun x => x.id) := listed ▸ List.mem_map_of_mem hx
      exact List.mem_map.mp mem
    have zones : (cueClosed l g m s).nip.zones = s.nip.zones.filter (fun e => !(decide (e.lane = l) && decide (e.seg = g.id))) := by
      rw [rolled.zones, leaveMap_nip, ← kept.zones]
      rfl
    have fixed := aside.fixed l
    simp only [laneFixed, Prod.mk.injEq] at fixed
    obtain ⟨-, -, refusedKept, strayKept, noRoomKept, -⟩ := fixed
    have room : ∀ job, roomFor l job (cueClosed l g m s) ↔ roomFor l job left := by
      refine fun job => roomFor_congr ?_ job
      have length : ((cueClosed l g m s).lane l).segs.length = older.length := by
        have listed := congrArg List.length rolled.ids
        rw [List.length_map, List.length_map, leaveMap_segs, closing_segs segs alone] at listed
        exact listed.trans (congrArg List.length (filter_last (g := closedWith k g) alone))
      rw [roomRead_aside aside inside (fun h => by cases h) (fun h => by cases h), length, zones]
      cases l <;> rfl
    have holding : (cueClosed l g m s).holding tag = s.holding tag := by
      rw [holding_congr rolled.jobs, holding_leaveMap, holding_congr kept.jobs]
    have slots : SlotsKept s (cueClosed l g m s) :=
      ((slotsKept_of_jobs kept.jobs).trans (slotsKept_leaveMap l .complete h _)).trans (slotsKept_of_jobs rolled.jobs)
    have refusal : convertMark l .cue tag c s = raise prioCueRefused (bumpRefused l (cueClosed l g m s)) → refused := by
      intro e
      show Retired l h s _ ∧ _
      rw [e]
      refine ⟨retired ((rollKept_modLane l _ _ rfl rfl).trans (rollKept_raise l _ _)), ?_, ?_⟩
      · rw [(endOfEvent_finish _).lane, raise_lane, bumpRefused_lane, refusedKept]
      · rw [(endOfEvent_finish _).flags]
        exact attnHas_raise (by decide) (by decide) _
    have later : ((convertMark l .cue tag c s).lane l).missedMarks = ((cueClosed l g m s).lane l).missedMarks ∧
        Inside (cueClosed l g m s) (convertMark l .cue tag c s) := by
      rw [passes.taken]
      split
      · exact ⟨acceptCue_missed l tag _ _, inside_acceptCue l tag _ _⟩
      · exact ⟨by rw [bumpStray_lane], inside_modLane l _ _ rfl rfl⟩
    refine ⟨?_, fun some => ?_, fun behind => ⟨?_, ?_⟩, fun follows => ⟨fun none => ?_, fun i j held slot =>
      ⟨fun refuses => ?_, fun admits loaded => ⟨fun full => ?_, fun fits fresh => ?_⟩⟩⟩⟩
    · rw [(endOfEvent_finish _).lane, later.1, missed]
    · rw [(endOfEvent_finish _).flags]
      exact attnHas_mono later.2.flags (flag some)
    · rw [passes.behind behind]
      exact retired (rollKept_modLane l _ _ rfl rfl)
    · rw [passes.behind behind, (endOfEvent_finish _).lane, bumpStray_lane, strayKept]
    · exact refusal ((passes.follows follows).trans (acceptCue_unheld (holding.trans none)))
    · obtain ⟨n, -, slot'⟩ := slots i j slot
      exact refusal ((passes.follows follows).trans (acceptCue_refused (holding.trans held) slot' refuses))
    · obtain ⟨n, -, slot'⟩ := slots i j slot
      rw [passes.follows follows, acceptCue_full (holding.trans held) slot' admits loaded fun fits => full ((room _).mp fits)]
      refine ⟨retired ((rollKept_modLane l _ _ rfl rfl).trans (rollKept_raise l _ _)), ?_, ?_⟩
      · rw [(endOfEvent_finish _).lane, raise_lane, bumpNoRoom_lane, noRoomKept]
      · rw [(endOfEvent_finish _).flags]
        exact attnHas_raise (by decide) (by decide) _
    · obtain ⟨n, -, slot'⟩ := slots i j slot
      have gone : g.id < s.nextSeg := fresh g (by rw [segs]; simp)
      rw [passes.follows follows, acceptCue_registers (holding.trans held) slot' admits loaded ((room _).mpr fits)]
      refine ⟨fun x hx => ?_, fun e he mine => ?_, register_newest_fields ?_⟩
      · rw [(endOfEvent_finish _).lane] at hx
        rcases register_segs hx with new | ⟨y, hy, same⟩
        · rw [new, aside.nextSeg]
          omega
        · obtain ⟨z, hz, same'⟩ := ids y hy
          rw [← same, ← same']
          exact alone z hz
      · rw [(endOfEvent_finish _).nip] at he
        rcases register_zones he with old | new
        · rw [zones, List.mem_filter] at old
          simp [mine.1, mine.2] at old
        · rw [aside.nextSeg] at new
          omega
      · intro x hx
        obtain ⟨y, hy, same⟩ := ids x hx
        rw [← same, aside.nextSeg]
        exact fresh y (by rw [segs]; simp [hy])

end Sys2Proof.Machine
end

section
/-! PROOFS. The refutation of O20: in a trim queue that holds, at the very target of a new knife action, an action of a later serial
than the new segment's, the new action is placed before it (R100), not at the end. -/

namespace Sys2Proof.Machine

/-- A job with one cut and a trim, on either lane. -/
def trimmedJob : JobDef :=
  { tag := 17#8, lane := .any, copies := 1, lNom := 1000, tail := false, cuts := [0], zones := [], trim := some (100, 200),
    pitches := [], notify := false }

/-- The record of a station that is present and enabled. -/
def plainRecord (addr : Byte) (dist : Nat) : StationRecord :=
  { enabled := true, addr := addr, dist := dist, latency := 0, tol := 0, timeout := 500, knifeSpeed := 4000, settle := 0, table := [],
    tMin := 0, tMax := 0 }

/-- A BUSY station with nothing outstanding that the statement reads. -/
def busyAt (addr : Byte) (dist : Nat) : StationState :=
  { StationState.reset with record := some (plainRecord addr dist), mode := .busy }

/-- A PLANNED knife action of serial 1000, at the web under the knives. -/
def laterKnife : Action :=
  { kind := .park, owner := none, key := 1000, offset := 0, target := 500000#32, near := 0, far := 0 }

/-- Lane A RUNNING with an empty map, its cutter and its trim station BUSY, one knife action queued at the web under the knives. -/
def crowded : State :=
  { State.reset with
    nodeAddr := 1#8
    tracker := { Tracker.reset with
      mode := .tracking, p := 1000000#32, pEnc := 1000000#32, reference := some { count := 5000#32, stamp := 0#32 } }
    jobs := some (freshRecord trimmedJob) :: List.replicate 63 none
    trimA := busyAt 5#8 500000
    cutA := busyAt 7#8 900000
    laneA := { LaneState.reset (LaneRecord.default .a) with mode := .running, trimQueue := [laterKnife] } }

/-- The serials of the trim queue of lane A after a command; none where it answers no state. -/
def knifeKeys (o : Host.Outcome State Fault Refusal) : List Nat :=
  match o with
  | .next t => t.laneA.trimQueue.map (fun a => a.key)
  | _ => []

/-- The new knife action, of serial 0, goes before the queued one. -/
theorem crowded_keys : knifeKeys (exec (.markConversion .a .cue 17#8 5000#32) crowded) = [0, 1000] := by decide +kernel

/-- The web under the knives, and the targets queued there, lie within reach of P. -/
theorem crowded_near : ∀ x ∈ [500000#32, 500000#32], (sdiff x crowded.tracker.p).natAbs < 1073741824 := by
  intro x mem
  have here : x = 500000#32 := by simpa using mem
  subst here
  decide +kernel

/-- Refutes O20: nothing keeps the serials of queued knife actions below the new segment's, and at equal targets the lower serial
stands first. -/
theorem not_registrationPlansWork : ¬ Obligations.RegistrationPlansWork := by
  intro holds
  have planned := holds crowded .a 17#8 5000#32 { count := 5000#32, stamp := 0#32 } 0 (freshRecord trimmedJob)
    (by decide) (by decide) rfl rfl (by decide) rfl (by decide) (by decide) (by decide +kernel) (by decide +kernel) (by decide) rfl
    ((roomFor_iff _).mpr (by decide +kernel)) (fun h mem => nomatch mem) (fun h none => nomatch none) rfl (by decide +kernel)
    (.inl rfl) (by decide)
  clear holds
  obtain ⟨t, g, runs, -, -, -, -, -, -, -, -, knife, -⟩ := planned
  have action := knife (by decide +kernel)
  obtain ⟨-, -, -, -, -, -, -, -, a, -, -, -, -, placed, -⟩ := action
  have appended := (placed crowded_near).2
  have keys : knifeKeys (exec (.markConversion .a .cue 17#8 5000#32) crowded) = [1000, a.key] := by
    rw [runs]
    exact congrArg (List.map (fun a => a.key)) appended
  rw [crowded_keys] at keys
  cases keys

end Sys2Proof.Machine
end

section
/-! PROOFS. What a command can change besides the plan and the maps: settings, tracker, flags and the pending ATTN marker. -/

namespace Sys2Proof.Machine

/-! ## Work that keeps the settings -/

/-- The node address, the line setup and the records of lanes and stations are as they were. -/
structure SettingsKept (s t : State) : Prop where
  nodeAddr : t.nodeAddr = s.nodeAddr
  setup : t.setup = s.setup
  lanes : ∀ l, (t.lane l).record = (s.lane l).record
  stations : ∀ st, (t.station st).record = (s.station st).record

theorem SettingsKept.refl (s : State) : SettingsKept s s := ⟨rfl, rfl, fun _ => rfl, fun _ => rfl⟩

theorem SettingsKept.trans {s t u : State} (h : SettingsKept s t) (k : SettingsKept t u) : SettingsKept s u :=
  ⟨k.nodeAddr.trans h.nodeAddr, k.setup.trans h.setup, fun l => (k.lanes l).trans (h.lanes l),
    fun st => (k.stations st).trans (h.stations st)⟩

/-- Work before the end of an event: the own normal queue and the mask stay, no flag falls, and the pending ATTN marker rises with
a flag in the mask (R203, R205). Where `kept` holds the settings stay too, and where `still` holds the tracker does. -/
structure Works (kept still : Prop) (s t : State) : Prop where
  own : t.north.own = s.north.own
  tx : t.north.tx = s.north.tx
  mask : t.mgmt.mask = s.mgmt.mask
  flags : s.mgmt.flags ||| t.mgmt.flags = t.mgmt.flags
  marker : t.mgmt.pendingAttn = (s.mgmt.pendingAttn || maskedRise s.mgmt.mask s.mgmt.flags t.mgmt.flags)
  settings : kept → SettingsKept s t
  tracker : still → t.tracker = s.tracker

section Work

variable {kept still : Prop}

theorem Works.trans {s t u : State} (h : Works kept still s t) (k : Works kept still t u) : Works kept still s u where
  own := k.own.trans h.own
  tx := k.tx.trans h.tx
  mask := k.mask.trans h.mask
  flags := by rw [← k.flags, ← h.flags]; simp only [← BitVec.or_assoc, BitVec.or_self]
  marker := by rw [k.marker, h.marker, h.mask, maskedRise_trans _ _ _ _ h.flags k.flags, Bool.or_assoc]
  settings keep := (h.settings keep).trans (k.settings keep)
  tracker keep := (k.tracker keep).trans (h.tracker keep)

/-- A change of none of the own frames, the flags, the mask and the marker. -/
theorem works_quiet {s t : State} (own : t.north.own = s.north.own) (tx : t.north.tx = s.north.tx)
    (mask : t.mgmt.mask = s.mgmt.mask) (flags : t.mgmt.flags = s.mgmt.flags) (marker : t.mgmt.pendingAttn = s.mgmt.pendingAttn)
    (settings : kept → SettingsKept s t) (tracker : still → t.tracker = s.tracker) : Works kept still s t :=
  ⟨own, tx, mask, by rw [flags, BitVec.or_self], by rw [marker, flags, maskedRise_self, Bool.or_false], settings, tracker⟩

theorem works_refl (s : State) : Works kept still s s := works_quiet rfl rfl rfl rfl rfl (fun _ => .refl s) fun _ => rfl

theorem works_ite {c : Prop} [Decidable c] {s t u : State} (yes : c → Works kept still s t) (no : ¬c → Works kept still s u) :
    Works kept still s (if c then t else u) := by
  split
  · exact yes ‹_›
  · exact no ‹_›

theorem inside_works {s t : State} (h : Inside s t) : Works kept still s t where
  own := by rw [h.north]
  tx := by rw [h.north]
  mask := h.mask
  flags := h.flags
  marker := h.marker
  settings _ := ⟨h.nodeAddr, h.setup, h.laneRecord, h.stationRecord⟩
  tracker _ := h.tracker

theorem works_tracker (x : Tracker) (s : State) : Works kept False s { s with tracker := x } :=
  works_quiet rfl rfl rfl rfl rfl (fun _ => ⟨rfl, rfl, fun l => by cases l <;> rfl, fun st => by cases st <;> rfl⟩) False.elim

/-- An update of the Nip Planner, the Web Event Unit, the Job Table or the south port. -/
theorem works_blocks (n : Nip) (w : WebUnit) (jobs : List (Option JobRecord)) (reads : Nat) (p : SouthPort) (s : State) :
    Works kept still s { s with nip := n, web := w, jobs := jobs, jobReads := reads, south := p } :=
  works_quiet rfl rfl rfl rfl rfl (fun _ => ⟨rfl, rfl, fun l => by cases l <;> rfl, fun st => by cases st <;> rfl⟩) fun _ => rfl

theorem works_modLane (l : Lane) (f : LaneState → LaneState) (s : State) (record : kept → (f (s.lane l)).record = (s.lane l).record) :
    Works kept still s (s.modLane l f) := by
  refine works_quiet (by simp) (by simp) (by simp) (by simp) (by simp) (fun keep => ⟨by simp, by simp, fun m => ?_, by simp⟩) (by simp)
  by_cases same : m = l
  · subst same
    simpa using record keep
  · rw [State.lane_modLane_ne s l m f same]

theorem works_modStation (st : Station) (f : StationState → StationState) (s : State)
    (record : kept → (f (s.station st)).record = (s.station st).record) : Works kept still s (s.modStation st f) := by
  refine works_quiet (by simp) (by simp) (by simp) (by simp) (by simp) (fun keep => ⟨by simp, by simp, by simp, fun su => ?_⟩) (by simp)
  by_cases same : su = st
  · subst same
    simpa using record keep
  · rw [State.station_modStation_ne s st su f same]

/-! ## The blocks' operations -/

theorem works_takeFlags (present splice : Bool) (s : State) : Works kept still s (takeFlags present splice s) := by
  have web : ∀ (w : WebUnit) (u : State), Works kept still u { u with web := w } := fun w u =>
    works_blocks u.nip w u.jobs u.jobReads u.south u
  have mark : ∀ l x u, Works kept still u (markSpliced l x u) := fun l x u => works_modLane l _ u fun _ => rfl
  have record : ∀ u, Works kept still u (recordSplice u) := fun u =>
    works_ite (fun _ => works_refl u) fun _ => works_ite (fun _ => web _ u) fun _ => works_ite (fun _ => web _ u) fun _ =>
      ((web _ u).trans (mark .a _ _)).trans (mark .b _ _)
  have seen : Works kept still s
      (if present then { s with web := { s.web with present := true, absence := 0, broken := false } }
        else { s with web := { s.web with present := false } }) := works_ite (fun _ => web _ s) fun _ => web _ s
  exact (seen.trans (works_ite (fun _ => record _) fun _ => works_refl _)).trans (web _ _)

theorem works_takeRoll (media : MediaClass) (width thickness stretch : BitVec 16) (laminate : Bool) (s : State) :
    Works kept still s (takeRoll media width thickness stretch laminate s) := by
  refine works_ite (fun _ => ?_) fun _ => inside_works (inside_raise _ s)
  refine .trans ?_ (inside_works (inside_nipChange _))
  refine .trans ?_ (works_ite (fun _ => inside_works (inside_raise _ _)) fun _ => works_refl _)
  exact works_quiet rfl rfl rfl rfl rfl
    (fun _ => ⟨rfl, rfl, fun l => by cases l <;> rfl, fun st => by cases st <;> rfl⟩) fun _ => rfl

theorem works_nip (n : Nip) (s : State) : Works kept still s { s with nip := n } :=
  works_blocks n s.web s.jobs s.jobReads s.south s

theorem works_takeStatus (src raw : Byte) (sensor : NipSensor) (s : State) : Works kept still s (takeStatus src raw sensor s) :=
  works_ite (fun _ => (works_nip _ s).trans (inside_works (inside_closedTemp _))) fun _ => works_refl s

theorem works_validityExpiry (s : State) : Works kept still s (validityExpiry s) := by
  unfold validityExpiry
  split
  · exact (works_nip _ s).trans (inside_works (inside_closedTemp _))
  · exact works_refl s

theorem inside_issueHead (st : Station) (s : State) : Inside s (issueHead st s) := by
  have cuts : ∀ l, Inside s (issueCutHead l s) := fun l => by
    unfold issueCutHead
    split
    · exact inside_issueCut l _ s
    · exact Inside.refl s
  have knives : ∀ l, Inside s (issueKnifeHead l s) := fun l => by
    unfold issueKnifeHead
    split
    · exact inside_issueKnife l _ s
    · exact Inside.refl s
  cases st
  · exact inside_lamTest s
  · exact knives .a
  · exact knives .b
  · exact cuts .a
  · exact cuts .b

theorem inside_skipHead (l : Lane) (s : State) : Inside s (skipHead l s) := by
  unfold skipHead
  split
  · exact (inside_skipCut l _ s).trans (inside_cutTest l _)
  · exact Inside.refl s

theorem inside_cancelHead (st : Station) (s : State) : Inside s (cancelHead st s) := by
  have cuts : ∀ l, Inside s (cancelCutHead l s) := fun l => by
    unfold cancelCutHead
    split
    · exact (inside_cancelCut l _ s).trans (inside_cutTest l _)
    · exact Inside.refl s
  have knives : ∀ l, Inside s (cancelKnifeHead l s) := fun l => by
    unfold cancelKnifeHead
    split
    · exact (inside_cancelKnife l _ s).trans (inside_trimTest l _)
    · exact Inside.refl s
  cases st
  · exact Inside.refl s
  · exact knives .a
  · exact knives .b
  · exact cuts .a
  · exact cuts .b

theorem inside_retireAt (l : Lane) (place : Nat) (s : State) : Inside s (retireAt l place s) := by
  unfold retireAt
  split
  · split
    · exact inside_retire l _ s
    · exact Inside.refl s
  · exact Inside.refl s

theorem inside_takeIf (due : Bool) {expiry : State → State} {s : State} (h : Inside s (expiry s)) :
    Inside s (takeIf due expiry s) := by
  cases due
  · exact Inside.refl s
  · exact h

/-! ## The tracker's own events -/

theorem works_enterLost (s : State) : Works kept False s (enterLost s) :=
  (works_tracker _ s).trans (inside_works
    (((inside_spoilBoth .lost _).trans (inside_nipChangeIf _ _)).trans (inside_raise _ _)))

theorem works_movePos (p : Word32) (s : State) : Works kept False s (movePos p s) :=
  works_ite (fun _ => works_tracker _ s) fun _ => (works_tracker _ s).trans (inside_works (inside_takeAdvance _ _))

theorem works_ownRule (s : State) : Works kept False s (ownRule s) := by
  have moved : ∀ x p, Works kept False s (movePos p { s with tracker := x }) := fun x p =>
    (works_tracker x s).trans (works_movePos p _)
  unfold ownRule
  split
  · exact moved _ _
  · exact works_ite (fun _ => moved _ _) fun _ => works_ite (fun _ => works_tracker _ s) fun _ =>
      (works_tracker _ s).trans (works_enterLost _)
  · exact works_ite (fun _ => moved _ _) fun _ => works_ite (fun _ => works_tracker _ s) fun _ => works_enterLost s
  · exact works_refl s
  · exact works_refl s

theorem works_takeDelta (c t : Word32) (r : Reference) (s : State) : Works kept False s (takeDelta c t r s) := by
  refine works_ite (fun _ => ?_) fun _ => works_ite (fun _ => (works_tracker _ s).trans (works_enterLost _)) fun _ =>
    (works_tracker _ s).trans (works_ownRule _)
  exact works_ite (fun _ => (works_tracker _ s).trans (works_enterLost _)) fun _ => works_tracker _ s

theorem works_takeSample (c t : Word32) (s : State) : Works kept False s (takeSample c t s) := by
  unfold takeSample
  split
  · exact works_refl s
  · exact works_tracker _ s
  · exact works_tracker _ s
  · exact works_takeDelta c t _ s

theorem works_sampleExpiry (s : State) : Works kept False s (sampleExpiry s) := by
  unfold sampleExpiry
  split
  · exact (works_tracker _ s).trans (inside_works (inside_raise _ _))
  · exact works_refl s

theorem works_estimateTick (s : State) : Works kept False s (estimateTick s) := by
  refine works_ite (fun _ => ?_) fun _ => works_refl s
  exact works_ite (fun _ => (works_tracker _ s).trans (works_enterLost _)) fun _ =>
    works_ite (fun _ => (works_tracker _ s).trans (works_enterLost _)) fun _ => (works_tracker _ s).trans (works_movePos _ _)

theorem works_estimateExpiry (s : State) : Works kept False s (estimateExpiry s) :=
  works_ite (fun _ => (works_tracker _ s).trans (works_enterLost _)) fun _ => works_refl s

theorem works_convertMark (l : Lane) (shape : MarkShape) (tag : Byte) (c : Word32) (s : State) :
    Works kept False s (convertMark l shape tag c s) := by
  refine works_ite (fun _ => works_tracker _ s) fun _ => works_ite (fun _ => works_tracker _ s) fun _ => ?_
  split
  · exact works_tracker _ s
  · exact works_ite (fun _ => works_tracker _ s) fun _ => inside_works (inside_takeMark l shape tag _ s)

theorem works_takeIf (due : Bool) {expiry : State → State} {s : State} (h : Works kept still s (expiry s)) :
    Works kept still s (takeIf due expiry s) := works_ite (fun _ => h) fun _ => works_refl s

theorem works_forwardSouth (f : Frame) (s : State) : Works kept still s (forwardSouth f s) :=
  works_ite (fun _ => works_blocks s.nip s.web s.jobs s.jobReads _ s) fun _ => inside_works (inside_dropSouth 1 s)

theorem works_enumerate (f : Frame) (s : State) : Works False still s (enumerate f s) := by
  have renamed : ∀ a, Works False still s { s with nodeAddr := a } := fun a =>
    works_quiet rfl rfl rfl rfl rfl False.elim fun _ => rfl
  exact works_ite (fun _ => works_forwardSouth f s) fun _ =>
    works_ite (fun _ => (renamed _).trans (works_forwardSouth _ _)) fun _ => (renamed _).trans (works_forwardSouth _ _)

/-! ## Requests -/

theorem works_sized {n : Nat} {body : List Byte} {s : State} {k : Reply} (h : Works kept still s k.state) :
    Works kept still s (sized n body s k).state := by
  unfold sized
  split
  · exact h
  · exact works_refl s

theorem works_validated {checks : List (Nat × Bool)} {s : State} {k : Reply} (h : Works kept still s k.state) :
    Works kept still s (validated checks s k).state := by
  unfold validated
  split
  · exact works_refl s
  · exact h

theorem works_onLane {body : List Byte} {s : State} {k : Lane → Reply} (h : ∀ l, Works kept still s (k l).state) :
    Works kept still s (onLane body s k).state := by
  unfold onLane
  split
  · exact h _
  · exact works_refl s

theorem works_onStation {body : List Byte} {s : State} {k : Station → Reply} (h : ∀ st, Works kept still s (k st).state) :
    Works kept still s (onStation body s k).state := by
  unfold onStation
  split
  · exact h _
  · exact works_refl s

theorem works_reply {c : Prop} [Decidable c] {s : State} {r q : Reply} (hr : Works kept still s r.state)
    (hq : Works kept still s q.state) : Works kept still s (if c then r else q).state := by
  split
  · exact hr
  · exact hq

theorem works_jobs (jobs : List (Option JobRecord)) (reads : Nat) (s : State) :
    Works kept still s { s with jobs := jobs, jobReads := reads } :=
  works_blocks s.nip s.web jobs reads s.south s

theorem works_writeJob (body : List Byte) (s : State) : Works kept still s (writeJobReply body s).state := by
  refine works_sized (works_validated ?_)
  unfold placeJob
  split
  · exact works_reply (works_refl s) (works_reply (works_refl s) (works_jobs _ _ s))
  · refine works_reply (works_refl s) ?_
    split
    · exact works_jobs _ _ s
    · exact works_refl s

theorem works_deleteJob (body : List Byte) (s : State) : Works kept still s (deleteJobReply body s).state := by
  refine works_sized ?_
  split
  · exact works_reply (works_refl s) (works_jobs _ _ s)
  · exact works_refl s

theorem works_readJob (body : List Byte) (s : State) : Works kept still s (readJobReply body s).state := by
  refine works_sized ?_
  split
  · split
    · exact works_jobs _ _ s
    · exact works_refl s
  · exact works_refl s

theorem works_laneStart (body : List Byte) (s : State) : Works kept still s (laneStartReply body s).state := by
  refine works_sized (works_onLane fun l => ?_)
  split
  · refine works_reply ?_ (works_refl s)
    exact (works_modLane l _ s fun _ => rfl).trans (inside_works (inside_nipStart _))
  · exact works_refl s
  · exact works_refl s

theorem works_laneDrain (body : List Byte) (s : State) : Works kept still s (laneDrainReply body s).state := by
  refine works_sized (works_onLane fun l => ?_)
  split
  · exact (works_modLane l _ s fun _ => rfl).trans (inside_works (inside_drainTest l _))
  · exact works_refl s
  · exact works_refl s

theorem works_laneStop (body : List Byte) (s : State) : Works kept still s (laneStopReply body s).state :=
  works_sized (works_onLane fun l => inside_works (inside_stopLane l s))

theorem works_clearStation (body : List Byte) (s : State) : Works kept still s (clearStationReply body s).state :=
  works_sized (works_onStation fun st => inside_works (inside_clearStation st s))

theorem works_clearLost (body : List Byte) (s : State) : Works kept False s (clearLostReply body s).state :=
  works_sized (works_reply (works_tracker _ s) (works_refl s))

theorem works_injectMark (body : List Byte) (s : State) : Works kept still s (injectMarkReply body s).state := by
  refine works_sized (works_validated ?_)
  split
  · exact (works_modLane _ _ s fun _ => rfl).trans (inside_works (inside_takeMark _ _ _ _ _))
  · exact works_refl s
  · exact works_refl s

theorem works_readStatus (body : List Byte) (s : State) : Works kept still s (readStatusReply body s).state :=
  works_sized (works_reply (works_refl s) (works_reply (works_refl s) (works_refl s)))

theorem works_readMap (body : List Byte) (s : State) : Works kept still s (readMapReply body s).state :=
  works_sized (works_onLane fun _ => works_reply (works_refl s) (works_refl s))

theorem works_clearCounters (body : List Byte) (s : State) : Works kept False s (clearCountersReply body s).state :=
  works_sized (works_quiet rfl rfl rfl rfl rfl
    (fun _ => ⟨rfl, rfl, fun l => by cases l <;> rfl, fun st => by cases st <;> rfl⟩) False.elim)

theorem works_writeStation (body : List Byte) (s : State) : Works False still s (writeStationReply body s).state := by
  refine works_sized (works_onStation fun st => works_validated (works_reply (works_refl s) ?_))
  have written : Works False still s (s.modStation st (takeRecord (bodyStation st body))) := works_modStation st _ s False.elim
  exact works_ite (fun _ => written.trans (inside_works (inside_nipChange _))) fun _ =>
    works_ite (fun _ => written.trans (inside_works (inside_issueTest st _))) fun _ => written

theorem works_writeLane (body : List Byte) (s : State) : Works False still s (writeLaneReply body s).state :=
  works_sized (works_validated (works_onLane fun l => works_reply (works_modLane l (fun x => { x with record := bodyLane body }) s False.elim) (works_refl s)))

theorem works_writeLine (body : List Byte) (s : State) : Works False False s (writeLineReply body s).state :=
  works_sized (works_validated (works_reply (works_quiet rfl rfl rfl rfl rfl False.elim False.elim) (works_refl s)))

end Work

/-! ## Commands -/

/-- The commands that can change the tracker. -/
def MovesTracker (c : Instr) : Prop :=
  match c with
  | .posSample _ _ | .markConversion _ _ _ _ | .sampleTimerExpiry | .estimateTick | .estimateTimeExpiry
  | .clearLost _ _ | .clearCounters _ _ => True
  | _ => False

/-- The commands with a rule of their own for settings, flags or own frames. -/
def Singular (c : Instr) : Prop :=
  match c with
  | .coldReset | .portDown _ _ | .portUp _ | .frameReceived _ _ | .transmissionEnd _ | .enum _ _ _ | .attnQueued
  | .reportQueued | .writeStation _ _ | .writeLane _ _ | .writeLine _ _ | .clearFlags _ _ | .setAttnMask _ _
  | .lineReset _ _ _ | .unknownRequest _ _ _ => True
  | _ => False

/-- An event that is `Works` and the end of an event, or a request whose execution is `Works`, or nothing. -/
def Worked (c : Instr) (s t : State) : Prop :=
  t = s ∨ (∃ u, t = finish u ∧ Works True (¬MovesTracker c) s u) ∨
    ∃ code token reply, t = serve code token reply s ∧ Works True (¬MovesTracker c) s (reply s).state

theorem exec_worked {c : Instr} {s t : State} (step : exec c s = .next t) (plain : ¬Singular c) : Worked c s t := by
  have event : ∀ {u : State}, Works True (¬MovesTracker c) s u → Worked c s (finish u) := fun h => .inr (.inl ⟨_, rfl, h⟩)
  have inside : ∀ {u : State}, Inside s u → Worked c s (finish u) := fun h => event (inside_works h)
  have request : ∀ code token {reply : State → Reply}, Works True (¬MovesTracker c) s (reply s).state →
      Worked c s (serve code token reply s) := fun code token reply h => .inr (.inr ⟨code, token, reply, rfl, h⟩)
  have moves : ∀ {u : State}, MovesTracker c → Works True False s u → Works True (¬MovesTracker c) s u :=
    fun m h => { h with tracker := fun no => absurd m no }
  cases c <;> cases step
  case posSample => exact event (moves trivial (works_takeSample _ _ s))
  case posSampleFlags => exact event (works_takeFlags _ _ s)
  case markConversion => exact event (moves trivial (works_convertMark _ _ _ _ s))
  case rollDescriptor =>
    show Worked _ s (if _ then _ else _)
    split
    · exact event (works_takeRoll _ _ _ _ _ s)
    · exact .inl rfl
  case status => exact event (works_takeStatus _ _ _ s)
  case actDone => exact inside (inside_takeReply _ _ _ s)
  case actFault => exact inside (inside_takeReply _ _ _ s)
  case sampleTimerExpiry => exact event (moves trivial (works_takeIf _ (works_sampleExpiry s)))
  case estimateTick => exact event (moves trivial (works_estimateTick s))
  case estimateTimeExpiry => exact event (moves trivial (works_takeIf _ (works_estimateExpiry s)))
  case actTimeoutExpiry st => exact inside (inside_takeIf _ (inside_timeoutExpiry st s))
  case validityTimerExpiry => exact event (works_takeIf _ (works_validityExpiry s))
  case actionIssue st => exact inside (inside_issueHead st s)
  case cutSkipped l => exact inside (inside_skipHead l s)
  case headCancelled st => exact inside (inside_cancelHead st s)
  case windowExpiry l => exact inside (inside_expireWindows l s)
  case segmentRetirement l place => exact inside (inside_retireAt l place s)
  case laneDrained l => exact inside (inside_drainTest l s)
  case webBreak => exact event (works_ite (fun _ => inside_works (inside_webBreak s)) fun _ => works_refl s)
  case zonePassing => exact inside (inside_passZones s)
  case splicePassed => exact inside (inside_passSplices s)
  case trimShort l => exact inside (inside_testShort l s)
  case writeJob => exact request _ _ (works_writeJob _ s)
  case deleteJob => exact request _ _ (works_deleteJob _ s)
  case readJob => exact request _ _ (works_readJob _ s)
  case laneStart => exact request _ _ (works_laneStart _ s)
  case laneDrain => exact request _ _ (works_laneDrain _ s)
  case laneStop => exact request _ _ (works_laneStop _ s)
  case clearStation => exact request _ _ (works_clearStation _ s)
  case clearLost => exact request _ _ (moves trivial (works_clearLost _ s))
  case injectMark => exact request _ _ (works_injectMark _ s)
  case readStatus => exact request _ _ (works_readStatus _ s)
  case readMap => exact request _ _ (works_readMap _ s)
  case clearCounters => exact request _ _ (moves trivial (works_clearCounters _ s))
  all_goals exact absurd trivial plain

/-! ## The settings (O59) -/

/-- The settings and the mask are kept, and where `still` holds the tracker is. -/
structure Settled (still : Prop) (s t : State) : Prop where
  settings : SettingsKept s t
  mask : t.mgmt.mask = s.mgmt.mask
  tracker : still → t.tracker = s.tracker

section Keep

variable {still : Prop} {s t u : State}

theorem Settled.trans (h : Settled still s t) (k : Settled still t u) : Settled still s u :=
  ⟨h.settings.trans k.settings, k.mask.trans h.mask, fun keep => (k.tracker keep).trans (h.tracker keep)⟩

theorem Works.settled (h : Works True still s t) : Settled still s t := ⟨h.settings trivial, h.mask, h.tracker⟩

theorem settled_refl (s : State) : Settled still s s := ⟨.refl s, rfl, fun _ => rfl⟩

/-- A change of the ports, the Management and Reporting Unit but its mask, and the output lines. -/
theorem settled_ports (n : NorthPort) (p : SouthPort) (m : Mgmt) (pins : Pins) (s : State) (mask : m.mask = s.mgmt.mask) :
    Settled still s { s with north := n, south := p, mgmt := m, pins := pins } :=
  ⟨⟨rfl, rfl, fun l => by cases l <;> rfl, fun st => by cases st <;> rfl⟩, mask, fun _ => rfl⟩

theorem settled_of_end (h : EndOfEvent u t) : Settled still u t := by
  rw [h.rest]
  exact settled_ports _ u.south _ _ u rfl

theorem settled_finish (h : Settled still s u) : Settled still s (finish u) := h.trans (settled_of_end (endOfEvent_finish u))

theorem settled_serve (code token : Byte) {reply : State → Reply} (h : Settled still s (reply s).state) :
    Settled still s (serve code token reply s) := by
  refine settled_finish ?_
  split
  · exact settled_ports s.north s.south _ s.pins s rfl
  · exact h.trans (settled_ports _ (reply s).state.south (reply s).state.mgmt (reply s).state.pins _ rfl)

theorem Worked.settled {c : Instr} (h : Worked c s t) : Settled (¬MovesTracker c) s t := by
  obtain rfl | ⟨u, rfl, work⟩ | ⟨code, token, reply, rfl, work⟩ := h
  · exact settled_refl _
  · exact settled_finish work.settled
  · exact settled_serve code token work.settled

theorem settled_raise (p : Nat) (s : State) : Settled still s (raise p s) := settled_ports s.north s.south _ s.pins s rfl

theorem settled_dropNorth (k : Nat) (s : State) : Settled still s (dropNorth k s) := by
  unfold dropNorth
  split
  · exact settled_refl s
  · exact (settled_ports _ s.south s.mgmt s.pins s rfl).trans (settled_raise _ _)

theorem settled_dropSouth (k : Nat) (s : State) : Settled still s (dropSouth k s) :=
  (inside_works (kept := True) (inside_dropSouth k s)).settled

theorem settled_crcError (p : Port) (s : State) : Settled still s (crcError p s) := by
  cases p
  · exact (settled_ports _ s.south s.mgmt s.pins s rfl).trans (settled_raise _ _)
  · exact (settled_ports s.north _ s.mgmt s.pins s rfl).trans (settled_raise _ _)

theorem settled_goDown (p : Port) (receiving : Bool) (s : State) : Settled still s (goDown p receiving s) := by
  have down : Settled still s (match p with
      | .north => downNorth s
      | .south => downSouth s) := by
    cases p
    · exact (settled_ports _ s.south s.mgmt s.pins s rfl).trans (settled_dropNorth _ _)
    · exact (settled_ports s.north _ s.mgmt s.pins s rfl).trans (settled_dropSouth _ _)
  cases receiving
  · exact down
  · exact down.trans (settled_crcError p _)

theorem settled_goUp (p : Port) (s : State) : Settled still s (goUp p s) := by
  cases p
  · exact settled_ports _ s.south s.mgmt s.pins s rfl
  · exact settled_ports s.north _ s.mgmt s.pins s rfl

theorem settled_endTransmission (p : Port) (s : State) : Settled still s (endTransmission p s) := by
  cases p
  all_goals
    unfold endTransmission
    dsimp only
    split
  · exact settled_ports _ s.south s.mgmt s.pins s rfl
  · exact settled_refl s
  · exact settled_ports s.north _ s.mgmt s.pins s rfl
  · exact settled_refl s

theorem settled_attnQueued (s : State) : Settled still s (refreshPins (placeAttn (dropMarker s))) := by
  rw [placeAttn_spec]
  exact settled_ports _ s.south _ _ s rfl

theorem moveReports_one (s : State) : moveReports 1 s = s ∨ ∃ r rest, s.mgmt.reports = r :: rest ∧
    moveReports 1 s = placeOwn (reportFrame s r) { s with mgmt := { s.mgmt with reports := rest } } := by
  unfold moveReports
  split
  next waiting =>
    obtain ⟨r, rest, first⟩ := List.exists_cons_of_ne_nil waiting.1
    refine .inr ⟨r, rest, first, ?_⟩
    rw [moveReports, moveReport, first, ← reportFrame_eq]
  · exact .inl rfl

theorem settled_reportQueued (s : State) : Settled still s (refreshPins (moveReports 1 s)) := by
  obtain none | ⟨r, rest, -, moved⟩ := moveReports_one s
  · rw [none]
    exact settled_ports s.north s.south s.mgmt _ s rfl
  · rw [moved]
    exact settled_ports _ s.south _ _ s rfl

theorem settled_clearFlags (body : List Byte) (s : State) : Settled still s (clearFlagsReply body s).state := by
  unfold clearFlagsReply sized
  split
  · exact settled_ports s.north s.south _ s.pins s rfl
  · exact settled_refl s

end Keep

/-- The commands that set the node address, the line setup, the mask or a record. -/
def SetsRecords (c : Instr) : Prop :=
  match c with
  | .coldReset | .enum _ _ _ | .frameReceived _ _ | .writeStation _ _ | .writeLane _ _ | .writeLine _ _
  | .setAttnMask _ _ | .lineReset _ _ _ | .unknownRequest _ _ _ => True
  | _ => False

theorem exec_settled {c : Instr} {s t : State} (step : exec c s = .next t) (other : ¬SetsRecords c) :
    Settled (¬MovesTracker c) s t := by
  by_cases plain : Singular c
  case neg => exact (exec_worked step plain).settled
  case pos =>
    cases c <;> cases step
    case portDown p receiving =>
      show Settled _ s (if _ then _ else _)
      split
      · exact settled_finish (settled_goDown p receiving s)
      · exact settled_refl s
    case portUp p =>
      show Settled _ s (if _ then _ else _)
      split
      · exact settled_refl s
      · exact settled_finish (settled_goUp p s)
    case transmissionEnd p => exact settled_finish (settled_endTransmission p s)
    case attnQueued => exact settled_attnQueued s
    case reportQueued => exact settled_reportQueued s
    case clearFlags => exact settled_serve _ _ (settled_clearFlags _ s)
    all_goals first
      | exact plain.elim
      | exact absurd trivial other

/-- Settles O59: all work keeps the settings, the link's own commands and CLEAR_FLAGS change ports and flags only. -/
theorem settingsKeptByOtherCommands : Obligations.SettingsKeptByOtherCommands := by
  intro c s t step other
  have sets : ¬SetsRecords c := fun sets => by cases c <;> first | exact other.elim | exact sets.elim
  obtain ⟨⟨nodeAddr, setup, lanes, stations⟩, mask, tracker⟩ := exec_settled step sets
  refine ⟨⟨nodeAddr, setup, mask, lanes, stations⟩, fun still => tracker fun moves => ?_⟩
  cases c <;> first | exact still.elim | exact moves.elim

end Sys2Proof.Machine
end

section
/-! PROOFS. The pending ATTN marker and the ATTN frames of an event (O40). -/

namespace Sys2Proof.Machine

/-! ## What rises -/

/-- A flag in the mask is set in `u` that was clear in `s`. -/
def Risen (s u : State) : Prop :=
  ∃ prio, attnHas s.mgmt.flags prio = false ∧ attnHas u.mgmt.flags prio = true ∧ attnHas u.mgmt.mask prio = true

/-- Every flag in the mask that is set in `u` was set in `s`. -/
def Calm (s u : State) : Prop :=
  ∀ prio, attnHas u.mgmt.flags prio = true → attnHas u.mgmt.mask prio = true → attnHas s.mgmt.flags prio = true

theorem bits_ne_zero {x : BitVec 14} : x ≠ 0#14 ↔ ∃ prio, attnHas x prio = true := by
  refine ⟨fun some => ?_, fun ⟨prio, set⟩ zero => by simp [attnHas, zero] at set⟩
  by_contra none
  refine some (BitVec.eq_of_getLsbD_eq fun i _ => ?_)
  by_contra set
  exact none ⟨i + 1, by simpa [attnHas] using set⟩

theorem maskedRise_iff {mask a b : BitVec 14} : maskedRise mask a b = true ↔
    ∃ prio, attnHas a prio = false ∧ attnHas b prio = true ∧ attnHas mask prio = true := by
  rw [maskedRise, decide_eq_true_iff, bits_ne_zero]
  refine exists_congr fun prio => ?_
  simp only [attnHas, BitVec.getLsbD_and, BitVec.getLsbD_not, Bool.and_eq_true, Bool.not_eq_true', decide_eq_true_eq]
  constructor
  · rintro ⟨⟨m, b⟩, -, a⟩
    exact ⟨a, b, m⟩
  · rintro ⟨a, b, m⟩
    exact ⟨⟨m, b⟩, BitVec.lt_of_getLsbD b, a⟩

theorem Calm.not_risen {s u : State} (calm : Calm s u) : ¬Risen s u := fun ⟨prio, clear, set, selected⟩ => by
  rw [calm prio set selected] at clear
  cases clear

theorem not_calm {s u : State} (h : ¬Risen s u) : Calm s u := fun prio set selected => by
  by_contra clear
  exact h ⟨prio, by simpa using clear, set, selected⟩

/-! ## Before the end of the event -/

/-- What a command does to the marker and to the own normal queue before the end of its event. -/
structure Notifies (s u : State) : Prop where
  raised : Risen s u → u.mgmt.pendingAttn = true
  quiet : Calm s u → s.mgmt.pendingAttn = false → u.mgmt.pendingAttn = false
  frames : ∀ f ∈ u.north.own, f.kind = kindAttn → f ∈ s.north.own
  kept : Risen s u → u.north.up = true → (∀ f ∈ s.north.own, f.kind = kindAttn → f ∈ u.north.own) ∧
    (s.north.tx ≠ none → u.north.tx = s.north.tx)

theorem Works.notifies {kept still : Prop} {s u : State} (h : Works kept still s u) : Notifies s u where
  raised := fun ⟨prio, clear, set, selected⟩ => by
    rw [h.marker, maskedRise_iff.mpr ⟨prio, clear, set, h.mask ▸ selected⟩, Bool.or_true]
  quiet calm unset := by
    rw [h.marker, unset, Bool.false_or, Bool.eq_false_iff]
    intro risen
    obtain ⟨prio, clear, set, selected⟩ := maskedRise_iff.mp risen
    exact calm.not_risen ⟨prio, clear, set, h.mask.symm ▸ selected⟩
  frames f mem _ := h.own ▸ mem
  kept _ _ := ⟨fun f mem _ => h.own.symm ▸ mem, fun _ => h.tx⟩

/-- Where no flag in the mask rises. -/
theorem notifies_calm {s u : State} (calm : Calm s u) (marker : s.mgmt.pendingAttn = false → u.mgmt.pendingAttn = false)
    (frames : ∀ f ∈ u.north.own, f.kind = kindAttn → f ∈ s.north.own) : Notifies s u :=
  ⟨fun risen => absurd risen calm.not_risen, fun _ => marker, frames, fun risen => absurd risen calm.not_risen⟩

theorem placedOwn_own_mem : ∀ {frames : List Frame} {p : NorthPort} {f : Frame}, f ∈ (placedOwn p frames).own →
    f ∈ p.own ∨ f ∈ frames
  | [], _, _, mem => .inl mem
  | g :: frames, p, f, mem => by
    obtain before | after := placedOwn_own_mem (frames := frames) (p := NorthPort.start { p with own := p.own ++ [g] }) mem
    · have := (northStart_own { p with own := p.own ++ [g] }).mem before
      rw [List.mem_append, List.mem_singleton] at this
      exact this.imp_right fun first => by rw [first]; exact List.mem_cons_self
    · exact .inr (List.mem_cons_of_mem g after)

/-- A RESP is placed in an own normal queue that is empty where the transmitter is idle. -/
theorem Notifies.placeOwn {s u : State} {f : Frame} (h : Notifies s u) (kind : f.kind ≠ kindAttn)
    (idle : u.north.tx = none → u.north.own = []) : Notifies s (placeOwn f u) where
  raised := h.raised
  quiet := h.quiet
  frames g mem attn := by
    obtain before | same := placedOwn_own_mem (frames := [f]) (p := u.north) mem
    · exact h.frames g before attn
    · rw [List.mem_singleton.mp same] at attn
      exact absurd attn kind
  kept risen up := by
    have was : u.north.up = true := (northStart_keeps { u.north with own := u.north.own ++ [f] }).1 ▸ up
    obtain ⟨own, tx⟩ := h.kept risen was
    by_cases busy : u.north.tx = none
    · rw [idle busy] at own
      refine ⟨fun g mem attn => absurd (own g mem attn) List.not_mem_nil, fun sending => ?_⟩
      rw [← tx sending, busy] at sending
      exact absurd rfl sending
    · have port : (Machine.placeOwn f u).north = { u.north with own := u.north.own ++ [f] } :=
        northStart_busy { u.north with own := u.north.own ++ [f] } busy
      rw [port]
      exact ⟨fun g mem attn => List.mem_append_left _ (own g mem attn), tx⟩

/-! ## After it -/

/-- What O40 says of an event. -/
def Marks (s t : State) : Prop :=
  (Risen s t → t.mgmt.pendingAttn = true ∨ ((∀ f ∈ s.north.own, f.kind ≠ kindAttn) ∧
    (attnFrame t ∈ t.north.own ∨ (s.north.tx = none ∧ t.north.tx = some (attnFrame t))))) ∧
  (Calm s t → s.mgmt.pendingAttn = false →
    t.mgmt.pendingAttn = false ∧ ∀ f ∈ t.north.own, f.kind = kindAttn → f ∈ s.north.own)

theorem marks_refl (s : State) : Marks s s :=
  ⟨fun risen => absurd risen (Calm.not_risen fun _ set _ => set), fun _ unset => ⟨unset, fun _ mem _ => mem⟩⟩

theorem attnDue_iff {u : State} : attnDue u = true ↔ u.mgmt.pendingAttn = true ∧ u.mgmt.flags &&& u.mgmt.mask ≠ 0#14 ∧
    0 < ownRoom u ∧ ∀ f ∈ u.north.own, f.kind ≠ kindAttn := by
  simp only [attnDue, Bool.and_eq_true, decide_eq_true_eq, List.all_eq_true, and_assoc, kindAttn]

theorem attnFrame_end {u t : State} (h : EndOfEvent u t) : attnFrame t = attnFrame u := by
  simp only [attnFrame, h.nodeAddr, h.flags, h.mask]

theorem reportFrame_kind (s : State) (r : Report) : (reportFrame s r).kind ≠ kindAttn := by
  show (0x43#8 : Byte) ≠ kindAttn
  decide

/-- The end of an event gives the marker its frame where a place is free, and moves reports otherwise. -/
theorem Notifies.marks {s u t : State} (h : Notifies s u) (ends : EndOfEvent u t) : Marks s t := by
  obtain ⟨n, -, port, -, -⟩ := ends.placed
  constructor
  · rintro ⟨prio, clear, set, selected⟩
    rw [ends.flags] at set
    rw [ends.mask] at selected
    have risen : Risen s u := ⟨prio, clear, set, selected⟩
    have some : u.mgmt.flags &&& u.mgmt.mask ≠ 0#14 :=
      bits_ne_zero.mpr ⟨prio, by rw [attnHas, BitVec.getLsbD_and, Bool.and_eq_true]; exact ⟨set, selected⟩⟩
    cases due : attnDue u
    · exact .inl (by rw [ends.marker, h.raised risen, due, decide_eq_true some]; rfl)
    · obtain ⟨-, -, room, none⟩ := attnDue_iff.mp due
      have up : u.north.up = true := by
        by_contra down
        rw [ownRoom, if_neg down] at room
        exact absurd room (by omega)
      obtain ⟨own, tx⟩ := h.kept risen up
      refine .inr ⟨fun f mem attn => none f (own f mem attn) attn, ?_⟩
      rw [attnFrame_end ends]
      rw [due, if_pos rfl] at port
      by_cases idle : s.north.tx = Option.none
      · have carried := placedOwn_carries ([attnFrame u] ++ (u.mgmt.reports.take n).map (reportFrame u)) u.north (attnFrame u)
          (.inr (.inr List.mem_cons_self))
        rw [← port] at carried
        exact carried.symm.imp_right fun sent => ⟨idle, sent⟩
      · rw [port, placedOwn_busy _ _ (by rw [tx idle]; exact idle)]
        exact .inl (List.mem_append_right _ List.mem_cons_self)
  · intro calm unset
    have before : Calm s u := fun prio set selected => calm prio (ends.flags.symm ▸ set) (ends.mask.symm ▸ selected)
    have marker := h.quiet before unset
    have due : attnDue u = false := by
      rw [Bool.eq_false_iff]
      intro due
      rw [(attnDue_iff.mp due).1] at marker
      cases marker
    refine ⟨by rw [ends.marker, marker]; rfl, fun f mem attn => ?_⟩
    rw [port, due] at mem
    obtain own | placed := placedOwn_own_mem mem
    · exact h.frames f own attn
    · obtain ⟨r, -, rfl⟩ := List.mem_map.mp placed
      exact absurd attn (reportFrame_kind u r)

theorem Notifies.finish {s u : State} (h : Notifies s u) : Marks s (finish u) := h.marks (endOfEvent_finish u)

/-! ## Requests -/

theorem respFrame_kind (code token : Byte) (r : Reply) (s : State) : (respFrame code token r s).kind ≠ kindAttn := by
  show kindResp ≠ kindAttn
  decide

theorem marks_dropRequest (s : State) : Marks s (finish (dropRequest s)) :=
  Notifies.finish (notifies_calm (fun _ set _ => set) id fun _ mem _ => mem)

/-- The north port is as it was, and the marker as a command may leave it. -/
structure ReplyNotifies (s u : State) : Prop where
  notifies : Notifies s u
  tx : u.north.tx = s.north.tx
  own : u.north.own = s.north.own

theorem Works.replyNotifies {kept still : Prop} {s u : State} (h : Works kept still s u) : ReplyNotifies s u :=
  ⟨h.notifies, h.tx, h.own⟩

theorem ReplyNotifies.answer {s : State} {r : Reply} (h : ReplyNotifies s r.state) (ports : PortsAgree s) (code token : Byte) :
    Notifies s (answer code token r) :=
  h.notifies.placeOwn (respFrame_kind code token r r.state) fun idle => by
    rw [h.own]
    exact (ports.northIdle (h.tx ▸ idle)).1

theorem marks_serve {s : State} (ports : PortsAgree s) (code token : Byte) {reply : State → Reply}
    (h : ReplyNotifies s (reply s).state) : Marks s (serve code token reply s) := by
  unfold serve
  split
  · exact marks_dropRequest s
  · exact (h.answer ports code token).finish

theorem replyNotifies_clearFlags (body : List Byte) (s : State) : ReplyNotifies s (clearFlagsReply body s).state := by
  unfold clearFlagsReply sized
  split
  · refine ⟨notifies_calm (fun prio set _ => ?_) id fun _ mem _ => mem, rfl, rfl⟩
    have both : attnHas (s.mgmt.flags &&& ~~~(flagMask body)) prio = true := set
    rw [attnHas, BitVec.getLsbD_and, Bool.and_eq_true] at both
    exact both.1
  · exact ⟨(works_refl (kept := True) (still := True) s).notifies, rfl, rfl⟩

theorem replyNotifies_setAttnMask (body : List Byte) (s : State) : ReplyNotifies s (setAttnMaskReply body s).state := by
  unfold setAttnMaskReply sized
  split
  · exact ⟨notifies_calm (fun _ set _ => set) id fun _ mem _ => mem, rfl, rfl⟩
  · exact ⟨(works_refl (kept := True) (still := True) s).notifies, rfl, rfl⟩

theorem replyNotifies_replyTo (code : Byte) (body : List Byte) (s : State) : ReplyNotifies s (replyTo code body s).state := by
  have works : ∀ {u : State}, Works False False s u → ReplyNotifies s u := Works.replyNotifies
  unfold replyTo
  split
  · exact works (works_writeJob body s)
  · exact works (works_deleteJob body s)
  · exact works (works_readJob body s)
  · exact works (works_writeStation body s)
  · exact works (works_writeLane body s)
  · exact works (works_writeLine body s)
  · exact works (works_laneStart body s)
  · exact works (works_laneDrain body s)
  · exact works (works_laneStop body s)
  · exact works (works_clearStation body s)
  · exact works (works_clearLost body s)
  · exact works (works_injectMark body s)
  · exact works (works_readStatus body s)
  · exact works (works_readMap body s)
  · exact replyNotifies_clearFlags body s
  · exact replyNotifies_setAttnMask body s
  · exact works (works_clearCounters body s)
  · exact works (works_refl s)

/-! ## Resets -/

theorem calm_noFlags {s u : State} (flags : u.mgmt.flags = 0#14) : Calm s u := fun prio set _ => by
  rw [flags, attnHas, BitVec.getLsbD_zero] at set
  cases set

theorem warmOwn_mem {answered : Bool} {own : List Frame} {f : Frame} (mem : f ∈ warmOwn answered own) : f ∈ own := by
  unfold warmOwn at mem
  split at mem
  · exact List.mem_of_mem_drop mem
  · cases mem

theorem notifies_warmReset (keep answered : Bool) {s u : State}
    (frames : ∀ f ∈ u.north.own, f.kind = kindAttn → f ∈ s.north.own) : Notifies s (warmReset keep answered u) :=
  notifies_calm (calm_noFlags rfl) (fun _ => rfl) fun f mem attn => frames f (warmOwn_mem mem) attn

theorem lineResetReply_state (body : List Byte) (s : State) : (lineResetReply body s).state = s := by
  unfold lineResetReply sized
  split
  · split <;> rfl
  · rfl

theorem notifies_refl (s : State) : Notifies s s := (works_refl (kept := True) (still := True) s).notifies

theorem notifies_broadcastReset (body : List Byte) (s : State) : Notifies s (broadcastReset body s) := by
  unfold broadcastReset
  split
  · exact notifies_warmReset _ false fun _ mem _ => mem
  · exact notifies_refl s

theorem marks_serveReset {s : State} (ports : PortsAgree s) (token : Byte) (body : List Byte) :
    Marks s (serveReset token body s) := by
  unfold serveReset
  split
  · exact marks_dropRequest s
  · have reply : ReplyNotifies s (lineResetReply body s).state := by
      rw [lineResetReply_state]
      exact ⟨notifies_refl s, rfl, rfl⟩
    have answered := reply.answer ports 0x60#8 token
    refine Notifies.finish ?_
    unfold answerReset
    dsimp only
    split
    · exact notifies_warmReset _ true answered.frames
    · exact answered

theorem marks_serveCode {s : State} (ports : PortsAgree s) (code token : Byte) (body : List Byte) :
    Marks s (serveCode code token body s) := by
  unfold serveCode
  split
  · exact marks_serveReset ports token body
  · exact marks_serve ports code token (replyNotifies_replyTo code body s)

/-! ## The link -/

theorem notifies_goUp (p : Port) (s : State) : Notifies s (goUp p s) := by
  cases p <;> exact notifies_calm (fun _ set _ => set) id fun _ mem _ => mem

theorem notifies_endTransmission (p : Port) (s : State) : Notifies s (endTransmission p s) := by
  cases p
  all_goals
    unfold endTransmission
    dsimp only
    split
  · exact notifies_calm (fun _ set _ => set) id fun f mem _ => (northStart_own { s.north with tx := none }).mem mem
  · exact notifies_refl s
  · exact notifies_calm (fun _ set _ => set) id fun _ mem _ => mem
  · exact notifies_refl s

theorem works_raise {kept still : Prop} (p : Nat) (s : State) : Works kept still s (raise p s) := inside_works (inside_raise p s)

theorem works_north {p : NorthPort} (s : State) (own : p.own = s.north.own) (tx : p.tx = s.north.tx) :
    Works False False s { s with north := p } := works_quiet own tx rfl rfl rfl False.elim False.elim

theorem works_crcError (p : Port) (s : State) : Works False False s (crcError p s) := by
  cases p
  · exact (works_north (p := { s.north with crcErrors := bump s.north.crcErrors }) s rfl rfl).trans (works_raise _ _)
  · exact (works_blocks s.nip s.web s.jobs s.jobReads _ s).trans (works_raise _ _)

theorem works_dropNorth (k : Nat) (s : State) : Works False False s (dropNorth k s) := by
  unfold dropNorth
  split
  · exact works_refl s
  · exact (works_north (p := { s.north with fwdDrops := bumpBy k s.north.fwdDrops }) s rfl rfl).trans (works_raise _ _)

theorem works_downSouth (s : State) : Works False False s (downSouth s) :=
  (works_blocks s.nip s.web s.jobs s.jobReads _ s).trans (inside_works (inside_dropSouth _ _))

theorem crcError_up (p : Port) (s : State) : (crcError p s).north.up = s.north.up := by cases p <;> rfl

theorem dropNorth_up (k : Nat) (s : State) : (dropNorth k s).north.up = s.north.up := by
  unfold dropNorth
  split <;> rfl

/-- A north port that is DOWN has lost its own frames. -/
theorem Works.notifies_down {kept still : Prop} {s u : State} {p : NorthPort} (h : Works kept still { s with north := p } u)
    (empty : p.own = []) (down : u.north.up = false) : Notifies s u where
  raised := h.notifies.raised
  quiet := h.notifies.quiet
  frames f mem _ := by
    rw [h.own] at mem
    exact absurd (empty ▸ mem) List.not_mem_nil
  kept _ up := by
    rw [down] at up
    cases up

theorem notifies_goDown (p : Port) (receiving : Bool) (s : State) : Notifies s (goDown p receiving s) := by
  cases p
  · have lost := works_dropNorth (s.north.fwd.length + s.north.own.length + txCount s.north.tx)
      { s with north := { s.north with up := false, tx := none, fwd := [], own := [] } }
    have down : (downNorth s).north.up = false := dropNorth_up _ _
    cases receiving
    · exact lost.notifies_down rfl down
    · exact (lost.trans (works_crcError .north _)).notifies_down rfl ((crcError_up .north _).trans down)
  · cases receiving
    · exact (works_downSouth s).notifies
    · exact ((works_downSouth s).trans (works_crcError .south _)).notifies

/-! ## The unit's own commands -/

theorem marks_attnQueued (s : State) : Marks s (refreshPins (placeAttn (dropMarker s))) := by
  rw [placeAttn_spec]
  refine ⟨fun risen => absurd risen (Calm.not_risen fun _ set _ => set), fun _ unset => ⟨?_, fun f mem attn => ?_⟩⟩
  · show (s.mgmt.pendingAttn && _ && _) = false
    rw [unset]
    rfl
  · have due : attnDue s = false := by
      rw [Bool.eq_false_iff]
      intro due
      rw [(attnDue_iff.mp due).1] at unset
      cases unset
    have own : f ∈ (placedOwn s.north (if attnDue s then [attnFrame s] else [])).own := mem
    rw [due] at own
    exact own

theorem marks_reportQueued (s : State) : Marks s (refreshPins (moveReports 1 s)) := by
  obtain none | ⟨r, rest, -, moved⟩ := moveReports_one s
  · rw [none]
    exact marks_refl s
  · rw [moved]
    refine ⟨fun risen => absurd risen (Calm.not_risen fun _ set _ => set), fun _ unset => ⟨unset, fun f mem attn => ?_⟩⟩
    obtain own | placed := placedOwn_own_mem (frames := [reportFrame s r]) (p := s.north) mem
    · exact own
    · rw [List.mem_singleton.mp placed] at attn
      exact absurd attn (reportFrame_kind s r)

theorem marks_coldState (s : State) : Marks s (coldState s) :=
  ⟨fun risen => absurd risen (calm_noFlags rfl).not_risen, fun _ _ => ⟨rfl, fun _ mem => absurd mem List.not_mem_nil⟩⟩

/-! ## Every command -/

theorem Worked.marks {c : Instr} {s t : State} (h : Worked c s t) (ports : PortsAgree s) : Marks s t := by
  obtain rfl | ⟨u, rfl, work⟩ | ⟨code, token, reply, rfl, work⟩ := h
  · exact marks_refl _
  · exact work.notifies.finish
  · exact marks_serve ports code token work.replyNotifies

theorem exec_marks {c : Instr} {s t : State} (ports : PortsAgree s) (step : exec c s = .next t)
    (event : ∀ p bytes, c ≠ .frameReceived p bytes) : Marks s t := by
  by_cases plain : Singular c
  case neg => exact (exec_worked step plain).marks ports
  case pos =>
    have when : ∀ {b : Bool} {u v : State}, Marks s u → Marks s v → Marks s (if b then u else v) := fun {b} _ _ yes no => by
      cases b
      · exact no
      · exact yes
    cases c <;> cases step
    case coldReset => exact marks_coldState s
    case portDown p receiving => exact when (notifies_goDown p receiving s).finish (marks_refl s)
    case portUp p => exact when (marks_refl s) (notifies_goUp p s).finish
    case frameReceived p bytes => exact absurd rfl (event p bytes)
    case transmissionEnd p => exact (notifies_endTransmission p s).finish
    -- the ENUM command, whose constructor's name is a word of Lean's own here
    next =>
      exact when (works_enumerate (still := True) _ s).notifies.finish (marks_refl s)
    case attnQueued => exact marks_attnQueued s
    case reportQueued => exact marks_reportQueued s
    case writeStation => exact marks_serve ports _ _ (works_writeStation (still := True) _ s).replyNotifies
    case writeLane => exact marks_serve ports _ _ (works_writeLane (still := True) _ s).replyNotifies
    case writeLine => exact marks_serve ports _ _ (works_writeLine _ s).replyNotifies
    case clearFlags => exact marks_serve ports _ _ (replyNotifies_clearFlags _ s)
    case setAttnMask => exact marks_serve ports _ _ (replyNotifies_setAttnMask _ s)
    case lineReset => exact when (notifies_broadcastReset _ s).finish (marks_serveReset ports _ _)
    case unknownRequest => exact marks_serveCode ports _ _ _
    all_goals exact plain.elim

/-- Settles O40: before the end of its event a command sets the marker exactly with a flag in the mask; the end places its frame. -/
theorem markerRisesWithMaskedFlag : Obligations.MarkerRisesWithMaskedFlag := by
  intro c s t ports step event
  exact exec_marks ports step fun p bytes received => by
    subst received
    exact event

end Sys2Proof.Machine
end

section
/-! PROOFS. The issue of a cut and of a knife action (R104 to R108, R116, R153): the common core, and what it does to the owner. -/

namespace Sys2Proof.Machine

/-! ## Fire point and fire delay (R104, R105) -/

theorem fireDelay_eq (r : Int) (speed horizon : Nat) : fireDelay r speed horizon =
    if speed = 0 ∨ r < 0 then 0 else min horizon (r.toNat * 256000 / speed) := by
  unfold fireDelay clampNat
  by_cases still : speed = 0
  · rw [if_pos still, if_pos (.inl still)]
  · rw [if_neg still, Nat.zero_max]
    by_cases late : r < 0
    · rw [if_pos (.inr late), Int.toNat_of_nonpos (le_of_lt late), Nat.zero_mul, Nat.zero_div, Nat.min_zero]
    · rw [if_neg (by rintro (zero | early); exacts [still zero, late early])]

theorem isDue_iff {r : Int} {speed horizon : Nat} : isDue r speed horizon = true ↔
    r * 256000 ≤ ((speed * horizon : Nat) : Int) := decide_eq_true_iff

/-! ## The frame of an action (R108) -/

theorem actPayload_eq (id : BitVec 16) (act : Action) (delay : Nat) : actPayload id act delay = actBytes id act delay := by
  unfold actPayload actBytes
  cases act.kind <;> rfl

theorem issueCore_south {st : Station} {act : Action} {delay est : Nat} {s : State} (up : s.south.up = true) :
    (issueCore st act delay est s).south = SouthPort.start { s.south with
      urgent := s.south.urgent ++ [{ dst := (recordOr (s.station st)).addr, src := s.nodeAddr, kind := 0x30#8,
                                     payload := actBytes (nextId s.lastId) act delay }] } := by
  unfold issueCore sendUrgent
  dsimp only
  rw [State.south_modStation, if_pos up]
  simp only [actFrame, actPayload_eq]
  rfl

theorem issueCore_lost {st : Station} {act : Action} {delay est : Nat} {s : State} (down : s.south.up = false) :
    (issueCore st act delay est s).south = { s.south with fwdDrops := min (s.south.fwdDrops + 1) 65535 } ∧
      attnHas (issueCore st act delay est s).mgmt.flags prioLinkError = true := by
  unfold issueCore sendUrgent
  dsimp only
  rw [State.south_modStation, if_neg (by simp [down]), dropSouth, if_neg (by decide)]
  refine ⟨?_, attnHas_raise (by decide) (by decide) _⟩
  simp only [raise, State.south_modStation, bumpBy]

/-- What becomes of the ACT frame at the south port, whether it is UP or DOWN (R108, R179). -/
def ActQueued (s t : State) (st : Station) (act : Action) (delay : Nat) : Prop :=
  (s.south.up = true → t.south = SouthPort.start { s.south with
    urgent := s.south.urgent ++ [{ dst := (recordOr (s.station st)).addr, src := s.nodeAddr, kind := 0x30#8,
                                   payload := actBytes (nextId s.lastId) act delay }] }) ∧
  (s.south.up = false → t.south = { s.south with fwdDrops := min (s.south.fwdDrops + 1) 65535 } ∧
    attnHas t.mgmt.flags prioLinkError = true)

theorem actQueued_issueCore (st : Station) (act : Action) (delay est : Nat) (s : State) :
    ActQueued s (issueCore st act delay est s) st act delay := ⟨issueCore_south, issueCore_lost⟩

theorem ActQueued.of_modLane {s t : State} {l : Lane} {f : LaneState → LaneState} {st : Station} {act : Action} {delay : Nat}
    (h : ActQueued (s.modLane l f) t st act delay) : ActQueued s t st act delay := by
  unfold ActQueued at *
  rwa [State.south_modLane, State.station_modLane, State.nodeAddr_modLane, State.lastId_modLane] at h

/-! ## The owner -/

theorem seg?_modSeg {f : Segment → Segment} (keeps : ∀ g, (f g).id = g.id) (l : Lane) (id k : Nat) (s : State) :
    (s.modSeg l id f).seg? l k = (s.seg? l k).map (fun g => if g.id = id then f g else g) := by
  have same : ∀ g : Segment, (if g.id = id then f g else g).id = g.id := fun g => by
    split
    · exact keeps g
    · rfl
  simp only [State.seg?, modSeg_segs, List.find?_map, Function.comp_def, same]

theorem seg?_congr {s t : State} {l : Lane} (h : (t.lane l).segs = (s.lane l).segs) (k : Nat) : t.seg? l k = s.seg? l k := by
  simp only [State.seg?, h]

theorem seg?_id {s : State} {l : Lane} {k : Nat} {g : Segment} (h : s.seg? l k = some g) : g.id = k := by
  simpa using List.find?_some h

theorem isEstimating_iff {s : State} : isEstimating s = true ↔ s.tracker.mode = .estimated ∨ s.tracker.mode = .holding := by
  simp only [isEstimating, liveEstimated, Bool.or_eq_true, decide_eq_true_eq]

/-- A state that differs in the segments of a lane only. -/
def OnlySegs (l : Lane) (s t : State) : Prop := ∃ segs, t = s.setLane l { s.lane l with segs := segs }

theorem onlySegs_modSeg (l : Lane) (id : Nat) (f : Segment → Segment) (s : State) : OnlySegs l s (s.modSeg l id f) := ⟨_, rfl⟩

theorem onlySegs_refl (l : Lane) (s : State) : OnlySegs l s s := ⟨(s.lane l).segs, by cases l <;> rfl⟩

theorem OnlySegs.trans {l : Lane} {s t u : State} (h : OnlySegs l s t) (k : OnlySegs l t u) : OnlySegs l s u := by
  obtain ⟨x, rfl⟩ := h
  obtain ⟨y, rfl⟩ := k
  exact ⟨y, by cases l <;> rfl⟩

theorem onlySegs_flagEstimated (l : Lane) (act : Action) (s : State) : OnlySegs l s (flagEstimated l act s) := by
  unfold flagEstimated
  split
  · split
    · exact onlySegs_modSeg l _ _ s
    · exact onlySegs_refl l s
  · exact onlySegs_refl l s

namespace OnlySegs

variable {l : Lane} {s t : State} (h : OnlySegs l s t)
include h

theorem lastId : t.lastId = s.lastId := by obtain ⟨_, rfl⟩ := h; simp
theorem south : t.south = s.south := by obtain ⟨_, rfl⟩ := h; simp
theorem mgmt : t.mgmt = s.mgmt := by obtain ⟨_, rfl⟩ := h; simp
theorem tracker : t.tracker = s.tracker := by obtain ⟨_, rfl⟩ := h; simp
theorem nip : t.nip = s.nip := by obtain ⟨_, rfl⟩ := h; simp
theorem web : t.web = s.web := by obtain ⟨_, rfl⟩ := h; simp
theorem jobs : t.jobs = s.jobs := by obtain ⟨_, rfl⟩ := h; simp
theorem station (st : Station) : t.station st = s.station st := by obtain ⟨_, rfl⟩ := h; cases st <;> simp
theorem cutQueue : (t.lane l).cutQueue = (s.lane l).cutQueue := by obtain ⟨_, rfl⟩ := h; simp
theorem trimQueue : (t.lane l).trimQueue = (s.lane l).trimQueue := by obtain ⟨_, rfl⟩ := h; simp

theorem actQueued {u : State} {st : Station} {act : Action} {delay : Nat} (k : ActQueued u s st act delay) :
    ActQueued u t st act delay := by
  unfold ActQueued at *
  rwa [h.south, h.mgmt]

end OnlySegs

/-- An owner keeps its flags but ESTIMATED, which it has where the tracker estimates (R108, step 6). -/
def EstimateShown (s : State) (g g' : Segment) : Prop :=
  g'.flags &&& defEstimated = if s.tracker.mode = .estimated ∨ s.tracker.mode = .holding then defEstimated
    else g.flags &&& defEstimated

theorem flagEstimated_seg? {l : Lane} {act : Action} {k : Nat} {s : State} {g : Segment} (owner : act.owner = some k)
    (found : s.seg? l k = some g) : ∃ g', (flagEstimated l act s).seg? l k = some g' ∧ EstimateShown s g g' ∧
      g'.cutsLate = g.cutsLate ∧ g'.lateness = g.lateness := by
  unfold flagEstimated EstimateShown
  rw [owner]
  dsimp only
  split
  next estimating =>
    refine ⟨g.flag defEstimated, ?_, ?_, rfl, rfl⟩
    · rw [flagSeg, seg?_modSeg (Segment.flag_id defEstimated), found, Option.map_some, if_pos (seg?_id found)]
    · rw [if_pos (isEstimating_iff.mp estimating)]
      exact flag_self g.flags defEstimated
  next still =>
    exact ⟨g, found, by rw [if_neg fun h => still (isEstimating_iff.mpr h)], rfl, rfl⟩

theorem flag_beside {g : Segment} {d e : BitVec 12} (apart : d &&& e = 0#12) : (g.flag d).flags &&& e = g.flags &&& e := by
  simp only [Segment.flag]
  rw [BitVec.and_comm, BitVec.and_or_distrib_left, BitVec.and_comm e d, apart, BitVec.or_zero, BitVec.and_comm]

/-! ## A cut (R105, R106) -/

section Cut

variable {l : Lane} {act : Action} {rest : List Action} {s : State}

theorem cutFate_issues (ready : (s.station (cutterOf l)).mode = .ready)
    (due : toGo (cutterOf l) act.target s * 256000 ≤ ((s.tracker.speed * s.setup.horizon : Nat) : Int))
    (within : -toGo (cutterOf l) act.target s ≤ ((recordOr (s.station (cutterOf l))).tol : Int)) :
    cutFate l act s = .issued := by
  have kept : ¬beyondTol (cutterOf l) (toGo (cutterOf l) act.target s) s = true := by
    rw [beyondTol, tolOf, decide_eq_true_eq]
    exact not_lt.mpr within
  simp only [cutFate, ready, isDue_iff.mpr due, if_true]
  exact if_neg kept

theorem exec_issueCut (queue : (s.lane l).cutQueue = act :: rest) (fate : cutFate l act s = .issued) :
    exec (.actionIssue (cutterOf l)) s = .next (finish (issueCut l act s)) := by
  have head : cutHead l s = some (act, .issued) := by simp only [cutHead, queue, List.head?_cons, Option.map_some, fate]
  have issued : issueCutHead l s = issueCut l act s := by simp only [issueCutHead, head]
  cases l <;> exact congrArg (fun u => Host.Outcome.next (finish u)) issued

/-- The fire delay of an action at a station (R105). -/
def delayOf (st : Station) (act : Action) (s : State) : Nat :=
  fireDelay (toGo st act.target s) s.tracker.speed s.setup.horizon

/-- The core of a cut's issue: the action out of its queue, then R108. -/
def cutCore (l : Lane) (act : Action) (s : State) : State :=
  issueCore (cutterOf l) act (delayOf (cutterOf l) act s) 0 (popCut l s)

theorem issueCut_onlySegs (l : Lane) (act : Action) (s : State) : OnlySegs l (cutCore l act s) (issueCut l act s) := by
  have flagged := onlySegs_flagEstimated l act (cutCore l act s)
  unfold issueCut
  dsimp only
  split
  · split
    · exact flagged.trans (onlySegs_modSeg l _ _ _)
    · exact flagged
  · exact flagged

theorem actQueued_cutCore (l : Lane) (act : Action) (s : State) :
    ActQueued s (cutCore l act s) (cutterOf l) act (delayOf (cutterOf l) act s) := by
  exact (actQueued_issueCore (cutterOf l) act (delayOf (cutterOf l) act s) 0 (popCut l s)).of_modLane

theorem cutCore_seg? (k : Nat) : (cutCore l act s).seg? l k = s.seg? l k :=
  seg?_congr (by rw [cutCore, issueCore_lane, popCut, State.lane_modLane]) k

theorem cutCore_tracker : (cutCore l act s).tracker = s.tracker := by
  rw [cutCore, issueCore_tracker, popCut, State.tracker_modLane]

/-- The owner of an issued cut: ESTIMATED as the tracker stands, and a late cut noted (R78, R106, R108). -/
theorem issueCut_seg? {k : Nat} {g : Segment} (owner : act.owner = some k) (found : s.seg? l k = some g) :
    ∃ g', (issueCut l act s).seg? l k = some g' ∧ EstimateShown s g g' ∧
      (toGo (cutterOf l) act.target s < 0 → g'.cutsLate = g.cutsLate + 1 ∧
        g'.lateness = max g.lateness (-toGo (cutterOf l) act.target s).toNat ∧ g'.flags &&& defCutLate = defCutLate) := by
  obtain ⟨g', found', shown, late, lateness⟩ := flagEstimated_seg? (act := act) owner ((cutCore_seg? (act := act) k).trans found)
  have same : EstimateShown s g g' := by
    unfold EstimateShown at *
    rwa [cutCore_tracker] at shown
  unfold issueCut
  rw [owner]
  dsimp only
  split
  next behind =>
    refine ⟨noteLate (-toGo (cutterOf l) act.target s).toNat g', ?_, ?_, fun _ => ⟨?_, ?_, ?_⟩⟩
    · refine (seg?_modSeg (f := noteLate _) (fun _ => rfl) l k k _).trans ?_
      exact (congrArg (Option.map _) found').trans (by rw [Option.map_some, if_pos (seg?_id found')])
    · refine .trans ?_ same
      exact flag_beside (by decide)
    · exact congrArg (· + 1) late
    · exact congrArg (max · _) lateness
    · exact flag_self g'.flags defCutLate
  next ahead => exact ⟨g', found', same, fun behind => absurd behind ahead⟩

end Cut

/-! ## A knife action (R107, R153) -/

section Knife

variable {l : Lane} {act : Action} {rest : List Action} {s : State}

theorem trimFate_issues (ready : (s.station (trimmerOf l)).mode = .ready)
    (due : toGo (trimmerOf l) act.target s * 256000 ≤ ((s.tracker.speed * s.setup.horizon : Nat) : Int)) :
    trimFate l act s = .issued := by
  simp only [trimFate, ready, isDue_iff.mpr due, if_true]

theorem exec_issueKnife (queue : (s.lane l).trimQueue = act :: rest) (fate : trimFate l act s = .issued) :
    exec (.actionIssue (trimmerOf l)) s = .next (finish (issueKnife l act s)) := by
  have head : trimHead l s = some (act, .issued) := by simp only [trimHead, queue, List.head?_cons, Option.map_some, fate]
  have issued : issueKnifeHead l s = issueKnife l act s := by simp only [issueKnifeHead, head]
  cases l <;> exact congrArg (fun u => Host.Outcome.next (finish u)) issued

/-- The core of a knife action's issue, its move estimate in the timeout. -/
def knifeCore (l : Lane) (act : Action) (s : State) : State :=
  issueCore (trimmerOf l) act (delayOf (trimmerOf l) act s)
    (moveEstimate (recordOr (s.station (trimmerOf l))) act (fromOf (s.lane l).moves act.key)) (popTrim l s)

theorem issueKnife_onlySegs (l : Lane) (act : Action) (s : State) : OnlySegs l (knifeCore l act s) (issueKnife l act s) :=
  (onlySegs_flagEstimated l act (knifeCore l act s)).trans (onlySegs_modSeg l _ _ _)

theorem actQueued_knifeCore (l : Lane) (act : Action) (s : State) :
    ActQueued s (knifeCore l act s) (trimmerOf l) act (delayOf (trimmerOf l) act s) := by
  exact (actQueued_issueCore (trimmerOf l) act (delayOf (trimmerOf l) act s)
    (moveEstimate (recordOr (s.station (trimmerOf l))) act (fromOf (s.lane l).moves act.key)) (popTrim l s)).of_modLane

theorem knifeCore_seg? (k : Nat) : (knifeCore l act s).seg? l k = s.seg? l k :=
  seg?_congr (by rw [knifeCore, issueCore_lane, popTrim, State.lane_modLane]) k

theorem knifeCore_tracker : (knifeCore l act s).tracker = s.tracker := by
  rw [knifeCore, issueCore_tracker, popTrim, State.tracker_modLane]

theorem issueKnife_seg? {k : Nat} {g : Segment} (owner : act.owner = some k) (found : s.seg? l k = some g) :
    ∃ g', (issueKnife l act s).seg? l k = some g' ∧ EstimateShown s g g' := by
  obtain ⟨g', found', shown, -, -⟩ := flagEstimated_seg? (act := act) owner ((knifeCore_seg? (act := act) k).trans found)
  have same : EstimateShown s g g' := by
    unfold EstimateShown at *
    rwa [knifeCore_tracker] at shown
  have watch : ∀ h : Segment, (if h.watch.watched = some act.key then { h with watch := { h.watch with moving := true } } else h).id =
      h.id ∧ (if h.watch.watched = some act.key then { h with watch := { h.watch with moving := true } } else h).flags = h.flags :=
    fun h => by split <;> exact ⟨rfl, rfl⟩
  have kept : ∃ h, (issueKnife l act s).seg? l k = some h ∧ h.flags = g'.flags := by
    refine ⟨_, (seg?_modSeg (fun h => (watch h).1) l act.key k _).trans ((congrArg (Option.map _) found').trans (Option.map_some ..)), ?_⟩
    split
    · exact (watch g').2
    · rfl
  obtain ⟨h, stands, flags⟩ := kept
  refine ⟨h, stands, ?_⟩
  unfold EstimateShown
  rw [flags]
  exact same

theorem moveEstimate_eq (r : StationRecord) (act : Action) (before : Option (Nat × Nat)) : moveEstimate r act before =
    if act.kind = .move then r.settle + ceilDiv ((match before with
      | some (n, f) => max (max act.near n - min act.near n) (max act.far f - min act.far f)
      | none => 32000) * 1000) r.knifeSpeed else r.settle := by
  unfold moveEstimate knifeTravel lateralGap
  rfl

end Knife

/-- Settles O27: the action leaves its queue, R108 takes it, and its owner is flagged. -/
theorem dueHeadIssued : Obligations.DueHeadIssued := by
  refine ⟨fun s st target r => ⟨rfl, fireDelay_eq r _ _⟩, ?_, ?_⟩
  · intro s l act rest queue ready due within
    refine ⟨_, exec_issueCut queue (cutFate_issues ready due within), ?_⟩
    have ends := endOfEvent_finish (issueCut l act s)
    have rest' := issueCut_onlySegs l act s
    have queued := rest'.actQueued (actQueued_cutCore l act s)
    have seg : ∀ k, (finish (issueCut l act s)).seg? l k = (issueCut l act s).seg? l k := fun k => seg?_congr (by rw [ends.lane]) k
    refine ⟨?_, ?_, ?_, ?_, ?_, fun k g owner found => ?_, fun late k g owner found => ?_, ?_, ?_, ?_, ?_⟩
    · rw [ends.lastId, rest'.lastId, cutCore, issueCore_lastId, popCut, State.lastId_modLane]
      rfl
    · rw [ends.lane, rest'.cutQueue, cutCore, issueCore_lane, popCut, State.lane_modLane, queue]
      rfl
    · rw [ends.station, rest'.station, cutCore, issueCore_station, popCut_station, popCut, State.lastId_modLane]
      rfl
    · rw [ends.south]
      exact queued.1
    · rw [ends.south, ends.flags]
      exact queued.2
    · obtain ⟨g', found', shown, -⟩ := issueCut_seg? owner found
      exact ⟨g', (seg k).trans found', shown⟩
    · obtain ⟨g', found', -, noted⟩ := issueCut_seg? owner found
      exact ⟨g', (seg k).trans found', noted late⟩
    · rw [ends.tracker, rest'.tracker, cutCore_tracker]
    · rw [ends.nip, rest'.nip, cutCore, issueCore_nip, popCut, State.nip_modLane]
    · rw [ends.web, rest'.web, cutCore, issueCore_web, popCut, State.web_modLane]
    · rw [ends.jobs, rest'.jobs, cutCore, issueCore_jobs, popCut, State.jobs_modLane]
  · intro s l act rest queue ready due
    refine ⟨_, exec_issueKnife queue (trimFate_issues ready due), ?_⟩
    have ends := endOfEvent_finish (issueKnife l act s)
    have rest' := issueKnife_onlySegs l act s
    have queued := rest'.actQueued (actQueued_knifeCore l act s)
    have seg : ∀ k, (finish (issueKnife l act s)).seg? l k = (issueKnife l act s).seg? l k := fun k => seg?_congr (by rw [ends.lane]) k
    refine ⟨?_, ?_, ?_, ?_, ?_, ?_, fun k g owner found => ?_, ?_, ?_, ?_, ?_⟩
    · rw [ends.lastId, rest'.lastId, knifeCore, issueCore_lastId, popTrim, State.lastId_modLane]
      rfl
    · rw [ends.lane, rest'.trimQueue, knifeCore, issueCore_lane, popTrim, State.lane_modLane, queue]
      rfl
    · rw [ends.lane, rest'.cutQueue, knifeCore, issueCore_lane, popTrim, State.lane_modLane]
    · rw [ends.station, rest'.station, knifeCore, issueCore_station, popTrim, State.station_modLane, State.lastId_modLane, moveEstimate_eq]
      rfl
    · rw [ends.south]
      exact queued.1
    · rw [ends.south, ends.flags]
      exact queued.2
    · obtain ⟨g', found', shown⟩ := issueKnife_seg? owner found
      exact ⟨g', (seg k).trans found', shown⟩
    · rw [ends.tracker, rest'.tracker, knifeCore_tracker]
    · rw [ends.nip, rest'.nip, knifeCore, issueCore_nip, popTrim, State.nip_modLane]
    · rw [ends.web, rest'.web, knifeCore, issueCore_web, popTrim, State.web_modLane]
    · rw [ends.jobs, rest'.jobs, knifeCore, issueCore_jobs, popTrim, State.jobs_modLane]

end Sys2Proof.Machine
end

section
/-! PROOFS. The issue of LAM's offer (R135, R138, R139, R143). -/

namespace Sys2Proof.Machine

variable {o : Offer} {s : State}

/-- How late an offer is issued (R107). -/
def offerLate (o : Offer) (s : State) : Nat := (-toGo .lam o.target s).toNat

/-- R108 for an offer. -/
def lamCore (o : Offer) (s : State) : State := issueCore .lam (offerAction o) (delayOf .lam (offerAction o) s) 0 s

theorem issueLam_eq (o : Offer) (s : State) :
    issueLam o s = recompute (issueNoted o (offerLate o s) (lamCore o s).lastId (lamCore o s)) := rfl

theorem exec_issueLam (offered : s.nip.offer = some o) (ready : s.lam.mode = .ready)
    (due : toGo .lam o.target s * 256000 ≤ ((s.tracker.speed * s.setup.horizon : Nat) : Int)) :
    exec (.actionIssue .lam) s = .next (finish (issueLam o s)) := by
  have issued : lamTest s = issueLam o s := by
    rw [lamTest_some offered, if_pos ((lamReady_iff o s).mpr ⟨ready, isDue_iff.mpr due⟩)]
  exact congrArg (fun u => Host.Outcome.next (finish u)) issued

theorem inside_issueLam (o : Offer) (s : State) : Inside s (issueLam o s) :=
  (inside_issueLam_core o s).trans (inside_nipIssued _ _ _ _)

theorem actQueued_issueLam (o : Offer) (s : State) :
    ActQueued s (issueLam o s) .lam (offerAction o) (delayOf .lam (offerAction o) s) := by
  have core := actQueued_issueCore .lam (offerAction o) (delayOf .lam (offerAction o) s) 0 s
  have south := (issueLam_lastId o s).2
  refine ⟨fun up => south.trans (core.1 up), fun down => ⟨south.trans (core.2 down).1, ?_⟩⟩
  exact attnHas_mono (inside_nipIssued o _ _ _).flags (core.2 down).2

/-! ## An ENGAGE -/

/-- The state in which an ENGAGE is tested: R108 done, the transition recorded (R135). -/
def engaged (o : Offer) (s : State) : State :=
  { lamCore o s with nip := nipRecord o (lamCore o s).lastId (lamCore o s).nip }

theorem issueLam_engage (engage : o.kind = .engage) (s : State) : issueLam o s =
    recompute (noteBegun o (engageTemp o (lateEngage o (offerLate o s) (engaged o s)))) := by
  rw [issueLam_eq, issueNoted, if_pos engage]
  rfl

theorem engaged_zones (o : Offer) (s : State) : (engaged o s).nip.zones = s.nip.zones := by
  show (lamCore o s).nip.zones = _
  rw [lamCore, issueCore_nip]

theorem engaged_plan (o : Offer) (s : State) : (engaged o s).nip.plan = s.nip.plan := by
  show (lamCore o s).nip.plan = _
  rw [lamCore, issueCore_nip]

theorem engaged_inside (o : Offer) (s : State) : Inside s (engaged o s) :=
  (inside_issueLam_core o s).trans (inside_nip _ _ rfl rfl rfl rfl)

theorem nipWork_afterLate (o : Offer) (s : State) : NipWork (lateEngage o (offerLate o s) (engaged o s))
    (recompute (noteBegun o (engageTemp o (lateEngage o (offerLate o s) (engaged o s))))) :=
  ((nipWork_engageTemp o _).trans (nipWork_noteBegun o _)).trans (nipWork_recompute _)

theorem mem_requiredOver {t : Stretch} {zones : List ZoneEntry} {e : ZoneEntry} : e ∈ requiredOver t zones ↔
    e ∈ zones ∧ e.mode = .required ∧ precedes (later e.a t.a) (earlier e.b t.b) = true := by
  rw [requiredOver, List.mem_filter, Bool.and_eq_true, decide_eq_true_eq]
  rfl

/-- A late ENGAGE flags the owners of what it missed (R138). -/
theorem flagged_late (engage : o.kind = .engage)
    (late : ((recordOr s.lam).tol : Int) < sdiff (o.target + pu (offerLate o s)) o.wanted) {e : ZoneEntry} (mem : e ∈ s.nip.zones)
    (required : e.mode = .required)
    (overlap : precedes (later e.a o.wanted) (earlier e.b (o.target + pu (offerLate o s))) = true) :
    Flagged defLamShort e.lane e.seg (issueLam o s) := by
  rw [issueLam_engage engage]
  refine Flagged.nipWork ?_ (nipWork_afterLate o s)
  have record : recordOr (engaged o s).lam = recordOr s.lam := (engaged_inside o s).recordOr .lam
  unfold lateEngage
  dsimp only
  rw [record, if_pos late]
  exact flagged_flagOwners (by decide) _ (mem_requiredOver.mpr ⟨by rw [engaged_zones]; exact mem, required, overlap⟩)

theorem Inside.tempOut {t : State} (h : Inside s t) : tempOut t = tempOut s := by
  have record : t.lam.record = s.lam.record := h.stationRecord .lam
  simp only [Machine.tempOut, tempWindow, h.tempValid, h.temp, record]
  rfl

theorem lateEngaged_inside (o : Offer) (s : State) : Inside s (lateEngage o (offerLate o s) (engaged o s)) :=
  (engaged_inside o s).trans (inside_lateEngage _ _ _)

theorem engageTemp_out (out : tempOut s = true) : engageTemp o s = raise prioLamTemp (flagOwners defLamTemp (entriesBegun o s) s) :=
  if_pos out

/-- The stretch an ENGAGE begins, in the plan in which it was offered (R143). -/
theorem mem_entriesBegun {x : Stretch} (begun : stretchBegun o s.nip.plan = some x) {e : ZoneEntry} (mem : e ∈ s.nip.zones)
    (required : e.mode = .required) (overlap : precedes (later e.a x.a) (earlier e.b x.b) = true) {u : State}
    (nip : u.nip = (engaged o s).nip) : e ∈ entriesBegun o u := by
  unfold entriesBegun
  rw [nip, engaged_plan, begun, engaged_zones]
  exact mem_requiredOver.mpr ⟨mem, required, overlap⟩

theorem lateEngaged_nip (o : Offer) (s : State) : (lateEngage o (offerLate o s) (engaged o s)).nip = (engaged o s).nip :=
  lateEngage_nip _ _ _

/-- An ENGAGE with the temperature out of window (R143). -/
theorem attn_engageTemp (engage : o.kind = .engage) (out : tempOut s = true) :
    attnHas (issueLam o s).mgmt.flags prioLamTemp = true := by
  rw [issueLam_engage engage]
  refine attnHas_mono ((inside_noteBegun o _).trans (inside_recompute _)).flags ?_
  rw [engageTemp_out ((lateEngaged_inside o s).tempOut.trans out)]
  exact attnHas_raise (by decide) (by decide) _

section Begun

variable {x : Stretch} {e : ZoneEntry}

theorem flagged_engageTemp (engage : o.kind = .engage) (out : tempOut s = true) (begun : stretchBegun o s.nip.plan = some x)
    (mem : e ∈ s.nip.zones) (required : e.mode = .required) (overlap : precedes (later e.a x.a) (earlier e.b x.b) = true) :
    Flagged defLamTemp e.lane e.seg (issueLam o s) := by
  rw [issueLam_engage engage]
  refine Flagged.nipWork ?_ ((nipWork_noteBegun o _).trans (nipWork_recompute _))
  rw [engageTemp_out ((lateEngaged_inside o s).tempOut.trans out)]
  exact flagged_flagOwners (by decide) _ (mem_entriesBegun begun mem required overlap (lateEngaged_nip o s))

/-- A recomputation keeps the note of an ENGAGE for every REQUIRED entry still in the list (R139). -/
theorem begun_recompute (mem : e ∈ s.nip.zones) (required : e.mode = .required) (noted : e.key ∈ s.nip.begun) :
    e.key ∈ (recompute s).nip.begun := by
  have kept : ∀ u : State, u.nip = s.nip → e.key ∈ begunOf
      { u.nip with plan := planOf (banned s.web) s.setup.policy s.setup.bridge s.nip.zones } (lamPos u) := fun u same => by
    rw [begunOf, same]
    refine List.mem_map_of_mem (List.mem_filter.mpr ⟨mem, ?_⟩)
    rw [decide_eq_true required, List.contains_iff_mem.mpr noted, Bool.true_or, Bool.and_self]
  unfold recompute
  dsimp only
  refine kept _ ?_
  split
  · rw [raise_nip, flagOwners_nip]
  · rfl

theorem begun_issueLam (engage : o.kind = .engage) (begun : stretchBegun o s.nip.plan = some x) (mem : e ∈ s.nip.zones)
    (required : e.mode = .required) (overlap : precedes (later e.a x.a) (earlier e.b x.b) = true) :
    e.key ∈ (issueLam o s).nip.begun := by
  have nip : (engageTemp o (lateEngage o (offerLate o s) (engaged o s))).nip = (engaged o s).nip :=
    (engageTemp_nip o _).trans (lateEngaged_nip o s)
  rw [issueLam_engage engage]
  refine begun_recompute ?_ required ?_
  · show e ∈ (engageTemp o (lateEngage o (offerLate o s) (engaged o s))).nip.zones
    rw [nip, engaged_zones]
    exact mem
  · exact List.mem_append_right _ (List.mem_map_of_mem (mem_entriesBegun begun mem required overlap nip))

end Begun

/-- Settles O28: R108 for LAM's action, R135's record, and for an ENGAGE the tests of R138 and R143. -/
theorem nipTransitionIssued : Obligations.NipTransitionIssued := by
  intro s o offered ready due
  refine ⟨_, exec_issueLam offered ready due, ?_⟩
  have ends := endOfEvent_finish (issueLam o s)
  have lam : (finish (issueLam o s)).lam = (issueLam o s).lam := ends.station .lam
  have queued := actQueued_issueLam o s
  have work : NipWork s (issueLam o s) := nipWork_issueLam o ready
  obtain ⟨begun, nip⟩ := issueLam_nip o s
  have out : OutOfWindow s → tempOut s = true := (tempOut_iff s).mpr
  have stretch : ∀ x, (if o.corrective then s.nip.plan.find? (fun y => reaches o.target y.a && precedes o.target y.b)
      else s.nip.plan.find? (fun y => y.a = o.target)) = some x → stretchBegun o s.nip.plan = some x := fun x found => found
  refine ⟨?_, ?_, ?_, ?_, ?_, ?_, ?_, ?_, ?_, ⟨?_, ?_⟩, ?_, ?_, ?_⟩
  · rw [ends.lastId, (issueLam_lastId o s).1]
    rfl
  · rw [lam, issueLam_lam]
  · rw [lam, issueLam_lam]
    exact ⟨_, rfl, rfl, rfl, rfl⟩
  · rw [ends.nip, nip]
    cases kind : o.kind <;> simp only [nipAfterIssue, nipRecord, commandedBy, kind]
  · rw [ends.nip, nip]
    rfl
  · rw [ends.nip, nip]
    rfl
  · rw [ends.nip, nip]
    rfl
  · rw [ends.nip, nip]
    rfl
  · rw [ends.tracker, (inside_issueLam o s).tracker]
  · intro up
    rw [ends.south, queued.1 up]
    cases kind : o.kind <;> simp only [actBytes, offerAction, kind] <;> rfl
  · intro down
    rw [ends.south, ends.flags]
    exact queued.2 down
  · intro engage window
    rw [ends.flags]
    exact attn_engageTemp engage (out window)
  · intro _ engage late e mem required overlap
    exact ends.flagged_held (flagged_late engage late mem required overlap) work
  · intro engage x found e mem required overlap
    refine ⟨?_, fun window => ?_⟩
    · rw [ends.nip]
      exact begun_issueLam engage (stretch x found) mem required overlap
    · exact ends.flagged_held (flagged_engageTemp engage (out window) (stretch x found) mem required overlap) work

end Sys2Proof.Machine
end

section
/-! PROOFS. A principle for the work of the stations: a relation that is kept by each of its parts, and by a retirement and LAM's test,
holds from before to after an issue test or a final state (R78, R103 to R119). -/

namespace Sys2Proof.Machine

/-! ## The parts of the stations' work -/

/-- The defect flags that work at the stations does not set. -/
def trimFlags : BitVec 12 := registeredFlags ||| defTrimShort

/-- What the stations' work does to the segment that owns an action: flags, tallies, lateness, and the move in progress. -/
inductive OwnerEdit : (Segment → Segment) → Prop where
  | flag {d : BitVec 12} (plain : d &&& trimFlags = 0#12) : OwnerEdit (Segment.flag d)
  | tally (cut : Bool) (fin : FinalState) : OwnerEdit (tally cut fin)
  | late (n : Nat) : OwnerEdit (noteLate n)
  | moving (key : Nat) :
      OwnerEdit (fun g => if g.watch.watched = some key then { g with watch := { g.watch with moving := true } } else g)

/-- A relation that every part of the work at the stations of `own`, and at LAM, keeps. -/
structure WorkLaw (own : Station → Prop) (R : State → State → Prop) : Prop where
  refl : ∀ s, R s s
  trans : ∀ {s t u}, R s t → R t u → R s u
  turn : ∀ s, R s s.dropTurn
  raise : ∀ p s, R s (raise p s)
  popCut : ∀ l s, own (cutterOf l) → R s (popCut l s)
  popTrim : ∀ l s, own (trimmerOf l) → R s (popTrim l s)
  owner : ∀ {f}, OwnerEdit f → ∀ l id s, R s (s.modSeg l id f)
  issued : ∀ st act delay est s, own st → (s.station st).mode = .ready → R s (issueCore st act delay est s)
  knife : ∀ l key done s, own (trimmerOf l) → R s (trimFinal l key done s)
  retire : ∀ l g s, g ∈ (s.lane l).segs → g.state = .closed → R s (retire l g s)
  lam : ∀ s, R s (lamTest s)

namespace WorkLaw

variable {own : Station → Prop} {R : State → State → Prop} (w : WorkLaw own R)
include w

theorem foldl {α : Type} {f : State → α → State} (h : ∀ a s, R s (f s a)) : ∀ (xs : List α) (s : State), R s (xs.foldl f s)
  | [], s => w.refl s
  | a :: xs, s => w.trans (h a s) (foldl h xs (f s a))

theorem flagOwner (l : Lane) (act : Action) {d : BitVec 12} (plain : d &&& trimFlags = 0#12) (s : State) :
    R s (flagOwner l act d s) := by
  unfold Machine.flagOwner
  split
  · exact w.owner (.flag plain) l _ s
  · exact w.refl s

theorem flagEstimated (l : Lane) (act : Action) (s : State) : R s (flagEstimated l act s) := by
  unfold Machine.flagEstimated
  split
  · split
    · exact w.owner (.flag (by decide)) l _ s
    · exact w.refl s
  · exact w.refl s

theorem retireTest (l : Lane) (id : Nat) (s : State) : R s (retireTest l id s) := by
  unfold Machine.retireTest
  split
  next g found =>
    split
    next idle =>
      rw [retirable, Bool.and_eq_true, decide_eq_true_eq] at idle
      exact w.retire l g s (seg?_mem found).1 idle.1
    · exact w.refl s
  · exact w.refl s

theorem mapFinal (l : Lane) (act : Action) (fin : FinalState) (s : State) : R s (mapFinal l act fin s) := by
  unfold Machine.mapFinal
  split
  · exact w.trans (w.owner (.tally _ fin) l _ s) (w.retireTest l _ _)
  · exact w.refl s

theorem knifeFinal (l : Lane) (act : Action) (fin : FinalState) (s : State) (mine : own (trimmerOf l)) :
    R s (knifeFinal l act fin s) := w.trans (w.knife l _ _ s mine) (w.mapFinal l act fin _)

/-! ## Cutters -/

theorem issueCut (l : Lane) (act : Action) (s : State) (mine : own (cutterOf l)) (ready : (s.station (cutterOf l)).mode = .ready) :
    R s (issueCut l act s) := by
  have core := w.trans (w.popCut l s mine) (w.issued (cutterOf l) act
    (fireDelay (toGo (cutterOf l) act.target s) s.tracker.speed s.setup.horizon) 0 (Machine.popCut l s) mine
    (by rw [popCut_station]; exact ready))
  have flagged := w.trans core (w.flagEstimated l act _)
  unfold Machine.issueCut
  dsimp only
  split
  · split
    · exact w.trans flagged (w.owner (.late _) l _ _)
    · exact flagged
  · exact flagged

theorem skipCut (l : Lane) (act : Action) (s : State) (mine : own (cutterOf l)) : R s (skipCut l act s) :=
  w.trans (w.trans (w.trans (w.popCut l s mine) (w.flagOwner l act (by decide) _)) (w.raise _ _)) (w.mapFinal l act _ _)

theorem cancelCut (l : Lane) (act : Action) (s : State) (mine : own (cutterOf l)) : R s (cancelCut l act s) :=
  w.trans (w.trans (w.trans (w.popCut l s mine) (w.flagOwner l act (by decide) _)) (w.raise _ _)) (w.mapFinal l act _ _)

theorem cutTestN (l : Lane) (mine : own (cutterOf l)) : ∀ (n : Nat) (s : State), R s (cutTestN l n s)
  | 0, s => w.refl s
  | n + 1, s => by
    unfold Machine.cutTestN
    split
    · exact w.refl s
    · split
      · exact w.refl s
      next fate => exact w.issueCut l _ s mine (cutFate_issued fate)
      · exact w.trans (w.skipCut l _ s mine) (cutTestN l mine n _)
      · exact w.trans (w.cancelCut l _ s mine) (cutTestN l mine n _)

theorem cutTest (l : Lane) (s : State) (mine : own (cutterOf l)) : R s (cutTest l s) := w.cutTestN l mine _ s

/-! ## Trim stations -/

theorem issueKnife (l : Lane) (act : Action) (s : State) (mine : own (trimmerOf l)) (ready : (s.station (trimmerOf l)).mode = .ready) :
    R s (issueKnife l act s) :=
  w.trans (w.trans (w.trans (w.popTrim l s mine) (w.issued (trimmerOf l) act _ _ _ mine (by rw [popTrim_station]; exact ready)))
    (w.flagEstimated l act _)) (w.owner (.moving act.key) l act.key _)

theorem cancelKnife (l : Lane) (act : Action) (s : State) (mine : own (trimmerOf l)) : R s (cancelKnife l act s) :=
  w.trans (w.trans (w.trans (w.popTrim l s mine) (w.flagOwner l act (by decide) _)) (w.raise _ _)) (w.knifeFinal l act _ _ mine)

theorem trimTestN (l : Lane) (mine : own (trimmerOf l)) : ∀ (n : Nat) (s : State), R s (trimTestN l n s)
  | 0, s => w.refl s
  | n + 1, s => by
    unfold Machine.trimTestN
    split
    · exact w.refl s
    · split
      · exact w.refl s
      next fate => exact w.issueKnife l _ s mine (trimFate_issued fate)
      · exact w.refl s
      · exact w.trans (w.cancelKnife l _ s mine) (trimTestN l mine n _)

theorem trimTest (l : Lane) (s : State) (mine : own (trimmerOf l)) : R s (trimTest l s) := w.trimTestN l mine _ s

/-! ## The issue tests -/

theorem issueTest (st : Station) (s : State) (mine : st ≠ .lam → own st) : R s (issueTest st s) := by
  cases st
  · exact w.lam s
  · exact w.trimTest .a s (mine (by decide))
  · exact w.trimTest .b s (mine (by decide))
  · exact w.cutTest .a s (mine (by decide))
  · exact w.cutTest .b s (mine (by decide))

theorem issueTests (all : ∀ st, own st) (sts : List Station) (s : State) : R s (issueTests sts s) :=
  w.trans (w.turn s) (w.foldl (f := fun acc st => Machine.issueTest st acc) (fun st u => w.issueTest st u fun _ => all st) _ _)

end WorkLaw

/-! ## What the work can do to the segments of a lane -/

/-- `h` is the segment `g` after work: grown, its unfinished work no more, its watch on the same action and, once ended, left alone. -/
structure Onward (g h : Segment) : Prop where
  grown : Grown g h
  unfinished : h.unfinished ≤ g.unfinished
  watched : h.watch.watched = g.watch.watched
  ended : g.watch.state = .ended → h.watch.state = .ended ∧ h.trimShort = g.trimShort ∧
    h.flags &&& defTrimShort = g.flags &&& defTrimShort

theorem Onward.refl (g : Segment) : Onward g g := ⟨.refl g, Nat.le_refl _, rfl, fun e => ⟨e, rfl, rfl⟩⟩

theorem Onward.trans {g h i : Segment} (a : Onward g h) (b : Onward h i) : Onward g i :=
  ⟨a.grown.trans b.grown, b.unfinished.trans a.unfinished, b.watched.trans a.watched, fun e => by
    obtain ⟨ended, short, flag⟩ := a.ended e
    obtain ⟨ended', short', flag'⟩ := b.ended ended
    exact ⟨ended', short'.trans short, flag'.trans flag⟩⟩

theorem onward_flag {d : BitVec 12} (plain : d &&& defTrimShort = 0#12) (g : Segment) : Onward g (g.flag d) :=
  ⟨grown_flag d g, Nat.le_refl _, rfl, fun e => ⟨e, rfl, flag_beside plain⟩⟩

theorem plain_of_trimFlags {d : BitVec 12} (h : d &&& trimFlags = 0#12) : d &&& defTrimShort = 0#12 := by
  have part : defTrimShort = trimFlags &&& defTrimShort := by decide
  rw [part, ← BitVec.and_assoc, h, BitVec.zero_and]

theorem short_of_spares {d : BitVec 12} (h : d &&& nipSpares = 0#12) : d &&& defTrimShort = 0#12 := by
  have part : defTrimShort = nipSpares &&& defTrimShort := by decide
  rw [part, ← BitVec.and_assoc, h, BitVec.zero_and]

theorem onward_edit {f : Segment → Segment} (edit : OwnerEdit f) (g : Segment) : Onward g (f g) := by
  cases edit with
  | flag plain => exact onward_flag (plain_of_trimFlags plain) g
  | tally cut fin => exact ⟨grown_tally cut fin g, Nat.sub_le _ _, rfl, fun e => ⟨e, rfl, rfl⟩⟩
  | late n => exact ⟨grown_noteLate n g, Nat.le_refl _, rfl, fun e => ⟨e, rfl, flag_beside (by decide)⟩⟩
  | moving key =>
    dsimp only
    split
    · exact ⟨⟨rfl, BitVec.and_self, Nat.le_refl _, Nat.le_refl _⟩, Nat.le_refl _, rfl, fun e => ⟨e, rfl, rfl⟩⟩
    · exact .refl g

theorem watchFinal_idle {job : JobDef} {p : Word32} {key : Nat} {done : Bool} {g : Segment} (idle : watching key g = false) :
    watchFinal job p key done g = g := by
  rw [watchFinal, idle]
  rfl

theorem onward_watchFinal (job : JobDef) (p : Word32) (key : Nat) (done : Bool) (g : Segment) :
    Onward g (watchFinal job p key done g) where
  grown := grown_watchFinal job p key done g
  unfinished := by
    unfold watchFinal
    split
    · split <;> exact Nat.le_refl _
    · exact Nat.le_refl _
  watched := by
    unfold watchFinal
    split
    · split <;> rfl
    · rfl
  ended e := by
    rw [watchFinal_idle (by simp [watching, e])]
    exact ⟨e, rfl, rfl⟩

/-- A lane's segments after work: each as it was or further on, and only CLOSED ones have left. -/
def SegsOn (l : Lane) (s t : State) : Prop :=
  ∃ (p : Segment → Bool) (f : Segment → Segment),
    (t.lane l).segs = ((s.lane l).segs.filter p).map f ∧ (∀ h, Onward h (f h)) ∧
      ∀ h ∈ (s.lane l).segs, p h = false → ∃ c ∈ (s.lane l).segs, c.id = h.id ∧ c.state = .closed

section SegsOn

variable {l : Lane} {s t u : State}

theorem segsOn_map {f : Segment → Segment} (h : (t.lane l).segs = (s.lane l).segs.map f) (on : ∀ g, Onward g (f g)) :
    SegsOn l s t :=
  ⟨fun _ => true, f, by rw [h, List.filter_true], on, fun _ _ no => by cases no⟩

theorem segsOn_eq (h : (t.lane l).segs = (s.lane l).segs) : SegsOn l s t :=
  segsOn_map (f := id) (by rw [h, List.map_id]) .refl

theorem SegsOn.trans (h : SegsOn l s t) (k : SegsOn l t u) : SegsOn l s u := by
  obtain ⟨p, f, segs1, on1, left1⟩ := h
  obtain ⟨q, g, segs2, on2, left2⟩ := k
  refine ⟨fun x => p x && q (f x), fun x => g (f x), by rw [segs2, segs1, filter_map_filter_map],
    fun x => (on1 x).trans (on2 _), fun x mem gone => ?_⟩
  cases stays : p x
  · exact left1 x mem stays
  · have second : q (f x) = false := by simpa [stays] using gone
    have here : f x ∈ (t.lane l).segs := segs1 ▸ List.mem_map_of_mem (List.mem_filter.mpr ⟨mem, stays⟩)
    obtain ⟨c, cmem, same, closed⟩ := left2 _ here second
    rw [segs1] at cmem
    obtain ⟨y, ymem, rfl⟩ := List.mem_map.mp cmem
    exact ⟨y, (List.mem_filter.mp ymem).1, by rw [← (on1 y).grown.id, same, (on1 x).grown.id],
      by rw [← (on1 y).grown.state, closed]⟩

/-- A segment whose serial stands only under OPEN segments stays, further on. -/
theorem SegsOn.stays (h : SegsOn l s t) {g : Segment} (mem : g ∈ (s.lane l).segs) (opened : OpenUnder g.id (s.lane l)) :
    ∃ g' ∈ (t.lane l).segs, Onward g g' := by
  obtain ⟨p, f, segs, on, left⟩ := h
  cases stays : p g
  · obtain ⟨x, xmem, same, closed⟩ := left g mem stays
    rw [opened x xmem same] at closed
    cases closed
  · exact ⟨f g, segs ▸ List.mem_map_of_mem (List.mem_filter.mpr ⟨mem, stays⟩), on g⟩

/-- Every segment after work was there before. -/
theorem SegsOn.before (h : SegsOn l s t) {g' : Segment} (mem : g' ∈ (t.lane l).segs) : ∃ g ∈ (s.lane l).segs, Onward g g' := by
  obtain ⟨p, f, segs, on, -⟩ := h
  rw [segs] at mem
  obtain ⟨g, gmem, rfl⟩ := List.mem_map.mp mem
  exact ⟨g, (List.mem_filter.mp gmem).1, on g⟩

theorem segsOn_modLane {m : Lane} {f : LaneState → LaneState} {e : Segment → Segment}
    (segs : (f (s.lane m)).segs = (s.lane m).segs.map e) (on : ∀ g, Onward g (e g)) : SegsOn l s (s.modLane m f) := by
  by_cases same : l = m
  · subst same
    exact segsOn_map (by rw [State.lane_modLane, segs]) on
  · exact segsOn_eq (by rw [State.lane_modLane_ne s m l f same])

theorem NipWork.segsOn (h : NipWork s t) (l : Lane) : SegsOn l s t := by
  obtain ⟨f, lane, flags⟩ := h.lane l
  refine segsOn_map (f := f) (by rw [lane]) fun g => ?_
  obtain ⟨d, more, plain⟩ := flags g
  rw [more]
  exact onward_flag (short_of_spares plain) g

theorem trimFinal_segsOn (m : Lane) (key : Nat) (done : Bool) (s : State) : SegsOn l s (trimFinal m key done s) := by
  by_cases same : l = m
  · subst same
    exact segsOn_map (trimFinal_segs l key done s) fun g => onward_watchFinal _ _ key done g
  · exact segsOn_eq (by rw [trimFinal_lane_ne same])

theorem leaveMap_segsOn (m : Lane) (g : Segment) (s : State) (mem : g ∈ (s.lane m).segs) (closed : g.state = .closed) :
    SegsOn l s (leaveMap m .complete g s) := by
  by_cases same : l = m
  · subst same
    refine ⟨fun h => decide (h.id ≠ g.id), id, by rw [leaveMap_lane, List.map_id], .refl,
      fun h _ gone => ⟨g, mem, ?_, closed⟩⟩
    exact (not_not.mp (of_decide_eq_false gone)).symm
  · exact segsOn_eq (by rw [leaveMap_lane_ne same])

end SegsOn

/-- The stations' work takes segments on. -/
theorem workLaw_segsOn (l : Lane) : WorkLaw (fun _ => True) (SegsOn l) where
  refl s := segsOn_eq rfl
  trans h k := h.trans k
  turn s := segsOn_eq (by cases l <;> rfl)
  raise p s := segsOn_eq (by rw [raise_lane])
  popCut m s _ := segsOn_modLane (e := id) (by rw [List.map_id]) .refl
  popTrim m s _ := segsOn_modLane (e := id) (by rw [List.map_id]) .refl
  owner edit m id s := segsOn_modLane (e := fun g => if g.id = id then _ else g) rfl fun g => by
    split
    · exact onward_edit edit g
    · exact .refl g
  issued st act delay est s _ _ := segsOn_eq (by rw [issueCore_lane])
  knife m key done s _ := trimFinal_segsOn m key done s
  retire m g s mem closed := (leaveMap_segsOn m g s mem closed).trans ((nipWork_nipChangeIf _ _).segsOn l)
  lam s := (nipWork_lamTest s).segsOn l

end Sys2Proof.Machine
end

section
/-! PROOFS. A final state of one action: what stands in its queue, its owner at the Web Map, and LAM beside it (R78, R87, R103). -/

namespace Sys2Proof.Machine

/-! ## A test that finds nothing due -/

section Waits

variable {l : Lane} {s t : State}

theorem cutTest_waits (h : ∀ a, (s.lane l).cutQueue.head? = some a → cutFate l a s = .waits) : cutTest l s = s := by
  unfold cutTest
  cases queue : (s.lane l).cutQueue with
  | nil => rfl
  | cons a rest =>
    have waits := h a (by rw [queue]; rfl)
    simp only [List.length_cons, cutTestN, queue, waits]

theorem trimTest_waits (h : ∀ a, (s.lane l).trimQueue.head? = some a → trimFate l a s = .waits) : trimTest l s = s := by
  unfold trimTest
  cases queue : (s.lane l).trimQueue with
  | nil => rfl
  | cons a rest =>
    have waits := h a (by rw [queue]; rfl)
    simp only [List.length_cons, trimTestN, queue, waits]

theorem lamTest_waits (h : ∀ o, s.nip.offer = some o → lamReady o s = false) : lamTest s = s := by
  cases offer : s.nip.offer with
  | none => exact lamTest_none offer
  | some o => rw [lamTest_some offer, h o offer, if_neg Bool.false_ne_true]

/-- The fate of a head depends on the station and on the tracker. -/
theorem cutFate_congr (station : t.station (cutterOf l) = s.station (cutterOf l)) (tracker : t.tracker = s.tracker)
    (setup : t.setup = s.setup) (a : Action) : cutFate l a t = cutFate l a s := by
  simp only [cutFate, beyondTol, tolOf, toGo, station, tracker, setup]
  rfl

theorem trimFate_congr (station : t.station (trimmerOf l) = s.station (trimmerOf l)) (tracker : t.tracker = s.tracker)
    (setup : t.setup = s.setup) (a : Action) : trimFate l a t = trimFate l a s := by
  simp only [trimFate, toGo, station, tracker, setup]
  rfl

theorem isDue_eq_false {r : Int} {speed horizon : Nat} : isDue r speed horizon = false ↔
    ((speed * horizon : Nat) : Int) < r * 256000 := by
  rw [isDue, decide_eq_false_iff_not, not_le]

theorem cutFate_early {a : Action} (ready : (s.station (cutterOf l)).mode = .ready) (early : NotYetDue (cutterOf l) a s) :
    cutFate l a s = .waits := by
  simp only [cutFate, ready, isDue_eq_false.mpr early, Bool.false_eq_true, if_false]

theorem cutFate_held {a : Action} (busy : (s.station (cutterOf l)).mode = .busy)
    (within : -toGo (cutterOf l) a.target s ≤ ((recordOr (s.station (cutterOf l))).tol : Int)) : cutFate l a s = .waits := by
  have kept : ¬beyondTol (cutterOf l) (toGo (cutterOf l) a.target s) s = true := by
    rw [beyondTol, tolOf, decide_eq_true_eq]
    exact not_lt.mpr within
  simp only [cutFate, busy]
  exact if_neg kept

theorem cutFate_ahead {a : Action} (out : (s.station (cutterOf l)).mode = .faulted ∨ (s.station (cutterOf l)).mode = .offline)
    (ahead : 0 < toGo (cutterOf l) a.target s) : cutFate l a s = .waits := by
  obtain mode | mode := out <;> simp only [cutFate, mode] <;> exact if_neg (not_le.mpr ahead)

theorem trimFate_early {a : Action} (ready : (s.station (trimmerOf l)).mode = .ready) (early : NotYetDue (trimmerOf l) a s) :
    trimFate l a s = .waits := by
  simp only [trimFate, ready, isDue_eq_false.mpr early, Bool.false_eq_true, if_false]

theorem trimFate_ahead {a : Action} (out : (s.station (trimmerOf l)).mode = .faulted ∨ (s.station (trimmerOf l)).mode = .offline)
    (ahead : 0 < toGo (trimmerOf l) a.target s) : trimFate l a s = .waits := by
  obtain mode | mode := out <;> simp only [trimFate, mode] <;> exact if_neg (not_le.mpr ahead)

end Waits

/-! ## The owner of the action -/

/-- Segment `h` stands for `g` before a final state is handed to the Web Map: what its retirement reads is as it was. -/
structure Stands (l : Lane) (g h : Segment) (s t : State) : Prop where
  kept : RollKept l s t
  alone : AloneUnder h (t.lane l)
  id : h.id = g.id
  state : h.state = g.state
  unfinished : h.unfinished = g.unfinished

section Stands

variable {l : Lane} {g h : Segment} {s t u : State}

theorem Stands.refl (alone : AloneUnder g (s.lane l)) : Stands l g g s s := ⟨.refl l s, alone, rfl, rfl, rfl⟩

theorem Stands.map (st : Stands l g h s t) {f : Segment → Segment} (kept : RollKept l t u)
    (segs : (u.lane l).segs = (t.lane l).segs.map f) (ids : ∀ x, (f x).id = x.id) (state : (f h).state = h.state)
    (unfinished : (f h).unfinished = h.unfinished) : Stands l g (f h) s u where
  kept := st.kept.trans kept
  alone := by
    refine ⟨segs ▸ List.mem_map_of_mem st.alone.1, fun x mem same => ?_⟩
    rw [segs] at mem
    obtain ⟨y, ymem, rfl⟩ := List.mem_map.mp mem
    rw [ids, ids] at same
    rw [st.alone.2 y ymem same]
  id := (ids h).trans st.id
  state := state.trans st.state
  unfinished := unfinished.trans st.unfinished

theorem Stands.same (st : Stands l g h s t) (kept : RollKept l t u) (segs : (u.lane l).segs = (t.lane l).segs) :
    Stands l g h s u :=
  st.map (f := fun x => x) kept (by rw [segs, List.map_id']) (fun _ => rfl) rfl rfl

theorem Stands.modSeg (st : Stands l g h s t) {f : Segment → Segment} (ids : ∀ x, (f x).id = x.id) (state : (f h).state = h.state)
    (unfinished : (f h).unfinished = h.unfinished) : Stands l g (f h) s (t.modSeg l g.id f) := by
  have edited := st.map (u := t.modSeg l g.id f) (f := fun x => if x.id = g.id then f x else x)
    (rollKept_modSeg l g.id f t ids) (modSeg_segs l g.id f t) (fun x => by
      split
      · exact ids x
      · rfl) (by rw [if_pos st.id, state]) (by rw [if_pos st.id, unfinished])
  rwa [if_pos st.id] at edited

theorem Stands.raise (st : Stands l g h s t) (p : Nat) : Stands l g h s (raise p t) :=
  st.same (rollKept_raise l p t) (by rw [raise_lane])

theorem Stands.flagOwner (st : Stands l g h s t) {act : Action} (owner : act.owner = some g.id) (d : BitVec 12) :
    Stands l g (h.flag d) s (flagOwner l act d t) := by
  unfold Machine.flagOwner
  rw [owner]
  exact st.modSeg (fun _ => rfl) rfl rfl

theorem Stands.popCut (st : Stands l g h s t) : Stands l g h s (popCut l t) :=
  st.same (rollKept_modLane l _ t rfl rfl) (by rw [Machine.popCut, State.lane_modLane])

theorem Stands.popTrim (st : Stands l g h s t) : Stands l g h s (popTrim l t) :=
  st.same (rollKept_modLane l _ t rfl rfl) (by rw [Machine.popTrim, State.lane_modLane])

theorem Stands.modStation (st : Stands l g h s t) (x : Station) (f : StationState → StationState) :
    Stands l g h s (t.modStation x f) := by
  refine st.same ⟨by simp, by simp, by simp, by simp, by simp, by simp, by simp, by simp⟩ (by simp)

theorem watchFinal_id (job : JobDef) (p : Word32) (key : Nat) (done : Bool) (x : Segment) :
    (watchFinal job p key done x).id = x.id ∧ (watchFinal job p key done x).state = x.state ∧
      (watchFinal job p key done x).unfinished = x.unfinished := by
  unfold watchFinal
  split
  · split <;> exact ⟨rfl, rfl, rfl⟩
  · exact ⟨rfl, rfl, rfl⟩

theorem rollKept_trimFinal (l : Lane) (key : Nat) (done : Bool) (s : State) : RollKept l s (trimFinal l key done s) := by
  have moved : RollKept l s (s.modLane l (fun x =>
      { planFinal key done x with segs := x.segs.map (fun g => watchFinal (s.jobOf g) (trimPos l s) key done g) })) := by
    refine rollKept_modLane l _ s ?_ (planFinal_queues key done _).2.2.2
    rw [List.map_map]
    exact List.map_congr_left fun x _ => (watchFinal_id _ _ key done x).1
  unfold trimFinal
  dsimp only
  split
  · exact moved.trans (rollKept_raise l _ _)
  · exact moved

theorem Stands.trimFinal (st : Stands l g h s t) (key : Nat) (done : Bool) :
    Stands l g (watchFinal (t.jobOf h) (trimPos l t) key done h) s (trimFinal l key done t) :=
  st.map (f := fun x => watchFinal (t.jobOf x) (trimPos l t) key done x) (rollKept_trimFinal l key done t)
    (trimFinal_segs l key done t) (fun x => (watchFinal_id _ _ key done x).1) (watchFinal_id _ _ key done h).2.1
    (watchFinal_id _ _ key done h).2.2

/-! ## The final state at the Web Map (R78, R87) -/

theorem tally_id (cut : Bool) (fin : FinalState) (x : Segment) : (tally cut fin x).id = x.id := rfl

theorem seg?_alone (alone : AloneUnder h (t.lane l)) : t.seg? l h.id = some h := by
  obtain ⟨mem, only⟩ := alone
  obtain ⟨x, found⟩ := Option.isSome_iff_exists.mp
    (List.find?_isSome.mpr ⟨h, mem, by simp⟩ : ((t.lane l).segs.find? (fun x => x.id == h.id)).isSome)
  obtain ⟨xmem, same⟩ := seg?_mem found
  rw [← only x xmem same]
  rwa [same]

/-- The serial's segments are not left CLOSED without work: the final state is a tally. -/
theorem mapFinal_stays {k : Nat} {act : Action} (fin : FinalState) (owner : act.owner = some k)
    (busy : ∀ x ∈ (t.lane l).segs, x.id = k → x.state = .opened ∨ 1 < x.unfinished) :
    mapFinal l act fin t = t.modSeg l k (tally (decide (act.kind = .cut)) fin) := by
  unfold mapFinal
  rw [owner]
  refine retireTest_stays fun x mem same => ?_
  rw [modSeg_segs] at mem
  obtain ⟨y, ymem, rfl⟩ := List.mem_map.mp mem
  by_cases mine : y.id = k
  · rw [if_pos mine]
    rw [retirable, Bool.and_eq_false_iff, decide_eq_false_iff_not, decide_eq_false_iff_not]
    obtain opened | more := busy y ymem mine
    · refine .inl fun closed => ?_
      have : y.state = .closed := closed
      rw [opened] at this
      cases this
    · refine .inr fun none => ?_
      have : y.unfinished - 1 = 0 := none
      omega
  · rw [if_neg mine] at same
    exact absurd same mine

theorem mapFinal_retires {act : Action} (fin : FinalState) (alone : AloneUnder h (t.lane l)) (owner : act.owner = some h.id)
    (closed : h.state = .closed) (last : h.unfinished ≤ 1) : mapFinal l act fin t =
      retire l (tally (decide (act.kind = .cut)) fin h) (t.modSeg l h.id (tally (decide (act.kind = .cut)) fin)) := by
  unfold mapFinal
  rw [owner]
  refine retireTest_retires ?_ ?_
  · rw [seg?_modSeg (tally_id _ fin), seg?_alone alone, Option.map_some, if_pos rfl]
  · rw [retirable, Bool.and_eq_true, decide_eq_true_eq, decide_eq_true_eq]
    exact ⟨closed, Nat.sub_eq_zero_of_le last⟩

/-- The owner after a final state of its action, the Web Map's part included. -/
theorem Stands.final (st : Stands l g h s t) {act : Action} (owner : act.owner = some g.id) (fin : FinalState) :
    WorkFinal l g (tally (decide (act.kind = .cut)) fin h) s (finish (mapFinal l act fin t)) where
  stays more := by
    have ends := endOfEvent_finish (mapFinal l act fin t)
    have tallied := mapFinal_stays fin owner fun x mem same => by
      rw [st.alone.2 x mem (same.trans st.id.symm), st.state, st.unfinished]
      exact more
    have kept := st.kept.trans (rollKept_modSeg l g.id _ t (tally_id (decide (act.kind = .cut)) fin))
    rw [← tallied] at kept
    refine ⟨?_, ?_, ?_, ?_, ?_⟩
    · rw [ends.lane, tallied, modSeg_segs]
      exact List.mem_map.mpr ⟨h, st.alone.1, if_pos st.id⟩
    · rw [ends.lane, kept.mode]
    · rw [ends.jobs, kept.jobs]
    · rw [ends.nip, kept.zones]
    · rw [ends.reportsLost, kept.reportsLost]
  retires closed last := by
    rw [mapFinal_retires fin st.alone (owner.trans (congrArg some st.id.symm)) (st.state.trans closed) (st.unfinished ▸ last)]
    exact (retired_retire l _ _).earlier (st.kept.trans (rollKept_modSeg l h.id _ t (tally_id (decide (act.kind = .cut)) fin)))

end Stands

/-! ## The queues and the knife records of a lane -/

/-- What the stations' work leaves of a lane's queues and knife records: no more than there was, and without a pending knife action
the plan and the lateral reference as they stood. -/
structure QueuesOn (x y : LaneState) : Prop where
  cuts : y.cutQueue <:+ x.cutQueue
  knives : y.trimQueue <:+ x.trimQueue
  moves : ∀ m ∈ y.moves, m ∈ x.moves
  plan : x.pendingKnife = none → y.pendingKnife = none ∧ y.knifePlan = x.knifePlan ∧ y.lateral = x.lateral

theorem QueuesOn.refl (x : LaneState) : QueuesOn x x :=
  ⟨List.suffix_rfl, List.suffix_rfl, fun _ h => h, fun none => ⟨none, rfl, rfl⟩⟩

theorem QueuesOn.trans {x y z : LaneState} (h : QueuesOn x y) (k : QueuesOn y z) : QueuesOn x z where
  cuts := k.cuts.trans h.cuts
  knives := k.knives.trans h.knives
  moves m hm := h.moves m (k.moves m hm)
  plan none := by
    obtain ⟨none', plan, lateral⟩ := h.plan none
    obtain ⟨none'', plan', lateral'⟩ := k.plan none'
    exact ⟨none'', plan'.trans plan, lateral'.trans lateral⟩

theorem queuesOn_planFinal (key : Nat) (done : Bool) (x : LaneState) : QueuesOn x (planFinal key done x) where
  cuts := (planFinal_queues key done x).1 ▸ List.suffix_rfl
  knives := (planFinal_queues key done x).2.1 ▸ List.suffix_rfl
  moves m hm := by
    have kept : m ∈ x.moves.filter (fun m => m.1 ≠ key) := by
      unfold planFinal at hm
      dsimp only at hm
      split at hm
      · split at hm <;> exact hm
      · exact hm
    exact (List.mem_filter.mp kept).1
  plan none := by
    simp [planFinal, none]

theorem trimFinal_lane (l : Lane) (key : Nat) (done : Bool) (s : State) : (trimFinal l key done s).lane l =
    { planFinal key done (s.lane l) with
      segs := (s.lane l).segs.map (fun g => watchFinal (s.jobOf g) (trimPos l s) key done g) } := by
  unfold trimFinal
  dsimp only
  split
  · rw [raise_lane, State.lane_modLane]
  · rw [State.lane_modLane]

theorem queuesOn_modLane {l m : Lane} {f : LaneState → LaneState} {s : State} (h : QueuesOn (s.lane m) (f (s.lane m))) :
    QueuesOn (s.lane l) ((s.modLane m f).lane l) := by
  by_cases same : l = m
  · subst same
    rw [State.lane_modLane]
    exact h
  · rw [State.lane_modLane_ne s m l f same]
    exact .refl _

theorem queuesOn_eq {x y : LaneState} (h : y = x) : QueuesOn x y := h ▸ .refl x

theorem NipWork.queuesOn {s t : State} (h : NipWork s t) (l : Lane) : QueuesOn (s.lane l) (t.lane l) := by
  obtain ⟨f, lane, -⟩ := h.lane l
  rw [lane]
  exact { QueuesOn.refl (s.lane l) with }

theorem workLaw_queuesOn (l : Lane) : WorkLaw (fun _ => True) (fun s t => QueuesOn (s.lane l) (t.lane l)) where
  refl s := .refl _
  trans h k := h.trans k
  turn s := queuesOn_eq (by cases l <;> rfl)
  raise p s := queuesOn_eq (raise_lane p s l)
  popCut m s _ := queuesOn_modLane { QueuesOn.refl (s.lane m) with cuts := List.tail_suffix _ }
  popTrim m s _ := queuesOn_modLane { QueuesOn.refl (s.lane m) with knives := List.tail_suffix _ }
  owner _ m id s := queuesOn_modLane { QueuesOn.refl (s.lane m) with }
  issued st act delay est s _ _ := queuesOn_eq (by rw [issueCore_lane])
  knife m key done s _ := by
    by_cases same : l = m
    · subst same
      rw [trimFinal_lane]
      exact { queuesOn_planFinal key done (s.lane l) with }
    · exact queuesOn_eq (trimFinal_lane_ne same key done s)
  retire m g s _ _ := by
    have left : QueuesOn (s.lane l) ((leaveMap m .complete g s).lane l) := by
      by_cases same : l = m
      · subst same
        rw [leaveMap_lane]
        exact { QueuesOn.refl (s.lane l) with }
      · exact queuesOn_eq (leaveMap_lane_ne same _ _ _)
    exact left.trans ((nipWork_nipChangeIf _ _).queuesOn l)
  lam s := (nipWork_lamTest s).queuesOn l

/-- A station that was not READY is as it was after work that does not use it, or that LAM does not enter. -/
theorem Aside.unready {own : Taker → Prop} {s t : State} (h : Aside own s t) {st : Station} (out : (s.station st).mode ≠ .ready) :
    t.station st = s.station st :=
  (h.held st).resolve_right fun issued => out issued.1

end Sys2Proof.Machine
end

section
/-! PROOFS. A head that leaves its queue unsent (R106, R110, R111, R154, R156). -/

namespace Sys2Proof.Machine

/-- No station but LAM is used. -/
def noStation : Taker → Prop := fun _ => False

variable {l : Lane} {act : Action} {rest : List Action} {s t u : State}

/-! ## The owner of a final state -/

theorem flagOwner_segs {k : Nat} (owner : act.owner = some k) (d : BitVec 12) (s : State) :
    ((flagOwner l act d s).lane l).segs = (s.lane l).segs.map (fun g => if g.id = k then g.flag d else g) := by
  unfold flagOwner
  rw [owner]
  exact modSeg_segs l k _ s

theorem modSeg_mem {k : Nat} {f : Segment → Segment} {g : Segment} (mem : g ∈ (s.lane l).segs) (id : g.id = k) :
    f g ∈ ((s.modSeg l k f).lane l).segs := by
  rw [modSeg_segs]
  exact List.mem_map.mpr ⟨g, mem, if_pos id⟩

theorem openUnder_modSeg {k j : Nat} {f : Segment → Segment} (ids : ∀ g, (f g).id = g.id) (states : ∀ g, (f g).state = g.state)
    (opened : OpenUnder k (s.lane l)) : OpenUnder k ((s.modSeg l j f).lane l) := by
  intro x mem same
  rw [modSeg_segs] at mem
  obtain ⟨y, ymem, rfl⟩ := List.mem_map.mp mem
  split at same
  next mine =>
    rw [if_pos mine, states]
    exact opened y ymem ((ids y).symm.trans same)
  next other =>
    rw [if_neg other]
    exact opened y ymem same

/-- What OPEN segments under the owner's serial become. -/
theorem mapFinal_owner {k : Nat} (fin : FinalState) (owner : act.owner = some k)
    (opened : OpenUnder k (t.lane l)) {g : Segment} (mem : g ∈ (t.lane l).segs) (id : g.id = k) :
    tally (decide (act.kind = .cut)) fin g ∈ ((mapFinal l act fin t).lane l).segs := by
  rw [mapFinal_stays fin owner fun x xmem same => .inl (opened x xmem same)]
  exact modSeg_mem mem id

/-! ## A cut that leaves unsent -/

/-- The head of a cut queue out of the queue, its owner flagged. -/
def cutFlagged (l : Lane) (act : Action) (prio : Nat) (d : BitVec 12) (s : State) : State :=
  raise prio (flagOwner l act d (popCut l s))

theorem skipCut_eq (l : Lane) (act : Action) (s : State) :
    skipCut l act s = mapFinal l act .skipped (cutFlagged l act prioCutMissed defCutMissed s) := rfl

theorem cancelCut_eq (l : Lane) (act : Action) (s : State) :
    cancelCut l act s = mapFinal l act .cancelled (cutFlagged l act prioStationFault defStationFault s) := rfl

section CutGone

variable {prio : Nat} {d : BitVec 12} {fin : FinalState}

theorem aside_cutFlagged (plain : d &&& registeredFlags = 0#12) :
    Aside noStation (popCut l s) (mapFinal l act fin (cutFlagged l act prio d s)) :=
  ((aside_flagOwner l act plain _).trans (aside_raise _ _)).trans (aside_mapFinal l act fin _)

theorem cutGone_station (plain : d &&& registeredFlags = 0#12) {st : Station} (other : st ≠ .lam) :
    (mapFinal l act fin (cutFlagged l act prio d s)).station st = s.station st := by
  obtain same | ⟨lam | none, -⟩ := (aside_cutFlagged (l := l) (act := act) (prio := prio) (fin := fin) (s := s) plain).station st
  · rw [same, popCut_station]
  · exact absurd lam other
  · exact none.elim

theorem cutGone_queue (plain : d &&& registeredFlags = 0#12) (queue : (s.lane l).cutQueue = act :: rest) :
    ((mapFinal l act fin (cutFlagged l act prio d s)).lane l).cutQueue = rest := by
  rw [(aside_cutFlagged plain).cuts l id, popCut, State.lane_modLane, queue]
  rfl

theorem inside_cutFlagged (l : Lane) (act : Action) (prio : Nat) (d : BitVec 12) (s : State) :
    Inside s (cutFlagged l act prio d s) :=
  ((inside_popCut l s).trans (inside_flagOwner l act d _)).trans (inside_raise prio _)

theorem inside_cutGone : Inside s (mapFinal l act fin (cutFlagged l act prio d s)) :=
  (inside_cutFlagged l act prio d s).trans (inside_mapFinal l act fin _)

theorem cutGone_fate (plain : d &&& registeredFlags = 0#12) (a : Action) :
    cutFate l a (mapFinal l act fin (cutFlagged l act prio d s)) = cutFate l a s :=
  cutFate_congr (cutGone_station plain (cutter_ne_lam l)) inside_cutGone.tracker inside_cutGone.setup a

theorem cutGone_waits (plain : d &&& registeredFlags = 0#12) (queue : (s.lane l).cutQueue = act :: rest)
    (waits : ∀ a, rest.head? = some a → cutFate l a s = .waits) :
    cutTest l (mapFinal l act fin (cutFlagged l act prio d s)) = mapFinal l act fin (cutFlagged l act prio d s) := by
  refine cutTest_waits fun a head => ?_
  rw [cutGone_queue plain queue] at head
  rw [cutGone_fate plain]
  exact waits a head

theorem stands_cutFlagged {g : Segment} (alone : AloneUnder g (s.lane l)) (owner : act.owner = some g.id) :
    Stands l g (g.flag d) s (cutFlagged l act prio d s) :=
  ((Stands.refl alone).popCut.flagOwner owner d).raise prio

/-- What OPEN segments under the serial of a cut's owner become in the event. -/
theorem cutGone_owner {k : Nat} (owner : act.owner = some k) (opened : OpenUnder k (s.lane l)) {g : Segment}
    (mem : g ∈ (s.lane l).segs) (id : g.id = k) :
    ∃ g' ∈ ((cutTest l (mapFinal l act fin (cutFlagged l act prio d s))).lane l).segs,
      Onward (tally (decide (act.kind = .cut)) fin (g.flag d)) g' := by
  have popped : OpenUnder k ((popCut l s).lane l) := by
    rw [popCut, State.lane_modLane]
    exact opened
  have flagged : OpenUnder k ((cutFlagged l act prio d s).lane l) := by
    rw [cutFlagged, raise_lane, flagOwner, owner]
    exact openUnder_modSeg (fun _ => rfl) (fun _ => rfl) popped
  have here : g.flag d ∈ ((cutFlagged l act prio d s).lane l).segs := by
    rw [cutFlagged, raise_lane, flagOwner_segs owner, popCut, State.lane_modLane]
    exact List.mem_map.mpr ⟨g, mem, if_pos id⟩
  have tallied := mapFinal_owner fin owner flagged here id
  have still : OpenUnder k ((mapFinal l act fin (cutFlagged l act prio d s)).lane l) :=
    (mapAfter_mapFinal l l act fin _).openUnder flagged
  exact ((workLaw_segsOn l).cutTest l _ trivial).stays tallied (by
    show OpenUnder g.id _
    rw [id]
    exact still)

end CutGone

/-! ## What the test of a cutter issues -/

theorem issueCut_station (l : Lane) (act : Action) (s : State) : ∃ i, i.act = act ∧
    (issueCut l act s).station (cutterOf l) = { s.station (cutterOf l) with mode := .busy, outstanding := some i } := by
  refine ⟨{ act := act, id := nextId (popCut l s).lastId, orphan := false,
            timeout := (recordOr (s.station (cutterOf l))).timeout + ceilDiv (delayOf (cutterOf l) act s) 1000 + 0 }, rfl, ?_⟩
  rw [(issueCut_onlySegs l act s).station, cutCore, issueCore_station, popCut_station]

/-- A cutter that is given an action by its test was READY, and the action stood in its queue. -/
theorem cutTestN_station (l : Lane) : ∀ (n : Nat) (s : State),
    (cutTestN l n s).station (cutterOf l) = s.station (cutterOf l) ∨
      (s.station (cutterOf l)).mode = .ready ∧ ∃ i, i.act ∈ (s.lane l).cutQueue ∧
        (cutTestN l n s).station (cutterOf l) = { s.station (cutterOf l) with mode := .busy, outstanding := some i }
  | 0, s => .inl rfl
  | n + 1, s => by
    unfold cutTestN
    split
    · exact .inl rfl
    next act rest queue =>
      have further : ∀ (fin : FinalState) (prio : Nat) (d : BitVec 12), d &&& registeredFlags = 0#12 →
          (cutTestN l n (mapFinal l act fin (cutFlagged l act prio d s))).station (cutterOf l) = s.station (cutterOf l) ∨
            (s.station (cutterOf l)).mode = .ready ∧ ∃ i, i.act ∈ (s.lane l).cutQueue ∧
              (cutTestN l n (mapFinal l act fin (cutFlagged l act prio d s))).station (cutterOf l) =
                { s.station (cutterOf l) with mode := .busy, outstanding := some i } := by
        intro fin prio d plain
        have next := cutTestN_station l n (mapFinal l act fin (cutFlagged l act prio d s))
        rw [cutGone_station plain (cutter_ne_lam l), cutGone_queue plain queue] at next
        refine next.imp_right fun ⟨ready, i, mem, issued⟩ => ⟨ready, i, ?_, issued⟩
        rw [queue]
        exact List.mem_cons_of_mem act mem
      split
      · exact .inl rfl
      next fate =>
        obtain ⟨i, same, issued⟩ := issueCut_station l act s
        exact .inr ⟨cutFate_issued fate, i, by rw [queue, same]; exact List.mem_cons_self, issued⟩
      · exact further .skipped prioCutMissed defCutMissed (by decide)
      · exact further .cancelled prioStationFault defStationFault (by decide)

theorem cutTest_station (l : Lane) (s : State) : (cutTest l s).station (cutterOf l) = s.station (cutterOf l) ∨
    (s.station (cutterOf l)).mode = .ready ∧ ∃ i, i.act ∈ (s.lane l).cutQueue ∧
      (cutTest l s).station (cutterOf l) = { s.station (cutterOf l) with mode := .busy, outstanding := some i } :=
  cutTestN_station l _ s

theorem exec_cutSkipped (queue : (s.lane l).cutQueue = act :: rest) (fate : cutFate l act s = .skipped) :
    exec (.cutSkipped l) s = .next (finish (cutTest l (skipCut l act s))) := by
  have head : cutHead l s = some (act, .skipped) := by simp only [cutHead, queue, List.head?_cons, Option.map_some, fate]
  have skipped : skipHead l s = cutTest l (skipCut l act s) := by simp only [skipHead, head]
  exact congrArg (fun u => Host.Outcome.next (finish u)) skipped

theorem exec_cutCancelled (queue : (s.lane l).cutQueue = act :: rest) (fate : cutFate l act s = .cancelled) :
    exec (.headCancelled (cutterOf l)) s = .next (finish (cutTest l (cancelCut l act s))) := by
  have head : cutHead l s = some (act, .cancelled) := by simp only [cutHead, queue, List.head?_cons, Option.map_some, fate]
  have cancelled : cancelCutHead l s = cutTest l (cancelCut l act s) := by simp only [cancelCutHead, head]
  cases l <;> exact congrArg (fun u => Host.Outcome.next (finish u)) cancelled

theorem cutFate_late (mode : (s.station (cutterOf l)).mode = .ready ∨ (s.station (cutterOf l)).mode = .busy)
    (late : ((recordOr (s.station (cutterOf l))).tol : Int) < -toGo (cutterOf l) act.target s) : cutFate l act s = .skipped := by
  have beyond : beyondTol (cutterOf l) (toGo (cutterOf l) act.target s) s = true := by
    rw [beyondTol, tolOf, decide_eq_true_eq]
    exact late
  have nonneg : (0 : Int) ≤ ((recordOr (s.station (cutterOf l))).tol : Int) := Int.natCast_nonneg _
  have due : isDue (toGo (cutterOf l) act.target s) s.tracker.speed s.setup.horizon = true := isDue_of_nonpos (by omega) _ _
  obtain ready | busy := mode
  · simp only [cutFate, ready, due, beyond, if_true]
  · simp only [cutFate, busy, beyond, if_true]

theorem cutFate_passed (out : (s.station (cutterOf l)).mode = .faulted ∨ (s.station (cutterOf l)).mode = .offline)
    (passed : toGo (cutterOf l) act.target s ≤ 0) : cutFate l act s = .cancelled := by
  obtain mode | mode := out <;> simp only [cutFate, mode] <;> exact if_pos passed

/-- Where neither the station of an event nor LAM is given an action, no id is used and no frame queued. -/
theorem Aside.unissued {st : Station} (h : Aside (fun k => k = .station st) s t) (station : t.station st = s.station st)
    (lam : t.lam.mode = s.lam.mode) : t.lastId = s.lastId ∧ t.south = s.south := by
  refine h.idle fun x => ?_
  by_cases mine : x = st
  · rw [mine, station]
  · obtain same | ⟨isLam | own, -⟩ := h.station x
    · rw [same]
    · rw [isLam]
      exact lam
    · exact absurd (Taker.station.inj own) mine

/-- The Web Map's part of a head that leaves unsent, with its owner as the flag and the tally leave it. -/
theorem cutGone_final {g : Segment} (alone : AloneUnder g (s.lane l)) (owner : act.owner = some g.id) {prio : Nat} {d : BitVec 12}
    {fin : FinalState} : WorkFinal l g (tally (decide (act.kind = .cut)) fin (g.flag d)) s
      (finish (mapFinal l act fin (cutFlagged l act prio d s))) :=
  (stands_cutFlagged alone owner).final owner fin

/-! ## A cut that leaves unsent: the clauses -/

section CutLeft

variable {prio : Nat} {d : BitVec 12} {fin : FinalState}

/-- The cutter's test after a cut has left unsent: what is left of the queue, the flag, and what was not touched. -/
theorem cutLeft_rest (plain : d &&& registeredFlags = 0#12) (low : 1 ≤ prio) (high : prio ≤ 14)
    (queue : (s.lane l).cutQueue = act :: rest) {u : State}
    (event : u = cutTest l (mapFinal l act fin (cutFlagged l act prio d s))) :
    ((finish u).lane l).cutQueue <:+ rest ∧ attnHas (finish u).mgmt.flags prio = true ∧ (finish u).tracker = s.tracker ∧
      (u.station (cutterOf l) = s.station (cutterOf l) → (finish u).lam.mode = s.lam.mode →
        (finish u).lastId = s.lastId ∧ (finish u).south = s.south) := by
  have ends := endOfEvent_finish u
  have work := (workLaw_queuesOn l).cutTest l (mapFinal l act fin (cutFlagged l act prio d s)) trivial
  have last := inside_cutTest l (mapFinal l act fin (cutFlagged l act prio d s))
  have flag : attnHas (cutFlagged l act prio d s).mgmt.flags prio = true := attnHas_raise low high _
  have whole : Aside (fun k => k = .station (cutterOf l)) s u := by
    rw [event]
    have gone := (aside_cutFlagged (l := l) (act := act) (prio := prio) (fin := fin) (s := s) plain).mono
      (own' := fun k => k = .station (cutterOf l)) fun _ => False.elim
    have popped : Aside (fun k => k = .station (cutterOf l)) s (popCut l s) := aside_popCut l s rfl
    exact (popped.trans gone).trans (aside_cutTest l _ rfl)
  refine ⟨?_, ?_, ?_, fun station lam => ?_⟩
  · rw [ends.lane, event, ← cutGone_queue plain queue]
    exact work.cuts
  · rw [ends.flags, event]
    exact attnHas_mono last.flags (attnHas_mono (inside_mapFinal l act fin _).flags flag)
  · rw [ends.tracker, event, (inside_cutGone.trans last).tracker]
  · have same : (finish u).lam = u.lam := ends.station .lam
    rw [ends.lastId, ends.south]
    exact whole.unissued station (same ▸ lam)

/-- The owner of a cut that leaves unsent, while its serial stands under OPEN segments only. -/
theorem cutLeft_owner {k : Nat} (owner : act.owner = some k) (opened : OpenUnder k (s.lane l)) {g : Segment}
    (mem : g ∈ (s.lane l).segs) (id : g.id = k) {u : State}
    (event : u = cutTest l (mapFinal l act fin (cutFlagged l act prio d s))) :
    ∃ g' ∈ ((finish u).lane l).segs, g'.id = k ∧ g'.flags &&& d = d ∧ g'.unfinished ≤ g.unfinished - 1 ∧
      (tally (decide (act.kind = .cut)) fin (g.flag d)).cutsMissed ≤ g'.cutsMissed := by
  obtain ⟨g', mem', on⟩ := cutGone_owner (prio := prio) (d := d) (fin := fin) owner opened mem id
  refine ⟨g', ?_, on.grown.id.trans id, ?_, on.unfinished, on.grown.cutsMissed⟩
  · rw [(endOfEvent_finish u).lane, event]
    exact mem'
  · exact flags_grow (flag_self g.flags d) on.grown.flags

end CutLeft

/-! ## The final state of a knife action (R154, R156) -/

section KnifeFinal

variable {key : Nat} {done : Bool} {fin : FinalState}

/-- A watch on the knife action has ended after its final state. -/
theorem watchFinal_ended {job : JobDef} {p : Word32} {g : Segment} (mine : (watchFinal job p key done g).watch.watched = some key) :
    (watchFinal job p key done g).watch.state = .ended := by
  by_cases on : watching key g = true
  · rw [watchFinal, if_pos on]
    split <;> rfl
  · rw [watchFinal, if_neg on] at mine ⊢
    by_contra going
    exact on (by simp [watching, mine, going])

/-- No watch on the knife action is left, whatever the tests that follow do. -/
theorem trimFinal_ended (further : SegsOn l (trimFinal l key done t) u) {g : Segment} (mem : g ∈ (u.lane l).segs)
    (mine : g.watch.watched = some key) : g.watch.state = .ended := by
  obtain ⟨x, xmem, on⟩ := further.before mem
  rw [trimFinal_segs] at xmem
  obtain ⟨y, -, rfl⟩ := List.mem_map.mp xmem
  exact (on.ended (watchFinal_ended (on.watched ▸ mine))).1

theorem openUnder_trimFinal {k : Nat} (opened : OpenUnder k (t.lane l)) : OpenUnder k ((trimFinal l key done t).lane l) := by
  intro x mem same
  rw [trimFinal_segs] at mem
  obtain ⟨y, ymem, rfl⟩ := List.mem_map.mp mem
  obtain ⟨id, state, -⟩ := watchFinal_id (t.jobOf y) (trimPos l t) key done y
  rw [state]
  exact opened y ymem (id ▸ same)

/-- An OPEN segment after the final state of a knife action, whatever the tests that follow do. -/
theorem trimFinal_stays (further : SegsOn l (trimFinal l key done t) u) {g : Segment} (mem : g ∈ (t.lane l).segs)
    (opened : OpenUnder g.id (t.lane l)) :
    ∃ g' ∈ (u.lane l).segs, Onward (watchFinal (t.jobOf g) (trimPos l t) key done g) g' := by
  refine further.stays ?_ ?_
  · rw [trimFinal_segs]
    exact List.mem_map_of_mem mem
  · rw [(watchFinal_id _ _ key done g).1]
    exact openUnder_trimFinal opened

/-- An OPEN owner after the final state of its knife action, whatever the tests that follow do. -/
theorem knifeFinal_owner {k : Nat} (owner : act.owner = some k) (opened : OpenUnder k (t.lane l))
    (further : SegsOn l (knifeFinal l act fin t) u) {g : Segment} (mem : g ∈ (t.lane l).segs) (id : g.id = k) :
    ∃ g' ∈ (u.lane l).segs, Onward
      (tally (decide (act.kind = .cut)) fin (watchFinal (t.jobOf g) (trimPos l t) act.key (decide (fin = .done)) g)) g' := by
  have ids := (watchFinal_id (t.jobOf g) (trimPos l t) act.key (decide (fin = .done)) g).1
  have still := openUnder_trimFinal (key := act.key) (done := decide (fin = .done)) opened
  have watched : watchFinal (t.jobOf g) (trimPos l t) act.key (decide (fin = .done)) g ∈
      ((trimFinal l act.key (decide (fin = .done)) t).lane l).segs := by
    rw [trimFinal_segs]
    exact List.mem_map_of_mem mem
  refine further.stays (mapFinal_owner fin owner still watched (ids.trans id)) ?_
  rw [tally_id, ids, id]
  exact (mapAfter_mapFinal l l act fin _).openUnder still

/-- The knife records after the final state of a knife action: the Web Map's part leaves them. -/
theorem knifeFinal_side (l : Lane) (act : Action) (fin : FinalState) (t : State) :
    knifeSide ((knifeFinal l act fin t).lane l) = knifeSide (planFinal act.key (decide (fin = .done)) (t.lane l)) := by
  have mapped : Aside noStation (trimFinal l act.key (decide (fin = .done)) t) (knifeFinal l act fin t) :=
    aside_mapFinal l act fin _
  rw [mapped.knives l id, trimFinal_lane]
  rfl

theorem planFinal_moves (key : Nat) (done : Bool) (x : LaneState) :
    (planFinal key done x).moves = x.moves.filter (fun m => m.1 ≠ key) := by
  unfold planFinal
  dsimp only
  split
  · split <;> rfl
  · rfl

theorem planFinal_other {x : LaneState} (other : x.pendingKnife ≠ some key) : (planFinal key done x).knifePlan = x.knifePlan ∧
    (planFinal key done x).lateral = x.lateral ∧ (planFinal key done x).pendingKnife = x.pendingKnife := by
  unfold planFinal
  dsimp only
  rw [if_neg other]
  exact ⟨rfl, rfl, rfl⟩

theorem planFinal_lost {x : LaneState} (mine : x.pendingKnife = some key) : (planFinal key false x).knifePlan = .unknown ∧
    (planFinal key false x).lateral = none ∧ (planFinal key false x).pendingKnife = none := by
  unfold planFinal
  dsimp only
  rw [if_pos mine]
  exact ⟨rfl, rfl, rfl⟩

/-- The knife records of `y` after a knife action of `x` was lost (R154). -/
structure RecordsLost (key : Nat) (x y : LaneState) : Prop where
  moves : y.moves = x.moves.filter (fun m => m.1 ≠ key)
  mine : x.pendingKnife = some key → y.knifePlan = .unknown ∧ y.lateral = none ∧ y.pendingKnife = none
  other : x.pendingKnife ≠ some key → y.knifePlan = x.knifePlan ∧ y.lateral = x.lateral ∧ y.pendingKnife = x.pendingKnife

theorem recordsLost_planFinal (key : Nat) (x : LaneState) : RecordsLost key x (planFinal key false x) :=
  ⟨planFinal_moves key false x, planFinal_lost, planFinal_other⟩

theorem RecordsLost.congr {key : Nat} {x x' y y' : LaneState} (h : RecordsLost key x y)
    (before : x'.moves = x.moves ∧ x'.knifePlan = x.knifePlan ∧ x'.lateral = x.lateral ∧ x'.pendingKnife = x.pendingKnife)
    (after : knifeSide y' = knifeSide y) : RecordsLost key x' y' := by
  obtain ⟨moves, plan, lateral, pending⟩ := before
  simp only [knifeSide, Prod.mk.injEq] at after
  obtain ⟨-, plan', lateral', pending', moves'⟩ := after
  exact ⟨by rw [moves', moves, h.moves], fun own => by rw [plan', lateral', pending']; exact h.mine (pending ▸ own),
    fun own => by rw [plan', lateral', pending', plan, lateral, pending]; exact h.other (pending ▸ own)⟩

theorem QueuesOn.lost {key : Nat} {x y z : LaneState} (on : QueuesOn y z) (h : RecordsLost key x y) :
    (∀ m ∈ z.moves, m.1 ≠ key) ∧
      (x.pendingKnife = some key → z.knifePlan = .unknown ∧ z.lateral = none ∧ z.pendingKnife = none) := by
  refine ⟨fun m mem => ?_, fun own => ?_⟩
  · have kept := on.moves m mem
    rw [h.moves] at kept
    exact of_decide_eq_true (List.mem_filter.mp kept).2
  · obtain ⟨plan, lateral, pending⟩ := h.mine own
    obtain ⟨pending', plan', lateral'⟩ := on.plan pending
    exact ⟨plan'.trans plan, lateral'.trans lateral, pending'⟩

theorem knifeFinal_station (l : Lane) (act : Action) (fin : FinalState) (t : State) {st : Station} (other : st ≠ .lam) :
    (knifeFinal l act fin t).station st = t.station st := by
  have mapped : Aside noStation (trimFinal l act.key (decide (fin = .done)) t) (knifeFinal l act fin t) :=
    aside_mapFinal l act fin _
  obtain same | ⟨lam | none, -⟩ := mapped.station st
  · rw [same, trimFinal_station]
  · exact absurd lam other
  · exact none.elim

theorem trimFinal_attn {g : Segment} (mem : g ∈ (t.lane l).segs) (mine : g.watch.watched = some key)
    (going : g.watch.state ≠ .ended) : attnHas (trimFinal l key false t).mgmt.flags prioTrimShort = true := by
  have any : (t.lane l).segs.any (watching key) = true :=
    List.any_eq_true.mpr ⟨g, mem, by simp [watching, mine, going]⟩
  unfold trimFinal
  dsimp only
  rw [any]
  exact attnHas_raise (by decide) (by decide) _

/-- A watch that is lost, as `watchLost` states it. -/
theorem watchFinal_lost {h : Segment} (job : t.jobOf h = s.jobOf h) :
    watchFinal (t.jobOf h) (trimPos l t) key false h = watchLost key h s := by
  by_cases on : h.watch.watched = some key ∧ h.watch.state ≠ .ended
  · have going : watching key h = true := by simpa [watching] using on
    rw [watchLost, if_pos on, watchFinal, if_pos going, job]
    rfl
  · have idle : watching key h = false := by
      rw [Bool.eq_false_iff]
      exact fun going => on (by simpa [watching] using going)
    rw [watchLost, if_neg on, watchFinal_idle idle]

end KnifeFinal

/-! ## A knife action that is CANCELLED (R111) -/

/-- The head of a trim queue out of the queue, its owner flagged. -/
def knifeFlagged (l : Lane) (act : Action) (s : State) : State :=
  raise prioStationFault (flagOwner l act defStationFault (popTrim l s))

theorem cancelKnife_eq (l : Lane) (act : Action) (s : State) :
    cancelKnife l act s = knifeFinal l act .cancelled (knifeFlagged l act s) := rfl

theorem exec_knifeCancelled (queue : (s.lane l).trimQueue = act :: rest) (fate : trimFate l act s = .cancelled) :
    exec (.headCancelled (trimmerOf l)) s = .next (finish (trimTest l (cancelKnife l act s))) := by
  have head : trimHead l s = some (act, .cancelled) := by simp only [trimHead, queue, List.head?_cons, Option.map_some, fate]
  have cancelled : cancelKnifeHead l s = trimTest l (cancelKnife l act s) := by simp only [cancelKnifeHead, head]
  cases l <;> exact congrArg (fun u => Host.Outcome.next (finish u)) cancelled

theorem trimFate_passed (out : (s.station (trimmerOf l)).mode = .faulted ∨ (s.station (trimmerOf l)).mode = .offline)
    (passed : toGo (trimmerOf l) act.target s ≤ 0) : trimFate l act s = .cancelled := by
  obtain mode | mode := out <;> simp only [trimFate, mode] <;> exact if_pos passed

section KnifeGone

theorem inside_knifeFlagged (l : Lane) (act : Action) (s : State) : Inside s (knifeFlagged l act s) :=
  ((inside_popTrim l s).trans (inside_flagOwner l act _ _)).trans (inside_raise _ _)

theorem inside_knifeGone (l : Lane) (act : Action) (s : State) : Inside s (cancelKnife l act s) := inside_cancelKnife l act s

theorem aside_knifeFlagged (l : Lane) (act : Action) (s : State) : Aside noStation (popTrim l s) (knifeFlagged l act s) :=
  (aside_flagOwner l act (d := defStationFault) (by decide) _).trans (aside_raise _ _)

theorem knifeFlagged_side (l : Lane) (act : Action) (s : State) :
    knifeSide ((knifeFlagged l act s).lane l) = knifeSide ((popTrim l s).lane l) := by
  exact (aside_knifeFlagged l act s).knives l id

theorem knifeFlagged_segs {k : Nat} (owner : act.owner = some k) (s : State) : ((knifeFlagged l act s).lane l).segs =
    (s.lane l).segs.map (fun g => if g.id = k then g.flag defStationFault else g) := by
  rw [knifeFlagged, raise_lane, flagOwner_segs owner, popTrim, State.lane_modLane]

theorem knifeFlagged_jobOf (g : Segment) : (knifeFlagged l act s).jobOf g = s.jobOf g := by
  rw [(aside_knifeFlagged l act s).jobOf g]
  exact jobOf_congr (by rw [popTrim, State.jobs_modLane]) g

theorem stands_knifeFlagged {g : Segment} (alone : AloneUnder g (s.lane l)) (owner : act.owner = some g.id) :
    Stands l g (g.flag defStationFault) s (knifeFlagged l act s) :=
  ((Stands.refl alone).popTrim.flagOwner owner _).raise _

/-- A segment before the final state of a CANCELLED knife action: flagged where it is the owner. -/
theorem knifeFlagged_seg {g : Segment} (mem : g ∈ (s.lane l).segs) :
    ∃ h ∈ ((knifeFlagged l act s).lane l).segs, Onward g h ∧ h.watch = g.watch ∧ h.trimShort = g.trimShort ∧
      (act.owner = some g.id → h = g.flag defStationFault) := by
  have popped : ((popTrim l s).lane l).segs = (s.lane l).segs := by rw [popTrim, State.lane_modLane]
  cases owner : act.owner with
  | none =>
    refine ⟨g, ?_, .refl g, rfl, rfl, nofun⟩
    rw [knifeFlagged, raise_lane, flagOwner, owner, popped]
    exact mem
  | some k =>
    refine ⟨if g.id = k then g.flag defStationFault else g, ?_, ?_⟩
    · rw [knifeFlagged_segs owner]
      exact List.mem_map_of_mem mem
    · by_cases mine : g.id = k
      · rw [if_pos mine]
        exact ⟨onward_flag (by decide) g, rfl, rfl, fun _ => rfl⟩
      · rw [if_neg mine]
        exact ⟨.refl g, rfl, rfl, fun own => absurd (Option.some.inj own).symm mine⟩

theorem openUnder_knifeFlagged {k : Nat} (opened : OpenUnder k (s.lane l)) : OpenUnder k ((knifeFlagged l act s).lane l) := by
  have popped : OpenUnder k ((popTrim l s).lane l) := by
    rw [popTrim, State.lane_modLane]
    exact opened
  rw [knifeFlagged, raise_lane, flagOwner]
  split
  · exact openUnder_modSeg (fun _ => rfl) (fun _ => rfl) popped
  · exact popped

theorem knifeGone_station {st : Station} (other : st ≠ .lam) : (cancelKnife l act s).station st = s.station st := by
  rw [cancelKnife_eq, knifeFinal_station l act _ _ other]
  obtain same | ⟨lam | none, -⟩ := (aside_knifeFlagged l act s).station st
  · rw [same, popTrim_station]
  · exact absurd lam other
  · exact none.elim

theorem knifeGone_queue (queue : (s.lane l).trimQueue = act :: rest) : ((cancelKnife l act s).lane l).trimQueue = rest := by
  have side := congrArg Prod.fst (knifeFinal_side l act .cancelled (knifeFlagged l act s))
  have flagged := congrArg Prod.fst (knifeFlagged_side l act s)
  have planned := (planFinal_queues act.key false ((knifeFlagged l act s).lane l)).2.1
  have popped : ((popTrim l s).lane l).trimQueue = rest := by rw [popTrim, State.lane_modLane, queue]; rfl
  exact ((side.trans planned).trans flagged).trans popped

/-- The queue after a CANCELLED knife action is the rest where the next head waits. -/
theorem knifeGone_waits (queue : (s.lane l).trimQueue = act :: rest)
    (waits : ∀ a, rest.head? = some a → trimFate l a s = .waits) : trimTest l (cancelKnife l act s) = cancelKnife l act s := by
  refine trimTest_waits fun a head => ?_
  rw [knifeGone_queue queue] at head
  have inside := inside_knifeGone l act s
  rw [trimFate_congr (knifeGone_station (trimmer_ne_lam l)) inside.tracker inside.setup]
  exact waits a head

theorem knifeGone_lost (l : Lane) (act : Action) (s : State) : RecordsLost act.key (s.lane l) ((cancelKnife l act s).lane l) := by
  have side := knifeFlagged_side l act s
  simp only [knifeSide, Prod.mk.injEq] at side
  obtain ⟨-, plan, lateral, pending, moves⟩ := side
  simp only [popTrim, State.lane_modLane] at plan lateral pending moves
  exact (recordsLost_planFinal act.key ((knifeFlagged l act s).lane l)).congr
    ⟨moves.symm, plan.symm, lateral.symm, pending.symm⟩ (knifeFinal_side l act .cancelled _)

variable {u : State} (event : u = trimTest l (cancelKnife l act s))
include event

theorem knifeGone_further : SegsOn l (trimFinal l act.key false (knifeFlagged l act s)) u := by
  have mapped : SegsOn l (trimFinal l act.key false (knifeFlagged l act s)) (cancelKnife l act s) :=
    (workLaw_segsOn l).mapFinal l act .cancelled _
  rw [event]
  exact mapped.trans ((workLaw_segsOn l).trimTest l _ trivial)

theorem knifeGone_rest (queue : (s.lane l).trimQueue = act :: rest)
    (out : (s.station (trimmerOf l)).mode = .faulted ∨ (s.station (trimmerOf l)).mode = .offline) :
    ((finish u).lane l).trimQueue <:+ rest ∧ attnHas (finish u).mgmt.flags prioStationFault = true ∧
      (finish u).tracker = s.tracker ∧ (finish u).station (trimmerOf l) = s.station (trimmerOf l) ∧
      ((finish u).lam.mode = s.lam.mode → (finish u).lastId = s.lastId ∧ (finish u).south = s.south) := by
  have ends := endOfEvent_finish u
  have whole : Aside (fun k => k = .station (trimmerOf l)) s u := by
    rw [event]
    have gone : Aside (fun k => k = .station (trimmerOf l)) s (cancelKnife l act s) := aside_cancelKnife l act s rfl
    exact gone.trans (aside_trimTest l _ rfl)
  have station : u.station (trimmerOf l) = s.station (trimmerOf l) :=
    whole.unready (by obtain mode | mode := out <;> rw [mode] <;> decide)
  have flag : attnHas (knifeFlagged l act s).mgmt.flags prioStationFault = true := attnHas_raise (by decide) (by decide) _
  have after := inside_knifeFinal l act .cancelled (knifeFlagged l act s)
  have last := inside_trimTest l (cancelKnife l act s)
  refine ⟨?_, ?_, ?_, ?_, fun lam => ?_⟩
  · rw [ends.lane, event, ← knifeGone_queue queue]
    exact ((workLaw_queuesOn l).trimTest l _ trivial).knives
  · rw [ends.flags, event]
    exact attnHas_mono last.flags (attnHas_mono after.flags flag)
  · rw [ends.tracker, event, ((inside_knifeGone l act s).trans last).tracker]
  · rw [ends.station, station]
  · have same : (finish u).lam = u.lam := ends.station .lam
    rw [ends.lastId, ends.south]
    exact whole.unissued station (same ▸ lam)

theorem knifeGone_owner {k : Nat} (owner : act.owner = some k) (opened : OpenUnder k (s.lane l)) {g : Segment}
    (mem : g ∈ (s.lane l).segs) (id : g.id = k) : ∃ g' ∈ ((finish u).lane l).segs, g'.id = k ∧
      g'.flags &&& defStationFault = defStationFault ∧ g'.unfinished ≤ g.unfinished - 1 := by
  obtain ⟨h, hmem, -, -, -, flagged⟩ := knifeFlagged_seg (act := act) mem
  rw [flagged (by rw [owner, id])] at hmem
  have further : SegsOn l (cancelKnife l act s) u := event ▸ (workLaw_segsOn l).trimTest l _ trivial
  obtain ⟨g', mem', on⟩ := knifeFinal_owner (fin := .cancelled) owner (openUnder_knifeFlagged (act := act) opened) further hmem id
  have watch := onward_watchFinal ((knifeFlagged l act s).jobOf (g.flag defStationFault)) (trimPos l (knifeFlagged l act s)) act.key
    false (g.flag defStationFault)
  have fault : (g.flag defStationFault).flags &&& defStationFault = defStationFault := flag_self _ _
  refine ⟨g', ?_, (on.grown.id.trans watch.grown.id).trans id, flags_grow (flags_grow fault watch.grown.flags) on.grown.flags,
    on.unfinished.trans (Nat.sub_le_sub_right watch.unfinished 1)⟩
  rw [(endOfEvent_finish u).lane]
  exact mem'

/-- A watch on the CANCELLED knife action that had not ended is lost. -/
theorem knifeGone_watch {g : Segment} (mem : g ∈ (s.lane l).segs) (mine : g.watch.watched = some act.key)
    (going : g.watch.state ≠ .ended) : attnHas (finish u).mgmt.flags prioTrimShort = true ∧
      (OpenUnder g.id (s.lane l) → ∃ g' ∈ ((finish u).lane l).segs, g'.id = g.id ∧ g'.flags &&& defTrimShort = defTrimShort ∧
        g'.watch.state = .ended ∧ g'.trimShort = max g.trimShort (fullRegion g s)) := by
  obtain ⟨h, hmem, on, watch, short, -⟩ := knifeFlagged_seg (act := act) mem
  have further := knifeGone_further event
  have ends := endOfEvent_finish u
  have mine' : h.watch.watched = some act.key := watch ▸ mine
  have going' : h.watch.state ≠ .ended := watch ▸ going
  refine ⟨?_, fun opened => ?_⟩
  · have lost := trimFinal_attn hmem mine' going'
    have mapped := inside_mapFinal l act .cancelled (trimFinal l act.key false (knifeFlagged l act s))
    have tested := inside_trimTest l (cancelKnife l act s)
    rw [ends.flags, event]
    exact attnHas_mono tested.flags (attnHas_mono mapped.flags lost)
  · have still := openUnder_knifeFlagged (act := act) opened
    obtain ⟨g', mem', after⟩ := trimFinal_stays further hmem (on.grown.id ▸ still)
    have job : (knifeFlagged l act s).jobOf h = s.jobOf h := knifeFlagged_jobOf h
    rw [watchFinal_lost job, watchLost, if_pos ⟨mine', going'⟩] at after
    obtain ⟨ended, kept, flag⟩ := after.ended rfl
    refine ⟨g', by rw [ends.lane]; exact mem', after.grown.id.trans on.grown.id, ?_, ended, ?_⟩
    · rw [flag]
      exact flag_self _ _
    · rw [kept, short]
      have region : fullRegion h s = fullRegion g s := by
        rw [on.grown.same]
        rfl
      rw [region]

/-- The knife records after a CANCELLED knife action, and what the tests that follow leave of them. -/
theorem knifeGone_records : (∀ m ∈ ((finish u).lane l).moves, m.1 ≠ act.key) ∧
    ((s.lane l).pendingKnife = some act.key → ((finish u).lane l).knifePlan = .unknown ∧ ((finish u).lane l).lateral = none ∧
      ((finish u).lane l).pendingKnife = none) := by
  rw [(endOfEvent_finish u).lane, event]
  exact ((workLaw_queuesOn l).trimTest l (cancelKnife l act s) trivial).lost (knifeGone_lost l act s)

end KnifeGone

/-- The Web Map's part of a CANCELLED knife action, with its owner as the flag, the lost watch and the tally leave it. -/
theorem knifeGone_final {g : Segment} (alone : AloneUnder g (s.lane l)) (owner : act.owner = some g.id) :
    WorkFinal l g { watchLost act.key { g with flags := g.flags ||| defStationFault } s with unfinished := g.unfinished - 1 } s
      (finish (cancelKnife l act s)) := by
  have st := stands_knifeFlagged alone owner
  have final := (st.trimFinal act.key false).final owner .cancelled
  rw [watchFinal_lost (knifeFlagged_jobOf _)] at final
  have shape : tally (decide (act.kind = .cut)) .cancelled (watchLost act.key (g.flag defStationFault) s) =
      { watchLost act.key { g with flags := g.flags ||| defStationFault } s with unfinished := g.unfinished - 1 } := by
    show tally _ _ (watchLost act.key { g with flags := g.flags ||| defStationFault } s) = _
    unfold tally watchLost
    split <;> simp
  rwa [shape] at final

theorem tally_skippedCut (g : Segment) : tally (decide (ActKind.cut = .cut)) .skipped g =
    { g with cutsMissed := g.cutsMissed + 1, unfinished := g.unfinished - 1 } := rfl

theorem tally_cancelled (cut : Bool) (g : Segment) : tally cut .cancelled g = { g with unfinished := g.unfinished - 1 } := by
  simp [tally]

/-! ## The obligation -/

/-- Settles O29: the head leaves by a flag and a final state, then the test of its station goes on. -/
theorem headLeavesUnsent : Obligations.HeadLeavesUnsent := by
  unfold Obligations.HeadLeavesUnsent
  intro s l act rest
  refine ⟨fun queue mode late => ?_, fun queue out passed => ?_, fun queue out passed => ?_⟩
  · have plain : defCutMissed &&& registeredFlags = 0#12 := by decide
    obtain ⟨suffix, flag, tracker, unissued⟩ :=
      cutLeft_rest (fin := .skipped) plain (prio := prioCutMissed) (by decide) (by decide) queue rfl
    have ends := endOfEvent_finish (cutTest l (mapFinal l act .skipped (cutFlagged l act prioCutMissed defCutMissed s)))
    have event := exec_cutSkipped queue (cutFate_late mode late)
    rw [skipCut_eq] at event
    refine ⟨_, event, suffix, flag, tracker, ?_, ?_, ?_, ?_⟩
    · have tested := cutTest_station l (mapFinal l act .skipped (cutFlagged l act prioCutMissed defCutMissed s))
      rw [cutGone_station plain (cutter_ne_lam l), cutGone_queue plain queue] at tested
      rw [ends.station]
      refine tested.imp_right fun ⟨ready, i, mem, issued⟩ => ⟨ready, i, ?_, mem, issued⟩
      rw [issued]
    · intro station lam
      rw [ends.station] at station
      exact unissued station lam
    · intro k owner cut opened g mem id
      obtain ⟨g', mem', id', flags, work, missed⟩ :=
        cutLeft_owner (prio := prioCutMissed) (d := defCutMissed) (fin := .skipped) owner opened mem id rfl
      refine ⟨g', mem', id', flags, ?_, work⟩
      have counted : (tally (decide (act.kind = .cut)) .skipped (g.flag defCutMissed)).cutsMissed = g.cutsMissed + 1 := by
        rw [cut]
        rfl
      omega
    · intro next
      have waits : ∀ a, rest.head? = some a → cutFate l a s = .waits := fun a head => by
        obtain ⟨early, within⟩ := next a head
        obtain ready | busy := mode
        · exact cutFate_early ready (early ready)
        · exact cutFate_held busy (within busy)
      have still := cutGone_waits (fin := .skipped) (prio := prioCutMissed) plain queue waits
      have ends' := endOfEvent_finish (mapFinal l act .skipped (cutFlagged l act prioCutMissed defCutMissed s))
      rw [still]
      refine ⟨?_, ?_, fun g alone owner cut => ?_⟩
      · rw [ends'.lane]
        exact cutGone_queue plain queue
      · rw [ends'.station]
        exact cutGone_station plain (cutter_ne_lam l)
      · have final := cutGone_final alone owner (prio := prioCutMissed) (d := defCutMissed) (fin := .skipped)
        rw [cut, tally_skippedCut] at final
        exact final
  · have plain : defStationFault &&& registeredFlags = 0#12 := by decide
    obtain ⟨suffix, flag, tracker, unissued⟩ :=
      cutLeft_rest (fin := .cancelled) plain (prio := prioStationFault) (by decide) (by decide) queue rfl
    have ends := endOfEvent_finish (cutTest l (mapFinal l act .cancelled (cutFlagged l act prioStationFault defStationFault s)))
    have unready : (s.station (cutterOf l)).mode ≠ .ready := by obtain mode | mode := out <;> rw [mode] <;> decide
    have station : (cutTest l (mapFinal l act .cancelled (cutFlagged l act prioStationFault defStationFault s))).station (cutterOf l) =
        s.station (cutterOf l) := by
      have tested := cutTest_station l (mapFinal l act .cancelled (cutFlagged l act prioStationFault defStationFault s))
      rw [cutGone_station plain (cutter_ne_lam l)] at tested
      exact tested.resolve_right fun issued => unready issued.1
    have event := exec_cutCancelled queue (cutFate_passed out passed)
    rw [cancelCut_eq] at event
    refine ⟨_, event, suffix, flag, tracker, ?_, unissued station, ?_, ?_⟩
    · rw [ends.station]
      exact station
    · intro k owner opened g mem id
      obtain ⟨g', mem', id', flags, work, -⟩ :=
        cutLeft_owner (prio := prioStationFault) (d := defStationFault) (fin := .cancelled) owner opened mem id rfl
      exact ⟨g', mem', id', flags, work⟩
    · intro next
      have still := cutGone_waits (fin := .cancelled) (prio := prioStationFault) plain queue
        fun a head => cutFate_ahead out (next a head)
      have ends' := endOfEvent_finish (mapFinal l act .cancelled (cutFlagged l act prioStationFault defStationFault s))
      rw [still]
      refine ⟨?_, fun g alone owner => ?_⟩
      · rw [ends'.lane]
        exact cutGone_queue plain queue
      · have final := cutGone_final alone owner (prio := prioStationFault) (d := defStationFault) (fin := .cancelled)
        rw [tally_cancelled] at final
        exact final
  · obtain ⟨suffix, flag, tracker, station, unissued⟩ := knifeGone_rest rfl queue out
    obtain ⟨moves, plan⟩ := knifeGone_records (l := l) (act := act) (s := s) rfl
    have ends := endOfEvent_finish (trimTest l (cancelKnife l act s))
    have still := fun next : ∀ a, rest.head? = some a → 0 < toGo (trimmerOf l) a.target s =>
      knifeGone_waits queue fun a head => trimFate_ahead out (next a head)
    have ends' := endOfEvent_finish (cancelKnife l act s)
    have lost := knifeGone_lost l act s
    refine ⟨_, exec_knifeCancelled queue (trimFate_passed out passed), suffix, flag, tracker, station, unissued,
      fun k owner opened g mem id => knifeGone_owner rfl owner opened mem id, fun next => ?_, moves, plan, fun next => ?_, ?_,
      fun g mem mine going => knifeGone_watch rfl mem mine going⟩
    · rw [still next]
      refine ⟨?_, fun g alone owner => knifeGone_final alone owner⟩
      rw [ends'.lane]
      exact knifeGone_queue queue
    · rw [still next, ends'.lane]
      exact ⟨lost.moves, lost.other⟩
    · intro g mem mine
      rw [ends.lane] at mem
      exact trimFinal_ended (knifeGone_further rfl) mem mine

end Sys2Proof.Machine
end

section
/-! PROOFS. A matching ACT_DONE: the station freed, the owner's tally, LAM's transition and the knife records, and the next head taken
in the same event (R114, R119, R135, R154, R156). -/

namespace Sys2Proof.Machine

variable {l : Lane} {i : Issued} {rest : List Action} {s t u : State}

/-! ## The reply at its station -/

theorem toGo_congr {st : Station} (record : (t.station st).record = (s.station st).record) (tracker : t.tracker = s.tracker)
    (q : Word32) : toGo st q t = toGo st q s := by
  simp only [toGo, recordOr, record, tracker]

theorem endOutstanding_station (st : Station) (m : StationMode) (s : State) :
    (endOutstanding st m s).station st = { s.station st with mode := m, outstanding := none } := by
  rw [endOutstanding, State.station_modStation]

theorem replyDone_cut (l : Lane) (i : Issued) (s : State) :
    replyDone (cutterOf l) i s = cutTest l (mapFinal l i.act .done (endOutstanding (cutterOf l) .ready s)) := by cases l <;> rfl

theorem replyDone_knife (l : Lane) (i : Issued) (s : State) :
    replyDone (trimmerOf l) i s = trimTest l (knifeFinal l i.act .done (endOutstanding (trimmerOf l) .ready s)) := by cases l <;> rfl

section Match

variable {src : Byte} {id : BitVec 16} {st : Station} (sender : senderOf src s = some st) (busy : (s.station st).mode = .busy)
  (held : (s.station st).outstanding = some i) (same : i.id = id)
include sender busy held same

omit sender in
theorem matchReply_own : matchReply id (s.station st) = some i := by
  simp only [matchReply, held, busy, same, and_self, if_true]

theorem exec_done : exec (.actDone src id) s = .next (finish (replyDone st i s)) := by
  have taken : takeReply src id none s = replyDone st i s := by
    simp only [takeReply, sender, matchReply_own busy held same]
  exact congrArg (fun u => Host.Outcome.next (finish u)) taken

theorem exec_fault (code : Byte) : exec (.actFault src id code) s = .next (finish (failOutstanding st i (some code) s)) := by
  have taken : takeReply src id (some code) s = failOutstanding st i (some code) s := by
    simp only [takeReply, sender, matchReply_own busy held same]
  exact congrArg (fun u => Host.Outcome.next (finish u)) taken

end Match

/-! ## A final state leaves the stations and the queues -/

section Final

variable (l : Lane) (act : Action) (fin : FinalState) (s : State)

theorem mapFinal_station {st : Station} (other : st ≠ .lam) : (mapFinal l act fin s).station st = s.station st := by
  have mapped : Aside noStation s (mapFinal l act fin s) := aside_mapFinal l act fin s
  obtain same | ⟨lam | none, -⟩ := mapped.station st
  · exact same
  · exact absurd lam other
  · exact none.elim

theorem mapFinal_queues (m : Lane) : ((mapFinal l act fin s).lane m).cutQueue = (s.lane m).cutQueue ∧
    ((mapFinal l act fin s).lane m).trimQueue = (s.lane m).trimQueue := by
  have mapped : Aside noStation s (mapFinal l act fin s) := aside_mapFinal l act fin s
  exact ⟨mapped.cuts m id, congrArg Prod.fst (mapped.knives m id)⟩

theorem knifeFinal_queues (m : Lane) : ((knifeFinal l act fin s).lane m).cutQueue = (s.lane m).cutQueue ∧
    ((knifeFinal l act fin s).lane m).trimQueue = (s.lane m).trimQueue := by
  obtain ⟨cuts, knives⟩ := mapFinal_queues l act fin (trimFinal l act.key (decide (fin = .done)) s) m
  have kept : ((trimFinal l act.key (decide (fin = .done)) s).lane m).cutQueue = (s.lane m).cutQueue ∧
      ((trimFinal l act.key (decide (fin = .done)) s).lane m).trimQueue = (s.lane m).trimQueue := by
    by_cases same : m = l
    · subst same
      obtain ⟨cuts', knives', -⟩ := trimFinal_queues m act.key (decide (fin = .done)) s
      exact ⟨cuts', knives'⟩
    · rw [trimFinal_lane_ne same]
      exact ⟨rfl, rfl⟩
  exact ⟨cuts.trans kept.1, knives.trans kept.2⟩

end Final

theorem endOutstanding_lane (st : Station) (m : StationMode) (s : State) (l : Lane) : (endOutstanding st m s).lane l = s.lane l := by
  rw [endOutstanding, State.lane_modStation]

theorem Stands.ended {g : Segment} (alone : AloneUnder g (s.lane l)) (st : Station) (m : StationMode) :
    Stands l g g s (endOutstanding st m s) := (Stands.refl alone).modStation st _

/-- What a DONE leaves at its station, and of the queues: nothing is issued where nothing is due. -/
structure Freed (st : Station) (s t : State) : Prop where
  station : t.station st = { s.station st with mode := .ready, outstanding := none }
  queues : ∀ l, (t.lane l).cutQueue = (s.lane l).cutQueue ∧ (t.lane l).trimQueue = (s.lane l).trimQueue
  tracker : t.tracker = s.tracker
  setup : t.setup = s.setup

/-! ## A cutter -/

section Cut

variable (l : Lane) (i : Issued) (s : State)

/-- The state after the DONE of a cut, before the cutter's test. -/
def cutDone : State := mapFinal l i.act .done (endOutstanding (cutterOf l) .ready s)

theorem freed_cutDone : Freed (cutterOf l) s (cutDone l i s) where
  station := by rw [cutDone, mapFinal_station l _ _ _ (cutter_ne_lam l), endOutstanding_station]
  queues m := by
    obtain ⟨cuts, knives⟩ := mapFinal_queues l i.act .done (endOutstanding (cutterOf l) .ready s) m
    rw [cutDone, cuts, knives, endOutstanding_lane]
    exact ⟨rfl, rfl⟩
  tracker := ((inside_endOutstanding _ _ s).trans (inside_mapFinal l _ _ _)).tracker
  setup := ((inside_endOutstanding _ _ s).trans (inside_mapFinal l _ _ _)).setup

variable {l i s}

theorem cutDone_final {g : Segment} (alone : AloneUnder g (s.lane l)) (owner : i.act.owner = some g.id) (cut : i.act.kind = .cut) :
    WorkFinal l g { g with cutsDone := g.cutsDone + 1, unfinished := g.unfinished - 1 } s (finish (cutDone l i s)) := by
  have final := (Stands.ended alone (cutterOf l) .ready).final owner .done
  rw [cut] at final
  exact final

theorem cutDone_owner {k : Nat} (owner : i.act.owner = some k) (cut : i.act.kind = .cut) (opened : OpenUnder k (s.lane l))
    {g : Segment} (mem : g ∈ (s.lane l).segs) (id : g.id = k) :
    { g with cutsDone := g.cutsDone + 1, unfinished := g.unfinished - 1 } ∈ ((cutDone l i s).lane l).segs := by
  have tallied := mapFinal_owner (t := endOutstanding (cutterOf l) .ready s) .done owner
    (by rw [endOutstanding_lane]; exact opened) (by rw [endOutstanding_lane]; exact mem) id
  rw [cut] at tallied
  exact tallied

theorem cutDone_waits (early : ∀ a, (s.lane l).cutQueue.head? = some a → NotYetDue (cutterOf l) a s) :
    cutTest l (cutDone l i s) = cutDone l i s := by
  obtain ⟨station, queues, tracker, setup⟩ := freed_cutDone l i s
  refine cutTest_waits fun a head => cutFate_early (by rw [station]) ?_
  rw [(queues l).1] at head
  have later := early a head
  rw [NotYetDue] at later ⊢
  rwa [toGo_congr (by rw [station]) tracker, tracker, setup]

end Cut

/-! ## A trim station -/

section Knife

variable (l : Lane) (i : Issued) (s : State)

/-- The state after the DONE of a knife action, before the trim station's test. -/
def knifeDone : State := knifeFinal l i.act .done (endOutstanding (trimmerOf l) .ready s)

theorem freed_knifeDone : Freed (trimmerOf l) s (knifeDone l i s) where
  station := by rw [knifeDone, knifeFinal_station l _ _ _ (trimmer_ne_lam l), endOutstanding_station]
  queues m := by
    obtain ⟨cuts, knives⟩ := knifeFinal_queues l i.act .done (endOutstanding (trimmerOf l) .ready s) m
    rw [knifeDone, cuts, knives, endOutstanding_lane]
    exact ⟨rfl, rfl⟩
  tracker := ((inside_endOutstanding _ _ s).trans (inside_knifeFinal l _ _ _)).tracker
  setup := ((inside_endOutstanding _ _ s).trans (inside_knifeFinal l _ _ _)).setup

variable {l i s}

theorem knifeDone_waits (early : ∀ a, (s.lane l).trimQueue.head? = some a → NotYetDue (trimmerOf l) a s) :
    trimTest l (knifeDone l i s) = knifeDone l i s := by
  obtain ⟨station, queues, tracker, setup⟩ := freed_knifeDone l i s
  refine trimTest_waits fun a head => trimFate_early (by rw [station]) ?_
  rw [(queues l).2] at head
  have later := early a head
  rw [NotYetDue] at later ⊢
  rwa [toGo_congr (by rw [station]) tracker, tracker, setup]

theorem ended_jobOf (st : Station) (m : StationMode) (g : Segment) : (endOutstanding st m s).jobOf g = s.jobOf g :=
  jobOf_congr (by rw [endOutstanding, State.jobs_modStation]) g

theorem ended_trimPos (m : StationMode) :
    trimPos l (endOutstanding (trimmerOf l) m s) = s.tracker.p - pu (recordOr (s.station (trimmerOf l))).dist := by
  rw [trimPos, endOutstanding_station, endOutstanding, State.tracker_modStation]
  rfl

/-- A watch that is ended by DONE, as `watchEnded` states it. -/
theorem watchFinal_done {job : JobDef} {p : Word32} {key : Nat} {h : Segment} (same : job = s.jobOf h) :
    watchFinal job p key true h = watchEnded key p h s := by
  by_cases mine : h.watch.watched = some key
  · by_cases past : h.watch.state = .ended
    · have keep : { h.watch with state := .ended } = h.watch := by rw [← past]
      have short : h.watch.state ≠ .short := by rw [past]; decide
      rw [watchFinal_idle (by simp [watching, past]), watchEnded, if_pos mine, keep, if_neg short]
    · have going : watching key h = true := by simp [watching, mine, past]
      rw [watchFinal, if_pos going, if_pos rfl, watchEnded, if_pos mine, same]
      rfl
  · rw [watchFinal_idle (by simp [watching, mine]), watchEnded, if_neg mine]

theorem knifeDone_final {g : Segment} (alone : AloneUnder g (s.lane l)) (owner : i.act.owner = some g.id)
    (knife : i.act.kind ≠ .cut) : WorkFinal l g { watchEnded i.act.key (s.tracker.p - pu (recordOr (s.station (trimmerOf l))).dist) g s with
      unfinished := g.unfinished - 1 } s (finish (knifeDone l i s)) := by
  have final := ((Stands.ended alone (trimmerOf l) .ready).trimFinal i.act.key true).final owner .done
  rw [watchFinal_done (ended_jobOf _ _ g), ended_trimPos, decide_eq_false knife] at final
  have shape : tally false .done (watchEnded i.act.key (s.tracker.p - pu (recordOr (s.station (trimmerOf l))).dist) g s) =
      { watchEnded i.act.key (s.tracker.p - pu (recordOr (s.station (trimmerOf l))).dist) g s with
        unfinished := g.unfinished - 1 } := by
    unfold tally watchEnded
    split <;> rfl
  rwa [shape] at final

theorem planFinal_done (key : Nat) (x : LaneState) : (planFinal key true x).knifePlan = x.knifePlan ∧
    (planFinal key true x).lateral = x.lateral ∧
    (planFinal key true x).pendingKnife = (if x.pendingKnife = some key then none else x.pendingKnife) := by
  unfold planFinal
  dsimp only
  split <;> exact ⟨rfl, rfl, rfl⟩

theorem knifeDone_records : ((knifeDone l i s).lane l).knifePlan = (s.lane l).knifePlan ∧
    ((knifeDone l i s).lane l).lateral = (s.lane l).lateral ∧
    ((knifeDone l i s).lane l).moves = (s.lane l).moves.filter (fun m => m.1 ≠ i.act.key) ∧
    ((knifeDone l i s).lane l).pendingKnife =
      (if (s.lane l).pendingKnife = some i.act.key then none else (s.lane l).pendingKnife) := by
  have side := knifeFinal_side l i.act .done (endOutstanding (trimmerOf l) .ready s)
  simp only [knifeSide, Prod.mk.injEq] at side
  obtain ⟨-, plan, lateral, pending, moves⟩ := side
  rw [endOutstanding_lane] at plan lateral pending moves
  obtain ⟨plan', lateral', pending'⟩ := planFinal_done i.act.key (s.lane l)
  exact ⟨plan.trans plan', lateral.trans lateral', moves.trans (planFinal_moves _ _ _), pending.trans pending'⟩

theorem knifeDone_further : SegsOn l (trimFinal l i.act.key true (endOutstanding (trimmerOf l) .ready s)) (knifeDone l i s) :=
  (workLaw_segsOn l).mapFinal l i.act .done _

/-- A watch on the knife action after its DONE. -/
theorem knifeDone_watch {g : Segment} (mem : g ∈ (s.lane l).segs) (mine : g.watch.watched = some i.act.key)
    (opened : OpenUnder g.id (s.lane l)) : ∃ g' ∈ ((knifeDone l i s).lane l).segs, g'.id = g.id ∧ g'.watch.state = .ended ∧
      g'.flags &&& defTrimShort = g.flags &&& defTrimShort ∧
      g'.trimShort = (if g.watch.state = .short then shortAt (s.tracker.p - pu (recordOr (s.station (trimmerOf l))).dist) g s
        else g.trimShort) := by
  have here : g ∈ ((endOutstanding (trimmerOf l) .ready s).lane l).segs := by rw [endOutstanding_lane]; exact mem
  obtain ⟨g', mem', on⟩ := trimFinal_stays knifeDone_further here (by rw [endOutstanding_lane]; exact opened)
  rw [watchFinal_done (ended_jobOf _ _ g), ended_trimPos, watchEnded, if_pos mine] at on
  obtain ⟨ended, short, flag⟩ := on.ended rfl
  exact ⟨g', mem', on.grown.id, ended, flag, short⟩

end Knife

/-! ## LAM -/

section Lam

/-- The state after the DONE of LAM's action, before LAM's test. -/
def lamDone (i : Issued) (s : State) : State := nipFinal i.id true (endOutstanding .lam .ready s)

theorem replyDone_lam (i : Issued) (s : State) : replyDone .lam i s = lamTest (lamDone i s) := rfl

theorem nipFinal_rest (id : BitVec 16) (done : Bool) (s : State) :
    ∃ last, nipFinal id done s = { s with nip := { s.nip with last := last } } := by
  unfold nipFinal
  split
  · split
    · exact ⟨_, rfl⟩
    · exact ⟨s.nip.last, rfl⟩
  · exact ⟨s.nip.last, rfl⟩

theorem nipFinal_last {id : BitVec 16} {done : Bool} {x : LastTransition} (held : s.nip.last = some x) : (nipFinal id done s).nip.last =
    some (if x.id = id then { x with outcome := if done then .confirmed else .failed } else x) := by
  simp only [nipFinal, held]
  split <;> simp [held]

theorem freed_lamDone (i : Issued) (s : State) : Freed .lam s (lamDone i s) where
  station := by
    obtain ⟨last, nip⟩ := nipFinal_rest i.id true (endOutstanding .lam .ready s)
    rw [lamDone, nip]
    exact endOutstanding_station .lam .ready s
  queues m := by
    obtain ⟨last, nip⟩ := nipFinal_rest i.id true (endOutstanding .lam .ready s)
    rw [lamDone, nip]
    cases m <;> exact ⟨rfl, rfl⟩
  tracker := ((inside_endOutstanding _ _ s).trans (inside_nipFinal _ _ _)).tracker
  setup := ((inside_endOutstanding _ _ s).trans (inside_nipFinal _ _ _)).setup

theorem lamDone_nip (i : Issued) (s : State) : ∃ last, (lamDone i s).nip = { s.nip with last := last } := by
  obtain ⟨last, nip⟩ := nipFinal_rest i.id true (endOutstanding .lam .ready s)
  refine ⟨last, ?_⟩
  rw [lamDone, nip]
  rfl

theorem lamDone_waits (early : ∀ o, s.nip.offer = some o →
    ((s.tracker.speed * s.setup.horizon : Nat) : Int) < toGo .lam o.target s * 256000) : lamTest (lamDone i s) = lamDone i s := by
  obtain ⟨station, -, tracker, setup⟩ := freed_lamDone i s
  obtain ⟨last, nip⟩ := lamDone_nip i s
  refine lamTest_waits fun o offered => ?_
  rw [nip] at offered
  have later := early o offered
  have due : isDue (toGo .lam o.target (lamDone i s)) (lamDone i s).tracker.speed (lamDone i s).setup.horizon = false := by
    rw [isDue_eq_false, toGo_congr (by rw [station]) tracker, tracker, setup]
    exact later
  rw [lamReady, due, Bool.and_false]

/-- LAM's offer that is due when LAM is freed (R103). -/
theorem lamDone_issues {o : Offer} (offered : s.nip.offer = some o)
    (due : toGo .lam o.target s * 256000 ≤ ((s.tracker.speed * s.setup.horizon : Nat) : Int)) :
    lamTest (lamDone i s) = issueLam o (lamDone i s) := by
  obtain ⟨station, -, tracker, setup⟩ := freed_lamDone i s
  obtain ⟨last, nip⟩ := lamDone_nip i s
  have still : (lamDone i s).nip.offer = some o := by rw [nip]; exact offered
  have ready : lamReady o (lamDone i s) = true := by
    rw [lamReady_iff]
    refine ⟨congrArg StationState.mode station, isDue_iff.mpr ?_⟩
    rw [toGo_congr (by rw [station]) tracker, tracker, setup]
    exact due
  rw [lamTest_some still, if_pos ready]

theorem lamDone_lastId (i : Issued) (s : State) : (lamDone i s).lastId = s.lastId := by
  obtain ⟨last, nip⟩ := nipFinal_rest i.id true (endOutstanding .lam .ready s)
  rw [lamDone, nip]
  exact State.lastId_modStation ..

theorem lamDone_issued (o : Offer) : (issueLam o (lamDone i s)).lam.mode = .busy ∧
    (issueLam o (lamDone i s)).lastId = nextId s.lastId ∧
    (∃ j, (issueLam o (lamDone i s)).lam.outstanding = some j ∧ j.id = nextId s.lastId ∧ j.act.target = o.target) ∧
    (issueLam o (lamDone i s)).nip.commanded = commandedBy o.kind ∧
    (issueLam o (lamDone i s)).nip.last = some { kind := o.kind, target := o.target, id := nextId s.lastId, outcome := .pending } ∧
    (issueLam o (lamDone i s)).nip.zones = s.nip.zones := by
  have lastId := lamDone_lastId i s
  obtain ⟨begun, nip⟩ := issueLam_nip o (lamDone i s)
  obtain ⟨last, before⟩ := lamDone_nip i s
  rw [lastId] at nip
  refine ⟨by rw [issueLam_lam], by rw [(issueLam_lastId o _).1, lastId],
    ⟨_, by rw [issueLam_lam], by rw [lastId], rfl⟩, by rw [nip]; rfl, by rw [nip]; rfl, ?_⟩
  rw [nip]
  show (lamDone i s).nip.zones = s.nip.zones
  rw [before]

end Lam

/-! ## The next head, issued in the same event (R103) -/

section Next

/-- A segment whose tallies are as they were. -/
def Uncounted (g h : Segment) : Prop :=
  h.id = g.id ∧ h.state = g.state ∧ h.unfinished = g.unfinished ∧ h.cutsDone = g.cutsDone

/-- The map of a lane with the same segments, their tallies as they were. -/
def UncountedMap (l : Lane) (s t : State) : Prop :=
  ∃ f, (t.lane l).segs = (s.lane l).segs.map f ∧ ∀ g, Uncounted g (f g)

theorem uncounted_eq (h : (t.lane l).segs = (s.lane l).segs) : UncountedMap l s t :=
  ⟨id, by rw [h, List.map_id], fun _ => ⟨rfl, rfl, rfl, rfl⟩⟩

theorem UncountedMap.trans (h : UncountedMap l s t) (k : UncountedMap l t u) : UncountedMap l s u := by
  obtain ⟨f, segs, same⟩ := h
  obtain ⟨f', segs', same'⟩ := k
  refine ⟨f' ∘ f, by rw [segs', segs, List.map_map], fun g => ?_⟩
  obtain ⟨id, state, work, cuts⟩ := same g
  obtain ⟨id', state', work', cuts'⟩ := same' (f g)
  exact ⟨id'.trans id, state'.trans state, work'.trans work, cuts'.trans cuts⟩

theorem uncounted_modSeg {f : Segment → Segment} (same : ∀ g, Uncounted g (f g)) (l : Lane) (k : Nat) (s : State) :
    UncountedMap l s (s.modSeg l k f) :=
  ⟨_, modSeg_segs l k f s, fun g => by
    split
    · exact same g
    · exact ⟨rfl, rfl, rfl, rfl⟩⟩

theorem uncounted_flagEstimated (l : Lane) (act : Action) (s : State) : UncountedMap l s (flagEstimated l act s) := by
  unfold flagEstimated
  split
  · split
    · exact uncounted_modSeg (f := Segment.flag defEstimated) (fun _ => ⟨rfl, rfl, rfl, rfl⟩) l _ s
    · exact uncounted_eq rfl
  · exact uncounted_eq rfl

variable {act : Action}

theorem uncounted_issueCut (l : Lane) (act : Action) (s : State) : UncountedMap l s (issueCut l act s) := by
  have core : UncountedMap l s (cutCore l act s) :=
    uncounted_eq (by rw [cutCore, issueCore_lane, popCut, State.lane_modLane])
  have flagged := core.trans (uncounted_flagEstimated l act (cutCore l act s))
  unfold issueCut
  dsimp only
  split
  · split
    · exact flagged.trans (uncounted_modSeg (f := noteLate _) (fun _ => ⟨rfl, rfl, rfl, rfl⟩) l _ _)
    · exact flagged
  · exact flagged

theorem uncounted_issueKnife (l : Lane) (act : Action) (s : State) : UncountedMap l s (issueKnife l act s) := by
  have core : UncountedMap l s (knifeCore l act s) :=
    uncounted_eq (by rw [knifeCore, issueCore_lane, popTrim, State.lane_modLane])
  refine (core.trans (uncounted_flagEstimated l act (knifeCore l act s))).trans (uncounted_modSeg (fun g => ?_) l _ _)
  split <;> exact ⟨rfl, rfl, rfl, rfl⟩

/-- The owner of the finished action in the event that issues the next head. -/
structure OwnerNext (l : Lane) (done : Nat) (g : Segment) (s t : State) : Prop where
  stays : g.state = .opened ∨ 1 < g.unfinished →
    ∃ g' ∈ (t.lane l).segs, g'.id = g.id ∧ g'.state = g.state ∧ g'.unfinished = g.unfinished - 1 ∧
      g'.cutsDone = g.cutsDone + done
  leaves : g.state = .closed → g.unfinished ≤ 1 →
    (t.lane l).segs.map (fun x => x.id) = ((s.lane l).segs.filter (fun x => x.id ≠ g.id)).map (fun x => x.id) ∧
      t.jobs = s.jobs.modify g.slot (Option.map (fun r => { r with inUse := r.inUse - 1 })) ∧
      t.nip.zones = s.nip.zones.filter (fun e => !(decide (e.lane = l) && decide (e.seg = g.id)))

theorem OwnerNext.of_final {g h : Segment} {done : Nat} {v : State} (final : WorkFinal l g h s (finish v))
    (id : h.id = g.id) (slot : h.slot = g.slot) (state : h.state = g.state) (work : h.unfinished = g.unfinished - 1)
    (cuts : h.cutsDone = g.cutsDone + done) (map : UncountedMap l v t) (jobs : t.jobs = v.jobs) (nip : t.nip = v.nip) :
    OwnerNext l done g s (finish t) := by
  have ends := endOfEvent_finish t
  have before := endOfEvent_finish v
  obtain ⟨f, segs, same⟩ := map
  refine ⟨fun more => ?_, fun closed last => ?_⟩
  · obtain ⟨mem, -⟩ := final.stays more
    rw [before.lane] at mem
    obtain ⟨id', state', work', cuts'⟩ := same h
    refine ⟨f h, ?_, id'.trans id, state'.trans state, work'.trans work, cuts'.trans cuts⟩
    rw [ends.lane, segs]
    exact List.mem_map_of_mem mem
  · obtain ⟨ids, -, gone, zones⟩ := (final.retires closed last).leaves
    rw [before.lane, id] at ids
    rw [before.jobs, slot] at gone
    rw [before.nip, id] at zones
    have keep : (fun x : Segment => x.id) ∘ f = fun x => x.id := funext fun x => (same x).1
    refine ⟨?_, ?_, ?_⟩
    · rw [ends.lane, segs, List.map_map, keep]
      exact ids
    · rw [ends.jobs, jobs]
      exact gone
    · rw [ends.nip, nip]
      exact zones

/-- Where only LAM can be given an action and is given none, no id is used. -/
theorem Aside.lamKept {v w : State} (aside : Aside noStation v w) (lam : w.lam = v.lam) : w.lastId = v.lastId := by
  refine (aside.idle fun x => ?_).1
  obtain kept | ⟨isLam | none, -⟩ := aside.station x
  · rw [kept]
  · rw [isLam, State.station_lam, State.station_lam, lam]
  · exact none.elim

theorem endOutstanding_lam {st : Station} (notLam : st ≠ .lam) (m : StationMode) (s : State) :
    (endOutstanding st m s).lam = s.lam := by
  rw [← State.station_lam, endOutstanding, State.station_modStation_ne _ _ _ _ (Ne.symm notLam), State.station_lam]

theorem cutDone_lastId (lam : (cutDone l i s).lam = s.lam) : (cutDone l i s).lastId = s.lastId := by
  have aside : Aside noStation (endOutstanding (cutterOf l) .ready s) (cutDone l i s) := aside_mapFinal l i.act .done _
  rw [aside.lamKept (lam.trans (endOutstanding_lam (cutter_ne_lam l) _ s).symm), endOutstanding, State.lastId_modStation]

theorem trimFinal_lastId (l : Lane) (key : Nat) (done : Bool) (s : State) : (trimFinal l key done s).lastId = s.lastId := by
  unfold trimFinal
  dsimp only
  split
  · rw [raise_lastId, State.lastId_modLane]
  · rw [State.lastId_modLane]

theorem knifeDone_lastId (lam : (knifeDone l i s).lam = s.lam) : (knifeDone l i s).lastId = s.lastId := by
  have aside : Aside noStation (trimFinal l i.act.key true (endOutstanding (trimmerOf l) .ready s)) (knifeDone l i s) :=
    aside_mapFinal l i.act .done _
  have kept : (trimFinal l i.act.key true (endOutstanding (trimmerOf l) .ready s)).lam = s.lam := by
    rw [← State.station_lam, trimFinal_station, State.station_lam, endOutstanding_lam (trimmer_ne_lam l)]
  rw [aside.lamKept (lam.trans kept.symm), trimFinal_lastId, endOutstanding, State.lastId_modStation]

/-- What a final state leaves of a segment, its watch apart. -/
structure WatchKeeps (g h : Segment) : Prop where
  id : h.id = g.id
  slot : h.slot = g.slot
  state : h.state = g.state
  unfinished : h.unfinished = g.unfinished
  cutsDone : h.cutsDone = g.cutsDone

theorem watchKeeps_final (job : JobDef) (p : Word32) (key : Nat) (done : Bool) (g : Segment) :
    WatchKeeps g (watchFinal job p key done g) := by
  unfold watchFinal
  split
  · split <;> exact ⟨rfl, rfl, rfl, rfl, rfl⟩
  · exact ⟨rfl, rfl, rfl, rfl, rfl⟩

theorem WatchKeeps.cuts {g h : Segment} (keeps : WatchKeeps g h) (cut : Bool) :
    (tally cut .done h).cutsDone = g.cutsDone + if cut = true then 1 else 0 := by
  cases cut <;> simp [tally, keeps.cutsDone]

theorem knifeDone_workFinal {g : Segment} (alone : AloneUnder g (s.lane l)) (owner : i.act.owner = some g.id) :
    WorkFinal l g (tally (decide (i.act.kind = .cut)) .done
      (watchFinal ((endOutstanding (trimmerOf l) .ready s).jobOf g) (trimPos l (endOutstanding (trimmerOf l) .ready s))
        i.act.key true g))
      s (finish (knifeDone l i s)) :=
  ((Stands.ended alone (trimmerOf l) .ready).trimFinal i.act.key true).final owner .done

/-- The head `a` of a station's queue has been issued from `s` to `t` (R108). -/
structure HeadTaken (st : Station) (l : Lane) (a : Action) (s t : State) : Prop where
  station : ∃ timeout, t.station st =
    { s.station st with mode := .busy, outstanding := some { act := a, id := nextId s.lastId, orphan := false, timeout := timeout } }
  lastId : t.lastId = nextId s.lastId
  lam : t.lam = s.lam
  map : UncountedMap l s t
  tracker : t.tracker = s.tracker
  jobs : t.jobs = s.jobs
  nip : t.nip = s.nip

theorem headTaken_cut (l : Lane) (a : Action) (s : State) : HeadTaken (cutterOf l) l a s (issueCut l a s) := by
  have only := issueCut_onlySegs l a s
  have other : Station.lam ≠ cutterOf l := (cutter_ne_lam l).symm
  refine ⟨⟨(recordOr (s.station (cutterOf l))).timeout + ceilDiv (delayOf (cutterOf l) a s) 1000 + 0, ?_⟩, ?_, ?_,
    uncounted_issueCut l a s, ?_, ?_, ?_⟩
  · rw [only.station, cutCore, issueCore_station, popCut_station, popCut, State.lastId_modLane]
  · rw [only.lastId, cutCore, issueCore_lastId, popCut, State.lastId_modLane]
  · rw [← State.station_lam, only.station, cutCore, issueCore_station_ne (h := other), popCut_station, State.station_lam]
  · rw [only.tracker, cutCore_tracker]
  · rw [only.jobs, cutCore, issueCore_jobs, popCut, State.jobs_modLane]
  · rw [only.nip, cutCore, issueCore_nip, popCut, State.nip_modLane]

theorem headTaken_knife (l : Lane) (a : Action) (s : State) : HeadTaken (trimmerOf l) l a s (issueKnife l a s) := by
  have only := issueKnife_onlySegs l a s
  have other : Station.lam ≠ trimmerOf l := (trimmer_ne_lam l).symm
  refine ⟨⟨(recordOr (s.station (trimmerOf l))).timeout + ceilDiv (delayOf (trimmerOf l) a s) 1000 +
      moveEstimate (recordOr (s.station (trimmerOf l))) a (fromOf (s.lane l).moves a.key), ?_⟩, ?_, ?_,
    uncounted_issueKnife l a s, ?_, ?_, ?_⟩
  · rw [only.station, knifeCore, issueCore_station, popTrim_station, popTrim, State.lastId_modLane]
  · rw [only.lastId, knifeCore, issueCore_lastId, popTrim, State.lastId_modLane]
  · rw [← State.station_lam, only.station, knifeCore, issueCore_station_ne (h := other), popTrim_station, State.station_lam]
  · rw [only.tracker, knifeCore_tracker]
  · rw [only.jobs, knifeCore, issueCore_jobs, popTrim, State.jobs_modLane]
  · rw [only.nip, knifeCore, issueCore_nip, popTrim, State.nip_modLane]

theorem issueCut_queue (queue : (s.lane l).cutQueue = act :: rest) : ((issueCut l act s).lane l).cutQueue = rest := by
  rw [(issueCut_onlySegs l act s).cutQueue, cutCore, issueCore_lane, popCut, State.lane_modLane, queue]
  rfl

theorem issueKnife_queue (queue : (s.lane l).trimQueue = act :: rest) : ((issueKnife l act s).lane l).trimQueue = rest := by
  rw [(issueKnife_onlySegs l act s).trimQueue, knifeCore, issueCore_lane, popTrim, State.lane_modLane, queue]
  rfl

theorem cutTest_issues (queue : (s.lane l).cutQueue = act :: rest) (fate : cutFate l act s = .issued) :
    cutTest l s = issueCut l act s := by
  unfold cutTest
  rw [queue]
  simp only [List.length_cons, cutTestN, queue, fate]

theorem trimTest_issues (queue : (s.lane l).trimQueue = act :: rest) (fate : trimFate l act s = .issued) :
    trimTest l s = issueKnife l act s := by
  unfold trimTest
  rw [queue]
  simp only [List.length_cons, trimTestN, queue, fate]

/-- What O30 states of a station that takes its next head, for the event that ends in `u`. -/
theorem next_station {st : Station} {a : Action} {v u : State} (freed : Freed st s v) (taken : HeadTaken st l a v u) :
    ((finish u).station st).mode = .busy ∧
    (∃ j, ((finish u).station st).outstanding = some j ∧ j.act = a ∧ j.orphan = false ∧ j.id = (finish u).lastId) ∧
    ((finish u).station st).record = (s.station st).record ∧ (finish u).tracker = s.tracker := by
  have ends := endOfEvent_finish u
  obtain ⟨timeout, station⟩ := taken.station
  rw [ends.station, ends.lastId, ends.tracker, station, taken.lastId, taken.tracker, freed.tracker, freed.station]
  exact ⟨rfl, ⟨_, rfl, rfl, rfl, rfl⟩, rfl, rfl⟩

end Next

/-! ## The obligation -/

theorem trimmerOf_ne_cutterOf (l m : Lane) : trimmerOf l ≠ cutterOf m := (cutter_ne_trimmer m l).symm

/-- A station is LAM, a cutter or a trim station. -/
theorem station_cases (st : Station) : st = .lam ∨ ∃ l, st = cutterOf l ∨ st = trimmerOf l := by
  cases st
  · exact .inl rfl
  · exact .inr ⟨.a, .inr rfl⟩
  · exact .inr ⟨.b, .inr rfl⟩
  · exact .inr ⟨.a, .inl rfl⟩
  · exact .inr ⟨.b, .inl rfl⟩

/-- Settles O30: the outstanding action's final state, and the test of its station after it. -/
theorem doneFreesStation : Obligations.DoneFreesStation := by
  unfold Obligations.DoneFreesStation
  refine ⟨?_, ?_, ?_⟩
  · intro s src id st i sender busy held same cutEarly trimEarly lamEarly
    have event := exec_done sender busy held same
    obtain rfl | ⟨l, rfl | rfl⟩ := station_cases st
    · rw [replyDone_lam, lamDone_waits (lamEarly rfl)] at event
      have ends := endOfEvent_finish (lamDone i s)
      obtain ⟨station, queues, tracker, -⟩ := freed_lamDone i s
      obtain ⟨last, nip⟩ := lamDone_nip i s
      refine ⟨_, event, ?_, ?_, fun m => ?_, fun m _ h => absurd h (cutter_ne_lam m).symm,
        fun m _ h => absurd h (trimmer_ne_lam m).symm, ?_, ?_, fun m _ h => absurd h (cutter_ne_lam m).symm, fun _ => ?_,
        fun _ x held' mine => ?_,
        fun m h => absurd h (trimmer_ne_lam m).symm⟩
      · rw [ends.station, station]
      · rw [ends.station, station]
      · rw [ends.lane]
        exact queues m
      · rw [ends.station, station]
      · rw [ends.tracker, tracker]
      · rw [ends.nip, nip]
        exact ⟨rfl, rfl, rfl, rfl, rfl⟩
      · have confirmed := nipFinal_last (s := endOutstanding .lam .ready s) (id := i.id) (done := true) held'
        rw [if_pos (mine.trans same.symm)] at confirmed
        rw [ends.nip]
        exact confirmed
    · rw [replyDone_cut] at event
      rw [← cutDone, cutDone_waits (fun a => cutEarly l a rfl)] at event
      have ends := endOfEvent_finish (cutDone l i s)
      obtain ⟨station, queues, tracker, -⟩ := freed_cutDone l i s
      refine ⟨_, event, ?_, ?_, fun m => ?_, fun m g h alone owner cut => ?_,
        fun m _ h => absurd h (cutter_ne_trimmer l m), ?_, ?_, fun m k h owner cut opened g mem id => ?_,
        fun h => absurd h (cutter_ne_lam l), fun h => absurd h (cutter_ne_lam l), fun m h => absurd h (cutter_ne_trimmer l m)⟩
      · rw [ends.station, station]
      · rw [ends.station, station]
      · rw [ends.lane]
        exact queues m
      · obtain rfl := cutterOf_inj h
        exact cutDone_final alone owner cut
      · rw [ends.station, station]
      · rw [ends.tracker, tracker]
      · obtain rfl := cutterOf_inj h
        refine ⟨{ g with cutsDone := g.cutsDone + 1, unfinished := g.unfinished - 1 }, ?_, id, rfl, rfl⟩
        rw [ends.lane]
        exact cutDone_owner owner cut opened mem id
    · rw [replyDone_knife] at event
      rw [← knifeDone, knifeDone_waits (fun a => trimEarly l a rfl)] at event
      have ends := endOfEvent_finish (knifeDone l i s)
      obtain ⟨station, queues, tracker, -⟩ := freed_knifeDone l i s
      refine ⟨_, event, ?_, ?_, fun m => ?_, fun m _ h => absurd h (trimmerOf_ne_cutterOf l m),
        fun m g h alone owner knife => ?_, ?_, ?_, fun m _ h => absurd h (trimmerOf_ne_cutterOf l m),
        fun h => absurd h (trimmer_ne_lam l), fun h => absurd h (trimmer_ne_lam l), fun m h => ?_⟩
      · rw [ends.station, station]
      · rw [ends.station, station]
      · rw [ends.lane]
        exact queues m
      · obtain rfl := trimmerOf_inj h
        exact knifeDone_final alone owner knife
      · rw [ends.station, station]
      · rw [ends.tracker, tracker]
      · obtain rfl := trimmerOf_inj h
        rw [ends.lane]
        obtain ⟨plan, lateral, moves, pending⟩ := knifeDone_records (l := l) (i := i) (s := s)
        exact ⟨plan, lateral, moves, pending, fun g mem mine => trimFinal_ended knifeDone_further mem mine,
          fun g mem mine opened => knifeDone_watch mem mine opened⟩
  · intro s src id i o sender busy held same offered due
    have event := exec_done sender busy held same
    rw [replyDone_lam, lamDone_issues offered due] at event
    have ends := endOfEvent_finish (issueLam o (lamDone i s))
    obtain ⟨mode, lastId, held', commanded, last, zones⟩ := lamDone_issued (i := i) (s := s) o
    have lam : (finish (issueLam o (lamDone i s))).lam = (issueLam o (lamDone i s)).lam := ends.station .lam
    refine ⟨_, event, by rw [lam, mode], by rw [ends.lastId, lastId], by rw [lam]; exact held', ?_, by rw [ends.nip, last],
      by rw [ends.nip, zones], ?_⟩
    · rw [ends.nip, commanded]
      rfl
    · rw [ends.tracker, (inside_issueLam o _).tracker, (freed_lamDone i s).tracker]
  · intro s src id st l i a rest sender busy held same which due
    have event := exec_done sender busy held same
    obtain ⟨rfl, queue, cut, within⟩ | ⟨rfl, queue⟩ := which
    · have freed := freed_cutDone l i s
      have queue' : ((cutDone l i s).lane l).cutQueue = a :: rest := (freed.queues l).1.trans queue
      have taken := headTaken_cut l a (cutDone l i s)
      have ends := endOfEvent_finish (issueCut l a (cutDone l i s))
      have fate : cutFate l a (cutDone l i s) = .issued := by
        refine cutFate_issues (by rw [freed.station]) ?_ ?_
        · rw [toGo_congr (by rw [freed.station]) freed.tracker, freed.tracker, freed.setup]
          exact due
        · rw [toGo_congr (by rw [freed.station]) freed.tracker, freed.station]
          exact within
      rw [replyDone_cut, ← cutDone, cutTest_issues queue' fate] at event
      obtain ⟨mode, out, record, tracker⟩ := next_station freed taken
      refine ⟨_, event, mode, out, fun lam => ?_, fun _ => ?_, fun h => absurd h (cutter_ne_trimmer l l), record, tracker,
        fun g alone owner => ?_⟩
      · have ends' : (finish (issueCut l a (cutDone l i s))).lam = (cutDone l i s).lam := (ends.station .lam).trans taken.lam
        rw [ends.lastId, taken.lastId, cutDone_lastId (ends'.symm.trans lam)]
      · rw [ends.lane]
        exact issueCut_queue queue'
      · have next := OwnerNext.of_final (done := 1) (cutDone_final alone owner cut) rfl rfl rfl rfl rfl taken.map taken.jobs taken.nip
        refine ⟨fun more => ?_, next.leaves⟩
        obtain ⟨g', mem, id, state, work, cuts⟩ := next.stays more
        exact ⟨g', mem, id, state, work, fun _ => cuts⟩
    · have freed := freed_knifeDone l i s
      have queue' : ((knifeDone l i s).lane l).trimQueue = a :: rest := (freed.queues l).2.trans queue
      have taken := headTaken_knife l a (knifeDone l i s)
      have ends := endOfEvent_finish (issueKnife l a (knifeDone l i s))
      have fate : trimFate l a (knifeDone l i s) = .issued := by
        refine trimFate_issues (by rw [freed.station]) ?_
        rw [toGo_congr (by rw [freed.station]) freed.tracker, freed.tracker, freed.setup]
        exact due
      rw [replyDone_knife, ← knifeDone, trimTest_issues queue' fate] at event
      obtain ⟨mode, out, record, tracker⟩ := next_station freed taken
      refine ⟨_, event, mode, out, fun lam => ?_, fun h => absurd h (trimmerOf_ne_cutterOf l l), fun _ => ?_, record, tracker,
        fun g alone owner => ?_⟩
      · have ends' : (finish (issueKnife l a (knifeDone l i s))).lam = (knifeDone l i s).lam := (ends.station .lam).trans taken.lam
        rw [ends.lastId, taken.lastId, knifeDone_lastId (ends'.symm.trans lam)]
      · rw [ends.lane]
        exact issueKnife_queue queue'
      · have keeps := watchKeeps_final ((endOutstanding (trimmerOf l) .ready s).jobOf g)
          (trimPos l (endOutstanding (trimmerOf l) .ready s)) i.act.key true g
        have next := OwnerNext.of_final (done := if decide (i.act.kind = .cut) = true then 1 else 0)
          (knifeDone_workFinal alone owner) keeps.id keeps.slot keeps.state
          (congrArg (· - 1) keeps.unfinished) (keeps.cuts _) taken.map taken.jobs taken.nip
        refine ⟨fun more => ?_, next.leaves⟩
        obtain ⟨g', mem, id, state, work, -⟩ := next.stays more
        exact ⟨g', mem, id, state, work, fun h => absurd h (trimmerOf_ne_cutterOf l l)⟩

end Sys2Proof.Machine
end

section
/-! PROOFS. An outstanding action that fails, by ACT_FAULT or by the expiry of its timeout (R115, R116, R136, R154, R156). -/

namespace Sys2Proof.Machine

variable {l : Lane} {i : Issued} {st : Station} {code : Option Byte} {s t u b : State}

/-! ## The state before the final state is handed on -/

/-- `b` is `s` but for the counters and the outstanding action of a station and the urgent queue. -/
structure Base (st : Station) (s b : State) : Prop where
  lane : ∀ l, b.lane l = s.lane l
  record : (b.station st).record = (s.station st).record
  tracker : b.tracker = s.tracker
  setup : b.setup = s.setup
  jobs : b.jobs = s.jobs
  nip : b.nip = s.nip
  mgmt : b.mgmt = s.mgmt
  north : b.north = s.north
  lastId : b.lastId = s.lastId

theorem Base.refl (st : Station) (s : State) : Base st s s := ⟨fun _ => rfl, rfl, rfl, rfl, rfl, rfl, rfl, rfl, rfl⟩

theorem Base.rollKept (base : Base st s b) (l : Lane) : RollKept l s b := by
  constructor
  · rw [base.lane]
  · rw [base.lane]
  · exact base.jobs
  · rw [base.nip]
  · rw [base.mgmt]
  · rw [base.mgmt]
  · exact base.north
  · rw [base.mgmt, BitVec.or_self]

/-- The outstanding action of a station has failed, its owner is flagged; the final state is still to be handed on (R115, R116). -/
def failedAt (st : Station) (act : Action) (code : Option Byte) (b : State) : State :=
  flagFailed st act code (raise prioStationFault (endOutstanding st .faulted b))

theorem noteFault_eq (code : Option Byte) (g : Segment) : noteFault code g =
    { g with flags := g.flags ||| defStationFault
             faultCode := if code = none ∨ code = some 0#8 then g.faultCode else code } := by
  cases code with
  | none => rfl
  | some c =>
    by_cases zero : c = 0#8
    · simp [noteFault, Segment.flag, zero]
    · simp [noteFault, Segment.flag, zero]

theorem flagFailed_of_lane (lane : laneOf st = some l) (act : Action) (code : Option Byte) (s : State) {k : Nat}
    (owner : act.owner = some k) : flagFailed st act code s = s.modSeg l k (noteFault code) := by
  simp only [flagFailed, lane, owner]

theorem flagFailed_orphan {act : Action} (owner : act.owner = none) (code : Option Byte) (s : State) :
    flagFailed st act code s = s := by
  cases lane : laneOf st <;> simp only [flagFailed, lane, owner]

theorem laneOf_cutter (l : Lane) : laneOf (cutterOf l) = some l := by cases l <;> rfl
theorem laneOf_trimmer (l : Lane) : laneOf (trimmerOf l) = some l := by cases l <;> rfl

theorem flagFailed_onlySegs (st : Station) (act : Action) (code : Option Byte) (s : State) :
    ∃ l, OnlySegs l s (flagFailed st act code s) := by
  unfold flagFailed
  split
  next l _ _ _ => exact ⟨l, onlySegs_modSeg l _ _ s⟩
  · exact ⟨.a, onlySegs_refl .a s⟩

section FailedAt

variable (act : Action)

theorem failedAt_station (st : Station) (code : Option Byte) (b : State) :
    (failedAt st act code b).station st = { b.station st with mode := .faulted, outstanding := none } := by
  obtain ⟨l, only⟩ := flagFailed_onlySegs st act code (raise prioStationFault (endOutstanding st .faulted b))
  rw [failedAt, only.station, raise_station, endOutstanding_station]

theorem failedAt_station_ne {st st' : Station} (other : st' ≠ st) (code : Option Byte) (b : State) :
    (failedAt st act code b).station st' = b.station st' := by
  obtain ⟨l, only⟩ := flagFailed_onlySegs st act code (raise prioStationFault (endOutstanding st .faulted b))
  rw [failedAt, only.station, raise_station, endOutstanding, State.station_modStation_ne _ _ _ _ other]

/-- What the failure leaves of a lane: its segments apart, it is as it was. -/
theorem failedAt_lane (st : Station) (code : Option Byte) (b : State) (m : Lane) :
    ∃ segs, (failedAt st act code b).lane m = { b.lane m with segs := segs } := by
  obtain ⟨l, segs, e⟩ := flagFailed_onlySegs st act code (raise prioStationFault (endOutstanding st .faulted b))
  rw [failedAt, e]
  by_cases same : m = l
  · subst same
    refine ⟨segs, ?_⟩
    rw [State.lane_setLane, raise_lane, endOutstanding_lane]
  · refine ⟨(b.lane m).segs, ?_⟩
    rw [State.lane_setLane_ne _ _ _ _ same, raise_lane, endOutstanding_lane]

theorem failedAt_rest (st : Station) (code : Option Byte) (b : State) : (failedAt st act code b).tracker = b.tracker ∧
    (failedAt st act code b).setup = b.setup ∧ (failedAt st act code b).nip = b.nip ∧ (failedAt st act code b).jobs = b.jobs ∧
    (failedAt st act code b).lastId = b.lastId ∧ (failedAt st act code b).south = b.south := by
  obtain ⟨l, only⟩ := flagFailed_onlySegs st act code (raise prioStationFault (endOutstanding st .faulted b))
  rw [failedAt, only.tracker, only.nip, only.jobs, only.lastId, only.south, (inside_flagFailed _ _ _ _).setup]
  simp [endOutstanding]

theorem failedAt_fault (st : Station) (code : Option Byte) (b : State) :
    attnHas (failedAt st act code b).mgmt.flags prioStationFault = true := by
  obtain ⟨l, only⟩ := flagFailed_onlySegs st act code (raise prioStationFault (endOutstanding st .faulted b))
  rw [failedAt, only.mgmt]
  exact attnHas_raise (by decide) (by decide) _

end FailedAt

section Owner

variable {act : Action} (lane : laneOf st = some l)
include lane

theorem failedAt_segs {k : Nat} (owner : act.owner = some k) (code : Option Byte) (b : State) :
    ((failedAt st act code b).lane l).segs = (b.lane l).segs.map (fun g => if g.id = k then noteFault code g else g) := by
  rw [failedAt, flagFailed_of_lane lane act code _ owner, modSeg_segs, raise_lane, endOutstanding_lane]

theorem stands_failedAt {g : Segment} (base : Base st s b) (alone : AloneUnder g (s.lane l)) (owner : act.owner = some g.id) :
    Stands l g (noteFault code g) s (failedAt st act code b) := by
  have stands := (((Stands.refl alone).same (base.rollKept l) (by rw [base.lane])).modStation st
    (fun x => { x with mode := .faulted, outstanding := none })).raise prioStationFault
  rw [failedAt, flagFailed_of_lane lane act code _ owner]
  exact stands.modSeg (f := noteFault code) (fun _ => rfl) rfl rfl

/-- A segment in the failure of an action: flagged where it owns it. -/
theorem failedAt_seg {g : Segment} (mem : g ∈ (b.lane l).segs) (code : Option Byte) :
    ∃ h ∈ ((failedAt st act code b).lane l).segs, (h = g ∨ h = noteFault code g) ∧
      (act.owner = some g.id → h = noteFault code g) := by
  cases owner : act.owner with
  | none =>
    refine ⟨g, ?_, .inl rfl, nofun⟩
    rw [failedAt, flagFailed_orphan owner, raise_lane, endOutstanding_lane]
    exact mem
  | some k =>
    refine ⟨if g.id = k then noteFault code g else g, ?_, ?_, fun mine => if_pos (Option.some.inj mine).symm⟩
    · rw [failedAt_segs lane owner]
      exact List.mem_map_of_mem mem
    · split
      · exact .inr rfl
      · exact .inl rfl

theorem openUnder_failedAt {k : Nat} (opened : OpenUnder k (b.lane l)) : OpenUnder k ((failedAt st act code b).lane l) := by
  have before : OpenUnder k ((raise prioStationFault (endOutstanding st .faulted b)).lane l) := by
    rw [raise_lane, endOutstanding_lane]
    exact opened
  cases owner : act.owner with
  | none =>
    rw [failedAt, flagFailed_orphan owner]
    exact before
  | some j =>
    rw [failedAt, flagFailed_of_lane lane act code _ owner]
    exact openUnder_modSeg (fun _ => rfl) (fun _ => rfl) before

end Owner

/-! ## LAM beside a FAULTED station: at most one issue (R103, R137) -/

theorem nextId_ne (x : BitVec 16) : nextId x ≠ x := by
  unfold nextId
  split <;> bv_omega

/-- LAM has been given nothing, or one action while it was READY. -/
def LamOnce (s t : State) : Prop :=
  (t.lastId = s.lastId ∧ t.south = s.south ∧ t.lam.mode = s.lam.mode) ∨
    (s.lam.mode = .ready ∧ t.lam.mode = .busy ∧ t.lastId = nextId s.lastId)

theorem LamOnce.trans (h : LamOnce s t) (k : LamOnce t u) : LamOnce s u := by
  obtain ⟨lastId, south, lam⟩ | ⟨ready, busy, lastId⟩ := h
  · obtain ⟨lastId', south', lam'⟩ | ⟨ready', busy', lastId'⟩ := k
    · exact .inl ⟨lastId'.trans lastId, south'.trans south, lam'.trans lam⟩
    · exact .inr ⟨lam ▸ ready', busy', by rw [lastId', lastId]⟩
  · obtain ⟨lastId', -, lam'⟩ | ⟨ready', -⟩ := k
    · exact .inr ⟨ready, lam'.trans busy, lastId'.trans lastId⟩
    · rw [busy] at ready'
      cases ready'

theorem LamOnce.south (h : LamOnce s t) (same : t.lastId = s.lastId) : t.south = s.south := by
  obtain ⟨-, south, -⟩ | ⟨-, -, next⟩ := h
  · exact south
  · exact absurd (next.symm.trans same) (nextId_ne s.lastId)

theorem NipWork.lamOnce (h : NipWork s t) (same : t.lam.mode = s.lam.mode) : LamOnce s t :=
  .inl ⟨(h.idle same).1, (h.idle same).2, same⟩

theorem lamOnce_lamTest (s : State) : LamOnce s (lamTest s) := by
  cases offered : s.nip.offer with
  | none => rw [lamTest_none offered]; exact .inl ⟨rfl, rfl, rfl⟩
  | some o =>
    rw [lamTest_some offered]
    split
    next ready => exact .inr ⟨((lamReady_iff o s).mp ready).1, by rw [issueLam_lam], (issueLam_lastId o s).1⟩
    · exact .inl ⟨rfl, rfl, rfl⟩

theorem lamOnce_nipChangeIf (c : Bool) (s : State) : LamOnce s (nipChangeIf c s) := by
  unfold nipChangeIf
  split
  · exact ((nipWork_recompute s).lamOnce (by rw [recompute_lam])).trans (lamOnce_lamTest _)
  · exact .inl ⟨rfl, rfl, rfl⟩

theorem lamOnce_modLane (l : Lane) (f : LaneState → LaneState) (s : State) : LamOnce s (s.modLane l f) :=
  .inl ⟨by simp, by simp, by simp⟩

theorem lamOnce_leaveMap (l : Lane) (c : Cause) (g : Segment) (s : State) : LamOnce s (leaveMap l c g s) := by
  have aside : Aside noStation s (leaveMap l c g s) := aside_leaveMap l c g s
  obtain ⟨lastId, south⟩ := aside.idle fun x => by rw [leaveMap_station]
  refine .inl ⟨lastId, south, ?_⟩
  rw [← State.station_lam, leaveMap_station, State.station_lam]

/-- What the work at a FAULTED station leaves of it, LAM beside it. -/
def FaultedBeside (st : Station) (s t : State) : Prop :=
  (s.station st).mode = .faulted → (t.station st).mode = .faulted ∧ LamOnce s t

theorem faultedBeside_of (station : t.station st = s.station st) (once : LamOnce s t) : FaultedBeside st s t :=
  fun faulted => ⟨by rw [station, faulted], once⟩

theorem faultedBeside_modLane (l : Lane) (f : LaneState → LaneState) (s : State) : FaultedBeside st s (s.modLane l f) :=
  faultedBeside_of (by simp) (lamOnce_modLane l f s)

theorem faultedBeside_trimFinal (l : Lane) (key : Nat) (done : Bool) (s : State) : FaultedBeside st s (trimFinal l key done s) := by
  refine faultedBeside_of (trimFinal_station l key done s st) (.inl ⟨trimFinal_lastId l key done s, ?_, ?_⟩)
  · unfold trimFinal
    dsimp only
    split <;> simp
  · rw [← State.station_lam, trimFinal_station, State.station_lam]

theorem workLaw_faultedBeside (notLam : st ≠ .lam) : WorkLaw (fun x => x = st) (FaultedBeside st) where
  refl s := faultedBeside_of rfl (.inl ⟨rfl, rfl, rfl⟩)
  trans h k faulted := by
    obtain ⟨mode, once⟩ := h faulted
    obtain ⟨mode', once'⟩ := k mode
    exact ⟨mode', once.trans once'⟩
  turn s := faultedBeside_of (by cases st <;> rfl) (.inl ⟨rfl, rfl, rfl⟩)
  raise p s := faultedBeside_of (by rw [raise_station]) (.inl ⟨by simp, by simp, by simp⟩)
  popCut l s _ := faultedBeside_modLane l _ s
  popTrim l s _ := faultedBeside_modLane l _ s
  owner _ l id s := faultedBeside_modLane l _ s
  issued st' act delay est s mine ready faulted := by
    rw [mine, faulted] at ready
    cases ready
  knife l key done s _ := faultedBeside_trimFinal l key done s
  retire l g s _ _ := by
    have left : FaultedBeside st s (leaveMap l .complete g s) :=
      faultedBeside_of (leaveMap_station ..) (lamOnce_leaveMap l _ g s)
    have planned : FaultedBeside st (leaveMap l .complete g s) (retire l g s) :=
      faultedBeside_of ((nipWork_nipChangeIf _ _).station st notLam) (lamOnce_nipChangeIf _ _)
    exact fun faulted => by
      obtain ⟨mode, once⟩ := left faulted
      obtain ⟨mode', once'⟩ := planned mode
      exact ⟨mode', once.trans once'⟩
  lam s := faultedBeside_of ((nipWork_lamTest s).station st notLam) (lamOnce_lamTest s)

/-! ## The station after the failure -/

theorem failOutstanding_eq (st : Station) (i : Issued) (code : Option Byte) (b : State) :
    failOutstanding st i code b = issueTest st (handOn st i false (failedAt st i.act code b)) := rfl

theorem failOutstanding_cut (l : Lane) (i : Issued) (code : Option Byte) (b : State) : failOutstanding (cutterOf l) i code b =
    cutTest l (mapFinal l i.act .failed (failedAt (cutterOf l) i.act code b)) := by cases l <;> rfl

theorem failOutstanding_knife (l : Lane) (i : Issued) (code : Option Byte) (b : State) : failOutstanding (trimmerOf l) i code b =
    trimTest l (knifeFinal l i.act .failed (failedAt (trimmerOf l) i.act code b)) := by cases l <;> rfl

/-- LAM's failed action, before LAM's test, which finds it FAULTED. -/
def lamFault (i : Issued) (code : Option Byte) (b : State) : State := nipFinal i.id false (failedAt .lam i.act code b)

theorem lamFault_station (i : Issued) (code : Option Byte) (b : State) :
    (lamFault i code b).station .lam = { b.lam with mode := .faulted, outstanding := none } := by
  obtain ⟨last, nip⟩ := nipFinal_rest i.id false (failedAt .lam i.act code b)
  rw [lamFault, nip]
  exact failedAt_station i.act .lam code b

theorem failOutstanding_lam (i : Issued) (code : Option Byte) (b : State) : failOutstanding .lam i code b = lamFault i code b := by
  refine lamTest_waits fun o _ => ?_
  have mode : (lamFault i code b).lam.mode = .faulted := congrArg StationState.mode (lamFault_station i code b)
  show lamReady o (lamFault i code b) = false
  simp [lamReady, mode]

theorem handOn_station (notLam : st ≠ .lam) (i : Issued) (done : Bool) (s : State) :
    (handOn st i done s).station st = s.station st := by
  cases st with
  | lam => exact absurd rfl notLam
  | trimA => exact knifeFinal_station .a _ _ s notLam
  | trimB => exact knifeFinal_station .b _ _ s notLam
  | cutA => exact mapFinal_station .a _ _ s notLam
  | cutB => exact mapFinal_station .b _ _ s notLam

theorem failOutstanding_station (st : Station) (i : Issued) (code : Option Byte) (b : State) :
    (failOutstanding st i code b).station st = { b.station st with mode := .faulted, outstanding := none } := by
  by_cases isLam : st = .lam
  · subst isLam
    rw [failOutstanding_lam]
    exact lamFault_station i code b
  · have handed := (handOn_station isLam i false (failedAt st i.act code b)).trans (failedAt_station i.act st code b)
    have tested : Aside (fun k => k = .station st) (handOn st i false (failedAt st i.act code b)) (failOutstanding st i code b) :=
      aside_issueTest st _ rfl
    rw [tested.unready (by rw [handed]; exact nofun), handed]

theorem failOutstanding_rest (base : Base st s b) (i : Issued) (code : Option Byte) :
    attnHas (failOutstanding st i code b).mgmt.flags prioStationFault = true ∧ (failOutstanding st i code b).tracker = s.tracker := by
  have inside := (inside_handOn st i false (failedAt st i.act code b)).trans (inside_issueTest st _)
  exact ⟨attnHas_mono inside.flags (failedAt_fault i.act st code b),
    inside.tracker.trans ((failedAt_rest i.act st code b).1.trans base.tracker)⟩

theorem workLaw_handOn {own : Station → Prop} {R : State → State → Prop} (w : WorkLaw own R) (notLam : st ≠ .lam)
    (mine : own st) (i : Issued) (done : Bool) (s : State) : R s (handOn st i done s) := by
  cases st with
  | lam => exact absurd rfl notLam
  | trimA => exact w.knifeFinal .a _ _ s mine
  | trimB => exact w.knifeFinal .b _ _ s mine
  | cutA => exact w.mapFinal .a _ _ s
  | cutB => exact w.mapFinal .b _ _ s

theorem failOutstanding_south (i : Issued) (code : Option Byte) (b : State)
    (same : (failOutstanding st i code b).lastId = b.lastId) : (failOutstanding st i code b).south = b.south := by
  obtain ⟨-, -, -, -, lastId, south⟩ := failedAt_rest i.act st code b
  by_cases isLam : st = .lam
  · subst isLam
    rw [failOutstanding_lam, lamFault, nipFinal_south, south]
  · have law := workLaw_faultedBeside isLam
    have beside := law.trans (workLaw_handOn law isLam rfl i false (failedAt st i.act code b)) (law.issueTest st _ fun _ => rfl)
    obtain ⟨-, once⟩ := beside (by rw [failedAt_station])
    rw [← south]
    exact once.south (same.trans lastId.symm)

/-! ## LAM (R136) -/

theorem failOutstanding_lam_nip (base : Base .lam s b) (i : Issued) (code : Option Byte) :
    (∃ last, (failOutstanding .lam i code b).nip = { s.nip with last := last } ∧
      ∀ x, s.nip.last = some x → last = some (if x.id = i.id then { x with outcome := .failed } else x)) ∧
      (failOutstanding .lam i code b).lastId = s.lastId := by
  obtain ⟨-, -, nip, -, lastId, -⟩ := failedAt_rest i.act .lam code b
  rw [failOutstanding_lam]
  refine ⟨⟨(lamFault i code b).nip.last, ?_, fun x held => ?_⟩, ?_⟩
  · obtain ⟨last, e⟩ := nipFinal_rest i.id false (failedAt .lam i.act code b)
    rw [lamFault, e, nip, base.nip]
  · have held' : (failedAt .lam i.act code b).nip.last = some x := by rw [nip, base.nip, held]
    exact nipFinal_last held'
  · rw [lamFault, nipFinal_lastId, lastId, base.lastId]

/-! ## Cutters and trim stations -/

section Work

variable (base : Base st s b) (code : Option Byte)
include base

theorem failedAt_toGo (act : Action) (q : Word32) : toGo st q (failedAt st act code b) = toGo st q s := by
  refine toGo_congr ?_ ?_ q
  · rw [failedAt_station]
    exact base.record
  · rw [(failedAt_rest act st code b).1, base.tracker]

theorem failedAt_jobOf (act : Action) (g : Segment) : (failedAt st act code b).jobOf g = s.jobOf g :=
  jobOf_congr ((failedAt_rest act st code b).2.2.2.1.trans base.jobs) g

theorem failedAt_queues (act : Action) (m : Lane) : ((failedAt st act code b).lane m).cutQueue = (s.lane m).cutQueue ∧
    ((failedAt st act code b).lane m).trimQueue = (s.lane m).trimQueue := by
  obtain ⟨segs, lane⟩ := failedAt_lane act st code b m
  rw [lane, base.lane]
  exact ⟨rfl, rfl⟩

end Work

theorem tally_failed (cut : Bool) (g : Segment) : tally cut .failed g = { g with unfinished := g.unfinished - 1 } := by
  simp [tally]

theorem watchLost_unfinished (key : Nat) (h : Segment) (s : State) : (watchLost key h s).unfinished = h.unfinished := by
  unfold watchLost
  split <;> rfl

section CutFailed

variable (base : Base (cutterOf l) s b) (code)
include base

theorem cutFailed_waits (ahead : ∀ a, (s.lane l).cutQueue.head? = some a → 0 < toGo (cutterOf l) a.target s) :
    failOutstanding (cutterOf l) i code b = mapFinal l i.act .failed (failedAt (cutterOf l) i.act code b) := by
  rw [failOutstanding_cut]
  refine cutTest_waits fun a head => ?_
  have inside := inside_mapFinal l i.act .failed (failedAt (cutterOf l) i.act code b)
  have station := mapFinal_station l i.act .failed (failedAt (cutterOf l) i.act code b) (cutter_ne_lam l)
  rw [(mapFinal_queues l i.act .failed _ l).1, (failedAt_queues base code i.act l).1] at head
  rw [cutFate_congr station inside.tracker inside.setup]
  refine cutFate_ahead (.inl (by rw [failedAt_station])) ?_
  rw [failedAt_toGo base]
  exact ahead a head

theorem cutFailed_final (ahead : ∀ a, (s.lane l).cutQueue.head? = some a → 0 < toGo (cutterOf l) a.target s) {g : Segment}
    (alone : AloneUnder g (s.lane l)) (owner : i.act.owner = some g.id) :
    ((finish (failOutstanding (cutterOf l) i code b)).lane l).cutQueue = (s.lane l).cutQueue ∧
      WorkFinal l g { noteFault code g with unfinished := g.unfinished - 1 } s (finish (failOutstanding (cutterOf l) i code b)) := by
  rw [cutFailed_waits code base ahead]
  have ends := endOfEvent_finish (mapFinal l i.act .failed (failedAt (cutterOf l) i.act code b))
  refine ⟨?_, ?_⟩
  · rw [ends.lane, (mapFinal_queues l i.act .failed _ l).1, (failedAt_queues base code i.act l).1]
  · have final := (stands_failedAt (laneOf_cutter l) (code := code) base alone owner).final owner .failed
    rw [tally_failed] at final
    exact final

end CutFailed

section KnifeFailed

variable (base : Base (trimmerOf l) s b) (code)
include base

theorem knifeFailed_waits (ahead : ∀ a, (s.lane l).trimQueue.head? = some a → 0 < toGo (trimmerOf l) a.target s) :
    failOutstanding (trimmerOf l) i code b = knifeFinal l i.act .failed (failedAt (trimmerOf l) i.act code b) := by
  rw [failOutstanding_knife]
  refine trimTest_waits fun a head => ?_
  have inside := inside_knifeFinal l i.act .failed (failedAt (trimmerOf l) i.act code b)
  have station := knifeFinal_station l i.act .failed (failedAt (trimmerOf l) i.act code b) (trimmer_ne_lam l)
  rw [(knifeFinal_queues l i.act .failed _ l).2, (failedAt_queues base code i.act l).2] at head
  rw [trimFate_congr station inside.tracker inside.setup]
  refine trimFate_ahead (.inl (by rw [failedAt_station])) ?_
  rw [failedAt_toGo base]
  exact ahead a head

theorem knifeFailed_final (ahead : ∀ a, (s.lane l).trimQueue.head? = some a → 0 < toGo (trimmerOf l) a.target s) {g : Segment}
    (alone : AloneUnder g (s.lane l)) (owner : i.act.owner = some g.id) :
    ((finish (failOutstanding (trimmerOf l) i code b)).lane l).trimQueue = (s.lane l).trimQueue ∧
      WorkFinal l g { watchLost i.act.key (noteFault code g) s with unfinished := g.unfinished - 1 } s
        (finish (failOutstanding (trimmerOf l) i code b)) := by
  rw [knifeFailed_waits code base ahead]
  have ends := endOfEvent_finish (knifeFinal l i.act .failed (failedAt (trimmerOf l) i.act code b))
  refine ⟨?_, ?_⟩
  · rw [ends.lane, (knifeFinal_queues l i.act .failed _ l).2, (failedAt_queues base code i.act l).2]
  · have stands := stands_failedAt (laneOf_trimmer l) (code := code) base alone owner
    have final := (stands.trimFinal i.act.key false).final owner .failed
    rw [watchFinal_lost (failedAt_jobOf base code i.act _), tally_failed, watchLost_unfinished] at final
    exact final

theorem knifeFailed_records (ahead : ∀ a, (s.lane l).trimQueue.head? = some a → 0 < toGo (trimmerOf l) a.target s) :
    RecordsLost i.act.key (s.lane l) ((failOutstanding (trimmerOf l) i code b).lane l) := by
  rw [knifeFailed_waits code base ahead]
  obtain ⟨segs, lane⟩ := failedAt_lane i.act (trimmerOf l) code b l
  rw [base.lane] at lane
  refine (recordsLost_planFinal i.act.key ((failedAt (trimmerOf l) i.act code b).lane l)).congr ?_ (knifeFinal_side l i.act .failed _)
  rw [lane]
  exact ⟨rfl, rfl, rfl, rfl⟩

omit base in
theorem knifeFailed_further : SegsOn l (trimFinal l i.act.key false (failedAt (trimmerOf l) i.act code b))
    (failOutstanding (trimmerOf l) i code b) := by
  rw [failOutstanding_knife]
  exact ((workLaw_segsOn l).mapFinal l i.act .failed _).trans ((workLaw_segsOn l).trimTest l _ trivial)

theorem knifeFailed_attn {g : Segment} (mem : g ∈ (s.lane l).segs) (mine : g.watch.watched = some i.act.key)
    (going : g.watch.state ≠ .ended) : attnHas (failOutstanding (trimmerOf l) i code b).mgmt.flags prioTrimShort = true := by
  obtain ⟨h, hmem, which, -⟩ := failedAt_seg (laneOf_trimmer l) (act := i.act) (base.lane l ▸ mem) code
  have watch : h.watch = g.watch := by obtain rfl | rfl := which <;> rfl
  have inside := (inside_mapFinal l i.act .failed (trimFinal l i.act.key false (failedAt (trimmerOf l) i.act code b))).trans
    (inside_trimTest l _)
  rw [failOutstanding_knife]
  exact attnHas_mono inside.flags (trimFinal_attn hmem (watch ▸ mine) (watch ▸ going))

theorem knifeFailed_watch {g : Segment} (mem : g ∈ (s.lane l).segs) (mine : g.watch.watched = some i.act.key)
    (going : g.watch.state ≠ .ended) (opened : OpenUnder g.id (s.lane l)) :
    ∃ g' ∈ ((failOutstanding (trimmerOf l) i code b).lane l).segs, g'.id = g.id ∧ g'.flags &&& defTrimShort = defTrimShort ∧
      g'.watch.state = .ended ∧ g'.trimShort = max g.trimShort (fullRegion g s) := by
  obtain ⟨h, hmem, which, -⟩ := failedAt_seg (laneOf_trimmer l) (act := i.act) (base.lane l ▸ mem) code
  have kept : h.watch = g.watch ∧ h.id = g.id ∧ h.trimShort = g.trimShort ∧ fullRegion h s = fullRegion g s := by
    obtain rfl | rfl := which <;> exact ⟨rfl, rfl, rfl, rfl⟩
  obtain ⟨watch, id, short, region⟩ := kept
  have still := openUnder_failedAt (laneOf_trimmer l) (act := i.act) (code := code) (base.lane l ▸ opened : OpenUnder g.id (b.lane l))
  obtain ⟨g', mem', on⟩ := trimFinal_stays (knifeFailed_further code) hmem (id ▸ still)
  rw [watchFinal_lost (failedAt_jobOf base code i.act h), watchLost, if_pos ⟨watch ▸ mine, watch ▸ going⟩] at on
  obtain ⟨ended, kept, flag⟩ := on.ended rfl
  refine ⟨g', mem', on.grown.id.trans id, ?_, ended, ?_⟩
  · rw [flag]
    exact flag_self _ _
  · rw [kept, short, region]

end KnifeFailed

/-- The owner of a failed action, while its serial stands under OPEN segments only. -/
theorem failed_owner (base : Base st s b) (code : Option Byte) (lane : laneOf st = some l) {k : Nat} (owner : i.act.owner = some k)
    (opened : OpenUnder k (s.lane l)) {g : Segment} (mem : g ∈ (s.lane l).segs) (id : g.id = k) :
    ∃ g' ∈ ((failOutstanding st i code b).lane l).segs, g'.id = k ∧ g'.flags &&& defStationFault = defStationFault ∧
      g'.unfinished ≤ g.unfinished - 1 ∧ g'.faultCode = (noteFault code g).faultCode := by
  obtain ⟨h, hmem, -, noted⟩ := failedAt_seg lane (act := i.act) (base.lane l ▸ mem) code
  obtain rfl := noted (by rw [owner, id])
  have still := openUnder_failedAt lane (act := i.act) (code := code) (base.lane l ▸ opened : OpenUnder k (b.lane l))
  have on : ∃ x, Grown (noteFault code g) x ∧ x.unfinished = g.unfinished - 1 ∧
      ∃ g' ∈ ((failOutstanding st i code b).lane l).segs, Onward x g' := by
    obtain rfl | ⟨m, rfl | rfl⟩ := station_cases st
    · cases lane
    · obtain rfl := Option.some.inj ((laneOf_cutter m).symm.trans lane)
      refine ⟨tally (decide (i.act.kind = .cut)) .failed (noteFault code g), grown_tally _ _ _, rfl, ?_⟩
      rw [failOutstanding_cut]
      refine ((workLaw_segsOn m).cutTest m _ trivial).stays (mapFinal_owner .failed owner still hmem id) ?_
      show OpenUnder g.id _
      rw [id]
      exact (mapAfter_mapFinal m m i.act .failed _).openUnder still
    · obtain rfl := Option.some.inj ((laneOf_trimmer m).symm.trans lane)
      have watch := onward_watchFinal ((failedAt (trimmerOf m) i.act code b).jobOf (noteFault code g))
        (trimPos m (failedAt (trimmerOf m) i.act code b)) i.act.key false (noteFault code g)
      refine ⟨_, watch.grown.trans (grown_tally (decide (i.act.kind = .cut)) .failed _),
        congrArg (· - 1) (watchFinal_id _ _ _ _ (noteFault code g)).2.2, ?_⟩
      · rw [failOutstanding_knife]
        exact knifeFinal_owner (fin := .failed) owner still ((workLaw_segsOn m).trimTest m _ trivial) hmem id
  obtain ⟨x, grown, work, g', mem', after⟩ := on
  have whole := grown.trans after.grown
  refine ⟨g', mem', whole.id.trans id, flags_grow (flag_self g.flags defStationFault) whole.flags, work ▸ after.unfinished, ?_⟩
  rw [whole.same]

/-! ## The expiry of a timeout (R116) -/

/-- The state in which the expiry of a timeout fails the action: counted, and its waiting ACT frame gone. -/
def timedOut (st : Station) (i : Issued) (s : State) : State :=
  removeAct i.id (s.modStation st (fun x => { x with timeouts := bump x.timeouts }))

theorem base_timedOut (st : Station) (i : Issued) (s : State) : Base st s (timedOut st i s) where
  lane l := by
    show (s.modStation st _).lane l = s.lane l
    rw [State.lane_modStation]
  record := by cases st <;> rfl
  tracker := by simp [timedOut, removeAct]
  setup := by simp [timedOut, removeAct]
  jobs := by simp [timedOut, removeAct]
  nip := by simp [timedOut, removeAct]
  mgmt := by simp [timedOut, removeAct]
  north := by simp [timedOut, removeAct]
  lastId := by simp [timedOut, removeAct]

theorem timedOut_timeouts (st : Station) (i : Issued) (s : State) :
    ((timedOut st i s).station st).timeouts = min ((s.station st).timeouts + 1) 65535 := by cases st <;> rfl

theorem timedOut_south (st : Station) (i : Issued) (s : State) : (timedOut st i s).south =
    { s.south with
      urgent := s.south.urgent.filter
        (fun f => !(decide (f.kind = 0x30#8) && decide (field16 f.payload 0 = i.id.toNat))) } := by
  cases st <;> rfl

theorem timeoutDue_iff (held : (s.station st).outstanding = some i) : timeoutDue st s = decide (i.timeout ≤ 1) := by
  simp only [timeoutDue, held, lastMs]

theorem timeoutExpiry_eq (held : (s.station st).outstanding = some i) :
    timeoutExpiry st s = failOutstanding st i none (timedOut st i s) := by
  simp only [timeoutExpiry, held]
  rfl

theorem exec_timeout (held : (s.station st).outstanding = some i) (last : i.timeout ≤ 1) :
    exec (.actTimeoutExpiry st) s = .next (finish (failOutstanding st i none (timedOut st i s))) := by
  show Host.Outcome.next (finish (takeIf (timeoutDue st s) (timeoutExpiry st) s)) = _
  rw [timeoutDue_iff held, decide_eq_true last]
  exact congrArg (fun u => Host.Outcome.next (finish u)) (timeoutExpiry_eq held)

theorem exec_timeout_early (held : (s.station st).outstanding = some i) (more : 1 < i.timeout) :
    exec (.actTimeoutExpiry st) s = .next (finish s) := by
  show Host.Outcome.next (finish (takeIf (timeoutDue st s) (timeoutExpiry st) s)) = _
  rw [timeoutDue_iff held, decide_eq_false (not_le.mpr more)]
  rfl

/-! ## The obligation -/

/-- What O31 states of LAM. -/
def LamFailed (st : Station) (i : Issued) (s t : State) : Prop :=
  st = .lam → t.nip.commanded = s.nip.commanded ∧ t.nip.decided = s.nip.decided ∧ t.nip.plan = s.nip.plan ∧
    t.nip.zones = s.nip.zones ∧ t.nip.offer = s.nip.offer ∧ t.lastId = s.lastId ∧
    (∀ x, s.nip.last = some x → t.nip.last = some (if x.id = i.id then { x with outcome := .failed } else x))

theorem lamFailed_failure (base : Base st s b) (i : Issued) (code : Option Byte) :
    LamFailed st i s (finish (failOutstanding st i code b)) := by
  rintro rfl
  have ends := endOfEvent_finish (failOutstanding .lam i code b)
  obtain ⟨⟨last, nip, failed⟩, lastId⟩ := failOutstanding_lam_nip base i code
  rw [ends.nip, ends.lastId, nip]
  exact ⟨rfl, rfl, rfl, rfl, rfl, lastId, failed⟩

/-- What O31 states of the knife records and the watches of a failed knife action. -/
theorem knifeFailed_failure (base : Base (trimmerOf l) s b) (i : Issued) (code : Option Byte)
    (ahead : ∀ a, (s.lane l).trimQueue.head? = some a → 0 < toGo (trimmerOf l) a.target s) (t : State)
    (event : t = finish (failOutstanding (trimmerOf l) i code b)) :
    RecordsLost i.act.key (s.lane l) (t.lane l) ∧
      (∀ g ∈ (t.lane l).segs, g.watch.watched = some i.act.key → g.watch.state = .ended) ∧
      ((∃ g ∈ (s.lane l).segs, g.watch.watched = some i.act.key ∧ g.watch.state ≠ .ended) →
        attnHas t.mgmt.flags prioTrimShort = true) ∧
      (∀ g ∈ (s.lane l).segs, g.watch.watched = some i.act.key → g.watch.state ≠ .ended → OpenUnder g.id (s.lane l) →
        ∃ g' ∈ (t.lane l).segs, g'.id = g.id ∧ g'.flags &&& defTrimShort = defTrimShort ∧ g'.watch.state = .ended ∧
          g'.trimShort = max g.trimShort (fullRegion g s)) := by
  have ends := endOfEvent_finish (failOutstanding (trimmerOf l) i code b)
  rw [event, ends.lane, ends.flags]
  exact ⟨knifeFailed_records code base ahead, fun g mem mine => trimFinal_ended (knifeFailed_further code) mem mine,
    fun ⟨g, mem, mine, going⟩ => knifeFailed_attn code base mem mine going,
    fun g mem mine going opened => knifeFailed_watch code base mem mine going opened⟩

/-- What both commands of O31 come to. -/
theorem failure_clauses (base : Base st s b) (i : Issued) (code : Option Byte) (t : State)
    (event : t = finish (failOutstanding st i code b)) :
    (t.station st).mode = .faulted ∧ (t.station st).outstanding = none ∧ (t.station st).timeouts = (b.station st).timeouts ∧
      attnHas t.mgmt.flags prioStationFault = true ∧ t.tracker = s.tracker := by
  have ends := endOfEvent_finish (failOutstanding st i code b)
  obtain ⟨fault, tracker⟩ := failOutstanding_rest base i code
  rw [event, ends.station, failOutstanding_station, ends.flags, ends.tracker]
  exact ⟨rfl, rfl, rfl, fault, tracker⟩

/-- Settles O31: the failed action's final state at its station, its owner, the Trim Planner and the Nip Planner. -/
theorem failureFaultsStation : Obligations.FailureFaultsStation := by
  unfold Obligations.FailureFaultsStation
  intro s st i held lamFailed workFailed knifeFailed
  have lam : ∀ {b} (code), Base st s b → lamFailed (finish (failOutstanding st i code b)) := fun code base =>
    lamFailed_failure base i code
  have work : ∀ {b} (code), Base st s b → workFailed code (finish (failOutstanding st i code b)) := by
    intro b code base l g alone owner
    refine ⟨fun cutter ahead => ?_, fun trimmer ahead => ?_⟩
    · subst cutter
      have final := cutFailed_final code base ahead alone owner
      rw [noteFault_eq] at final
      exact final
    · subst trimmer
      have final := knifeFailed_final code base ahead alone owner
      rw [noteFault_eq] at final
      exact final
  have knife : ∀ {b} (code), Base st s b → knifeFailed (finish (failOutstanding st i code b)) := by
    intro b code base l trimmer ahead
    subst trimmer
    obtain ⟨records, ended, attn, watch⟩ := knifeFailed_failure base i code ahead _ rfl
    refine ⟨records.moves, ?_, ended, attn, watch⟩
    by_cases mine : (s.lane l).pendingKnife = some i.act.key
    · exact if_pos mine ▸ records.mine mine
    · exact if_neg mine ▸ records.other mine
  refine ⟨fun src id code sender busy same => ?_, fun more => ?_, fun last => ?_⟩
  · have base := Base.refl st s
    obtain ⟨mode, none, -, fault, tracker⟩ := failure_clauses base i (some code) _ rfl
    refine ⟨_, exec_fault sender busy held same code, mode, none, fault, tracker, knife _ base, lam _ base, work _ base,
      fun l k lane owner opened g mem id => ?_⟩
    obtain ⟨g', mem', id', flags, less, noted⟩ := failed_owner base (some code) lane owner opened mem id
    refine ⟨g', ?_, id', flags, less, noted⟩
    rw [(endOfEvent_finish (failOutstanding st i (some code) s)).lane]
    exact mem'
  · exact ⟨_, exec_timeout_early held more, endOfEvent_finish s⟩
  · have base := base_timedOut st i s
    have ends := endOfEvent_finish (failOutstanding st i none (timedOut st i s))
    obtain ⟨mode, none, timeouts, fault, tracker⟩ := failure_clauses base i Option.none _ rfl
    refine ⟨_, exec_timeout held last, mode, fun same => ?_, none, timeouts.trans (timedOut_timeouts st i s), fault, tracker,
      knife _ base, lam _ base, work _ base, fun l k lane owner opened g mem id => ?_⟩
    · rw [ends.lastId] at same
      rw [ends.south, failOutstanding_south i Option.none _ (same.trans base.lastId.symm), timedOut_south]
    · obtain ⟨g', mem', id', flags, less, noted⟩ := failed_owner base Option.none lane owner opened mem id
      refine ⟨g', ?_, id', flags, less, noted⟩
      rw [ends.lane]
      exact mem'

end Sys2Proof.Machine
end

section
/-! PROOFS. WRITE STATION and CLEAR STATION (R96, R97, R103, R120). -/

namespace Sys2Proof.Machine

variable {l : Lane} {st : Station} {token : Byte} {body : List Byte} {s t u : State}

/-! ## The station a body names -/

/-- The code of a station in a request body (R95). -/
def stationCode : Station → Nat
  | .lam => 0
  | .trimA => 1
  | .trimB => 2
  | .cutA => 3
  | .cutB => 4

theorem stationOf_code (st : Station) : stationOf (stationCode st) = some st := by cases st <;> rfl

theorem stationOf_undefined : ∀ {n : Nat}, 5 ≤ n → stationOf n = none
  | 0, h | 1, h | 2, h | 3, h | 4, h => absurd h (by decide)
  | _ + 5, _ => rfl

theorem onStation_named (named : byteAt body 0 = stationCode st) (s : State) (k : Station → Reply) : onStation body s k = k st := by
  simp only [onStation, named, stationOf_code]

theorem onStation_bad (bad : 5 ≤ byteAt body 0) (s : State) (k : Station → Reply) : onStation body s k = badField 0 s := by
  simp only [onStation, stationOf_undefined bad]

theorem stationTaken_bodyStation (st : Station) (len : body.length = 46) : StationTaken st body (bodyStation st body) where
  enabled := by simp [bodyStation]
  addr := by
    have inside : 2 < body.length := by omega
    rw [List.getElem?_eq_getElem inside]
    simp [bodyStation, List.getD_eq_getElem?_getD, inside]
  dist := rfl
  latency := rfl
  tol := rfl
  timeout := rfl
  trim trim := by
    obtain rfl | rfl := trim <;> exact ⟨rfl, rfl⟩
  table lam := by
    subst lam
    rfl
  window lam := by
    subst lam
    exact ⟨rfl, rfl⟩

/-! ## The reply to WRITE STATION -/

section Write

variable (len : body.length = 46) (named : byteAt body 0 = stationCode st)
include len

theorem writeStationReply_bad (bad : 5 ≤ byteAt body 0) : writeStationReply body s = badField 0 s := by
  simp only [writeStationReply, sized, if_pos len, onStation_bad bad]

include named

theorem writeStationReply_badField {n : Nat} (fails : firstFailing (stationChecks st body s) = some n) :
    writeStationReply body s = badField n s := by
  simp only [writeStationReply, sized, if_pos len, onStation_named named, validated, fails]

theorem writeStationReply_inUse (valid : firstFailing (stationChecks st body s) = none)
    (used : (s.station st).outstanding ≠ none ∨ queueBusy st s = true) : writeStationReply body s = refuse .inUse s := by
  have held : ((s.station st).outstanding.isSome || queueBusy st s) = true := by
    rw [Bool.or_eq_true, Option.isSome_iff_ne_none]
    exact used
  simp only [writeStationReply, sized, if_pos len, onStation_named named, validated, valid, held, if_true]

theorem writeStationReply_accepts (valid : firstFailing (stationChecks st body s) = none)
    (unused : (s.station st).outstanding = none) (empty : queueBusy st s = false) :
    writeStationReply body s = accept (installStation st (bodyStation st body) s) := by
  simp only [writeStationReply, sized, if_pos len, onStation_named named, validated, valid, unused, empty, Option.isSome_none,
    Bool.or_self, Bool.false_eq_true, if_false]

end Write

/-! ## The record installed (R97) -/

theorem takeRecord_body (st : Station) (body : List Byte) : takeRecord (bodyStation st body) =
    fun x => { x with
      record := some (bodyStation st body)
      mode := if byteAt body 1 = 1 then (if x.mode = .faulted then .faulted else .ready) else .offline } := by
  funext x
  simp [takeRecord, modeAfterWrite, bodyStation]

theorem issueTest_idle (notLam : st ≠ .lam) (empty : queueBusy st s = false) : issueTest st s = s := by
  have cut : ∀ l, (s.lane l).cutQueue = [] → cutTest l s = s := fun l none =>
    cutTest_waits fun a head => by simp [none] at head
  have knife : ∀ l, (s.lane l).trimQueue = [] → trimTest l s = s := fun l none =>
    trimTest_waits fun a head => by simp [none] at head
  cases st <;> simp only [queueBusy, Bool.not_eq_eq_eq_not, Bool.not_false, List.isEmpty_iff] at empty
  · exact absurd rfl notLam
  · exact knife .a empty
  · exact knife .b empty
  · exact cut .a empty
  · exact cut .b empty

theorem installStation_other (notLam : st ≠ .lam) (empty : queueBusy st s = false) (r : StationRecord) :
    installStation st r s = s.modStation st (takeRecord r) := by
  have still : queueBusy st (s.modStation st (takeRecord r)) = false := by
    cases st <;> exact empty
  have idle := issueTest_idle notLam still
  simp only [installStation, if_neg notLam, idle, ite_self]

section Lam

variable (r : StationRecord)

theorem installStation_lam (s : State) : installStation .lam r s = nipChange (s.modStation .lam (takeRecord r)) := rfl

/-- LAM with a new record and an empty zone list: its state, and that nothing is offered or a RELEASE is issued (R97, R131, R134). -/
theorem nipChange_written {w : State} (zones : w.nip.zones = []) :
    (w.lam.mode ≠ .ready → (nipChange w).lam = w.lam) ∧
    (w.nip.commanded = .opened ∨ (w.nip.commanded = .unknown ∧ w.nip.releaseRequest = false) →
      (nipChange w).lam = w.lam ∧ (nipChange w).nip.offer = none) := by
  obtain ⟨begun, planned⟩ := recompute_nip w
  refine ⟨fun out => by rw [nipChange_waits out, recompute_lam], fun still => ?_⟩
  have none : (recompute w).nip.offer = none := by
    rw [planned, zones, planOf_nil]
    obtain opened | ⟨unknown, quiet⟩ := still
    · simp only [offerOf, opened]
      rfl
    · simp only [offerOf, unknown, quiet]
      rfl
  rw [nipChange, lamTest_none none]
  exact ⟨recompute_lam w, none⟩

theorem lamWritten_out {r : StationRecord} (zones : s.nip.zones = []) {m : StationMode}
    (mode : modeAfterWrite r.enabled s.lam.mode = m) (out : m ≠ .ready) :
    (installStation .lam r s).lam.mode = m ∧ (installStation .lam r s).lam.outstanding = s.lam.outstanding := by
  have same : (nipChange (s.modStation .lam (takeRecord r))).lam = (s.modStation .lam (takeRecord r)).lam :=
    (nipChange_written (w := s.modStation .lam (takeRecord r)) zones).1 fun ready => out (mode.symm.trans ready)
  rw [installStation_lam, same]
  exact ⟨mode, rfl⟩

theorem lamWritten_releases {r : StationRecord} (zones : s.nip.zones = []) (enabled : r.enabled = true) (well : s.lam.mode ≠ .faulted)
    (latency : r.latency ≤ 200000) (slow : s.tracker.speed ≤ 256000)
    (wants : s.nip.commanded = .closed ∨ (s.nip.commanded = .unknown ∧ s.nip.releaseRequest = true)) :
    NipReleased (s.modStation .lam (takeRecord r)) (installStation .lam r s) := by
  have record : (recordOr (s.modStation .lam (takeRecord r)).lam) = r := rfl
  refine nipChange_releases ?_ ?_ (toGo_lamPos_slow slow (by rw [record]; exact latency))
  · exact wants.imp (fun closed => ⟨closed, zones⟩) id
  · show modeAfterWrite r.enabled s.lam.mode = .ready
    rw [modeAfterWrite, if_pos enabled, if_neg well]

end Lam

/-- What O44 states of an accepted WRITE STATION. -/
theorem stationWritten (room : 0 < ownRoom s) (len : body.length = 46) (named : byteAt body 0 = stationCode st)
    (holds : ∀ n, StationFieldHolds st body s n) (unused : (s.station st).outstanding = none) (empty : queueBusy st s = false) :
    Answered (installStation st (bodyStation st body) s) (respTo s 0x10#8 token 0 0 [])
      (serve 0x10#8 token (writeStationReply body) s) := by
  refine serve_accepted room (writeStationReply_accepts len named ((stationChecks_fields st body s).1.mpr holds) unused empty) ?_
  unfold installStation
  dsimp only
  split
  · rw [(inside_nipChange _).nodeAddr, State.nodeAddr_modStation]
  · split
    · rw [(inside_issueTest _ _).nodeAddr, State.nodeAddr_modStation]
    · rw [State.nodeAddr_modStation]

theorem installStation_record (st : Station) (r : StationRecord) (s : State) :
    ((installStation st r s).station st).record = some r ∧ (installStation st r s).tracker = s.tracker := by
  have taken : ((s.modStation st (takeRecord r)).station st).record = some r := by rw [State.station_modStation]; rfl
  unfold installStation
  dsimp only
  split
  · exact ⟨((inside_nipChange _).stationRecord st).trans taken, (inside_nipChange _).tracker.trans (State.tracker_modStation ..)⟩
  · split
    · exact ⟨((inside_issueTest st _).stationRecord st).trans taken,
        (inside_issueTest st _).tracker.trans (State.tracker_modStation ..)⟩
    · exact ⟨taken, State.tracker_modStation ..⟩

/-- The first half of O44. -/
theorem writeStation_outcomes (s : State) (token : Byte) (body : List Byte) (room : 0 < ownRoom s) (len : body.length = 46) :
    ∃ t, exec (.writeStation token body) s = .next t ∧
        (5 ≤ byteAt body 0 → Answered s (respTo s 0x10#8 token 2 0 []) t) ∧
        (∀ st, byteAt body 0 = stationCode st →
          (∀ n, FailsFirst (StationFieldHolds st body s) n → Answered s (respTo s 0x10#8 token 2 n []) t) ∧
          ((∀ n, StationFieldHolds st body s n) →
            ((s.station st).outstanding ≠ none ∨ queueBusy st s = true →
              Answered s (respTo s 0x10#8 token 5 0 []) t) ∧
            ((s.station st).outstanding = none → queueBusy st s = false →
              Carries t (respTo s 0x10#8 token 0 0 []) ∧ (t.station st).record = some (bodyStation st body) ∧
              StationTaken st body (bodyStation st body) ∧ t.tracker = s.tracker ∧
              (st = .lam → byteAt body 1 ≠ 1 → t.lam.mode = .offline ∧ t.lam.outstanding = none) ∧
              (st = .lam → byteAt body 1 = 1 → s.lam.mode = .faulted → t.lam.mode = .faulted ∧ t.lam.outstanding = none) ∧
              (st = .lam → byteAt body 1 = 1 → s.lam.mode ≠ .faulted →
                (s.nip.commanded = .opened ∨ (s.nip.commanded = .unknown ∧ s.nip.releaseRequest = false) →
                  t.lam.mode = .ready ∧ t.lam.outstanding = none ∧ t.nip.offer = none) ∧
                (s.nip.commanded = .closed ∨ (s.nip.commanded = .unknown ∧ s.nip.releaseRequest = true) →
                  s.tracker.speed ≤ 256000 →
                  t.lam.mode = .busy ∧ t.nip.commanded = .opened ∧ t.nip.releaseRequest = false ∧
                    ∃ i, t.lam.outstanding = some i ∧ i.act.kind = .release ∧
                      i.act.target = s.tracker.p - pu (field32 body 3))) ∧
              (st ≠ .lam → Answered (s.modStation st (takeRecord (bodyStation st body))) (respTo s 0x10#8 token 0 0 []) t)))) := by
  refine ⟨_, rfl, fun bad => serve_answered room (writeStationReply_bad len bad), fun st named => ⟨fun n fails => ?_, fun holds =>
    ⟨fun used => ?_, fun unused empty => ?_⟩⟩⟩
  · exact serve_answered room (writeStationReply_badField len named (((stationChecks_fields st body s).2 n).mpr fails))
  · exact serve_answered room (writeStationReply_inUse len named ((stationChecks_fields st body s).1.mpr holds) used)
  · have answered := stationWritten (token := token) room len named holds unused empty
    obtain ⟨record, tracker⟩ := installStation_record st (bodyStation st body) s
    refine ⟨answered.carries, by rw [answered.station, record], stationTaken_bodyStation st len, by rw [answered.tracker, tracker],
      fun lam off => ?_, fun lam on faulted => ?_, fun lam on well => ⟨fun quiet => ?_, fun wants slow => ?_⟩, fun other => ?_⟩
    · subst lam
      have zones : s.nip.zones = [] := by simpa [queueBusy] using empty
      have mode : modeAfterWrite (bodyStation .lam body).enabled s.lam.mode = .offline := by simp [modeAfterWrite, bodyStation, off]
      obtain ⟨left, held⟩ := lamWritten_out zones mode (by decide)
      rw [answered.lam]
      exact ⟨left, held.trans unused⟩
    · subst lam
      have zones : s.nip.zones = [] := by simpa [queueBusy] using empty
      have mode : modeAfterWrite (bodyStation .lam body).enabled s.lam.mode = .faulted := by
        simp [modeAfterWrite, bodyStation, on, faulted]
      obtain ⟨left, held⟩ := lamWritten_out zones mode (by decide)
      rw [answered.lam]
      exact ⟨left, held.trans unused⟩
    · subst lam
      have zones : s.nip.zones = [] := by simpa [queueBusy] using empty
      have mode : modeAfterWrite (bodyStation .lam body).enabled s.lam.mode = .ready := by
        simp [modeAfterWrite, bodyStation, on, well]
      obtain ⟨same, none⟩ := (nipChange_written (w := s.modStation .lam (takeRecord (bodyStation .lam body))) zones).2 quiet
      rw [answered.lam, answered.nip, installStation_lam, same]
      exact ⟨mode, unused, none⟩
    · subst lam
      have zones : s.nip.zones = [] := by simpa [queueBusy] using empty
      have released := lamWritten_releases (r := bodyStation .lam body) zones (by simp [bodyStation, on]) well (holds 4) slow wants
      rw [answered.lam, answered.nip]
      exact ⟨released.busy, released.commanded, released.request, released.issued⟩
    · rw [installStation_other other empty] at answered
      exact answered

/-! ## CLEAR STATION (R120) -/

/-- The station READY, before its test. -/
def cleared (st : Station) (s : State) : State := s.modStation st (fun x => { x with mode := .ready })

section Clear

theorem clearStationReply_bad {code : Byte} (bad : 5 ≤ code.toNat) : clearStationReply [code] s = badField 0 s := by
  have undefined : 5 ≤ byteAt [code] 0 := bad
  simp only [clearStationReply, sized, List.length_singleton, if_true, onStation_bad undefined]

theorem clearStationReply_named {code : Byte} (named : code.toNat = stationCode st) :
    clearStationReply [code] s = accept (clearStation st s) := by
  have byte : byteAt [code] 0 = stationCode st := named
  simp only [clearStationReply, sized, List.length_singleton, if_true, onStation_named byte]

theorem clearStation_well (well : (s.station st).mode ≠ .faulted) : clearStation st s = s := if_neg well

theorem clearStation_faulted (faulted : (s.station st).mode = .faulted) : clearStation st s = issueTest st (cleared st s) :=
  if_pos faulted

theorem cleared_station (st : Station) (s : State) : (cleared st s).station st = { s.station st with mode := .ready } := by
  rw [cleared, State.station_modStation]

theorem cleared_lane (st : Station) (s : State) (l : Lane) : (cleared st s).lane l = s.lane l := by
  rw [cleared, State.lane_modStation]

theorem cleared_tracker (st : Station) (s : State) : (cleared st s).tracker = s.tracker := by
  rw [cleared, State.tracker_modStation]

theorem cleared_setup (st : Station) (s : State) : (cleared st s).setup = s.setup := by
  rw [cleared, State.setup_modStation]

theorem cleared_lastId (st : Station) (s : State) : (cleared st s).lastId = s.lastId := by
  rw [cleared, State.lastId_modStation]

theorem cleared_toGo (st : Station) (s : State) (q : Word32) : toGo st q (cleared st s) = toGo st q s :=
  toGo_congr (by rw [cleared_station]) (cleared_tracker st s) q

/-- A request's event and a command's event that come to the same state, but for the RESP (R196, R208). -/
theorem Answered.beside_finish {v t : State} {f : Frame} (h : Answered v f t) : t =
    { finish v with
      north := t.north
      mgmt := { (finish v).mgmt with pendingAttn := t.mgmt.pendingAttn, reports := t.mgmt.reports } } := by
  have ends := endOfEvent_finish v
  have levels : pinLevels t = pinLevels (finish v) := by
    refine pinLevels_congr _ _ ?_ ?_ (fun x => ?_) ?_ ?_ ?_
    · rw [h.setup, ends.setup]
    · rw [h.tracker, ends.tracker]
    · rw [h.station, ends.station]
    · rw [h.nip, ends.nip]
    · rw [h.flags, ends.flags]
    · rw [EndOfEvent.mask h, ends.mask]
      rfl
  have e := h.rest
  have e' := ends.rest
  rw [levels] at e
  generalize finish v = w at e e' ⊢
  refine e.trans ?_
  conv_rhs => rw [e']
  rfl

section Issued

variable (faulted : (s.station st).mode = .faulted) (answered : Answered (issueTest st (cleared st s)) (respTo s 0x30#8 token 0 0 []) t)

/-- What O44 calls issued: the action taken as ACTION_ISSUE at the READY station takes it. -/
def IssuedAsCommand (st : Station) (s t : State) : Prop :=
  (t.station st).mode = .busy ∧ t.lastId = nextId s.lastId ∧
    ∃ u, exec (.actionIssue st) (cleared st s) = .next u ∧
      t = { u with
            north := t.north
            mgmt := { u.mgmt with pendingAttn := t.mgmt.pendingAttn, reports := t.mgmt.reports } }

theorem Answered.lastId {v t : State} {f : Frame} (h : Answered v f t) : t.lastId = v.lastId := (EndOfEvent.lastId h).trans rfl

/-- A head issued by the test after CLEAR STATION. -/
theorem issuedAsCommand {v : State} {f : Frame} {a : Action} (answered : Answered v f t)
    (event : exec (.actionIssue st) (cleared st s) = .next (finish v)) (taken : HeadTaken st l a (cleared st s) v) :
    IssuedAsCommand st s t ∧ ∃ i, (t.station st).outstanding = some i ∧ i.act = a ∧ i.id = t.lastId ∧ i.orphan = false := by
  obtain ⟨timeout, station⟩ := taken.station
  have lastId := taken.lastId
  rw [cleared_lastId] at lastId station
  refine ⟨⟨?_, ?_, _, event, answered.beside_finish⟩, ?_⟩
  · rw [answered.station, station]
  · rw [answered.lastId, lastId]
  · rw [answered.station, answered.lastId, station, lastId]
    exact ⟨_, rfl, rfl, rfl, rfl⟩

end Issued

section Heads

variable {a : Action} {rest : List Action} {f : Frame}

/-- The due cut of a cleared cutter, within its tolerance. -/
theorem clearedCut_issued (queue : (s.lane l).cutQueue = a :: rest)
    (due : toGo (cutterOf l) a.target s * 256000 ≤ ((s.tracker.speed * s.setup.horizon : Nat) : Int))
    (within : -toGo (cutterOf l) a.target s ≤ ((recordOr (s.station (cutterOf l))).tol : Int))
    (answered : Answered (issueTest (cutterOf l) (cleared (cutterOf l) s)) f t) :
    IssuedAsCommand (cutterOf l) s t ∧ (t.lane l).cutQueue = rest ∧
      ∃ i, (t.station (cutterOf l)).outstanding = some i ∧ i.act = a ∧ i.id = t.lastId ∧ i.orphan = false := by
  have queue' : ((cleared (cutterOf l) s).lane l).cutQueue = a :: rest := by rw [cleared_lane]; exact queue
  have fate : cutFate l a (cleared (cutterOf l) s) = .issued := by
    refine cutFate_issues (by rw [cleared_station]) ?_ ?_
    · rw [cleared_toGo, cleared_tracker, cleared_setup]
      exact due
    · rw [cleared_toGo, cleared_station]
      exact within
  have tested : issueTest (cutterOf l) (cleared (cutterOf l) s) = issueCut l a (cleared (cutterOf l) s) := by
    rw [← cutTest_issues queue' fate]
    cases l <;> rfl
  rw [tested] at answered
  obtain ⟨issued, held⟩ := issuedAsCommand answered (exec_issueCut queue' fate) (headTaken_cut l a _)
  refine ⟨issued, ?_, held⟩
  rw [answered.lane]
  exact issueCut_queue queue'

/-- The due knife action of a cleared trim station. -/
theorem clearedKnife_issued (queue : (s.lane l).trimQueue = a :: rest)
    (due : toGo (trimmerOf l) a.target s * 256000 ≤ ((s.tracker.speed * s.setup.horizon : Nat) : Int))
    (answered : Answered (issueTest (trimmerOf l) (cleared (trimmerOf l) s)) f t) :
    IssuedAsCommand (trimmerOf l) s t ∧ (t.lane l).trimQueue = rest ∧
      ∃ i, (t.station (trimmerOf l)).outstanding = some i ∧ i.act = a ∧ i.id = t.lastId ∧ i.orphan = false := by
  have queue' : ((cleared (trimmerOf l) s).lane l).trimQueue = a :: rest := by rw [cleared_lane]; exact queue
  have fate : trimFate l a (cleared (trimmerOf l) s) = .issued := by
    refine trimFate_issues (by rw [cleared_station]) ?_
    rw [cleared_toGo, cleared_tracker, cleared_setup]
    exact due
  have tested : issueTest (trimmerOf l) (cleared (trimmerOf l) s) = issueKnife l a (cleared (trimmerOf l) s) := by
    rw [← trimTest_issues queue' fate]
    cases l <;> rfl
  rw [tested] at answered
  obtain ⟨issued, held⟩ := issuedAsCommand answered (exec_issueKnife queue' fate) (headTaken_knife l a _)
  refine ⟨issued, ?_, held⟩
  rw [answered.lane]
  exact issueKnife_queue queue'

/-- The cutter's test at a head that is skipped goes on with the rest. -/
theorem cutTest_skips (queue : (s.lane l).cutQueue = a :: rest) (fate : cutFate l a s = .skipped) :
    cutTest l s = cutTest l (skipCut l a s) := by
  have left : ((skipCut l a s).lane l).cutQueue = rest := by
    rw [skipCut_eq]
    exact cutGone_queue (by decide) queue
  unfold cutTest
  rw [left, queue]
  simp only [List.length_cons, cutTestN, queue, fate]

/-- The late cut of a cleared cutter. -/
theorem clearedCut_skipped (queue : (s.lane l).cutQueue = a :: rest)
    (late : ((recordOr (s.station (cutterOf l))).tol : Int) < -toGo (cutterOf l) a.target s)
    (answered : Answered (issueTest (cutterOf l) (cleared (cutterOf l) s)) f t) :
    attnHas t.mgmt.flags prioCutMissed = true ∧ (t.lane l).cutQueue <:+ rest ∧
      ((∀ b, rest.head? = some b →
          ¬toGo (cutterOf l) b.target s * 256000 ≤ ((s.tracker.speed * s.setup.horizon : Nat) : Int)) →
        (t.station (cutterOf l)).mode = .ready ∧ (t.lane l).cutQueue = rest) := by
  have queue' : ((cleared (cutterOf l) s).lane l).cutQueue = a :: rest := by rw [cleared_lane]; exact queue
  have fate : cutFate l a (cleared (cutterOf l) s) = .skipped := by
    refine cutFate_late (.inl (by rw [cleared_station])) ?_
    rw [cleared_toGo, cleared_station]
    exact late
  have plain : defCutMissed &&& registeredFlags = 0#12 := by decide
  have tested : issueTest (cutterOf l) (cleared (cutterOf l) s) =
      cutTest l (mapFinal l a .skipped (cutFlagged l a prioCutMissed defCutMissed (cleared (cutterOf l) s))) := by
    rw [← skipCut_eq, ← cutTest_skips queue' fate]
    cases l <;> rfl
  rw [tested] at answered
  obtain ⟨suffix, flag, -⟩ := cutLeft_rest (fin := .skipped) plain (prio := prioCutMissed) (by decide) (by decide) queue' rfl
  have ends := endOfEvent_finish
    (cutTest l (mapFinal l a .skipped (cutFlagged l a prioCutMissed defCutMissed (cleared (cutterOf l) s))))
  rw [ends.lane] at suffix
  rw [ends.flags] at flag
  rw [answered.flags, answered.lane, answered.station]
  refine ⟨flag, suffix, fun later => ?_⟩
  have still := cutGone_waits (fin := .skipped) (prio := prioCutMissed) plain queue' fun b head => by
    refine cutFate_early (by rw [cleared_station]) ?_
    rw [NotYetDue, cleared_toGo, cleared_tracker, cleared_setup]
    exact not_le.mp (later b head)
  rw [still, cutGone_station plain (cutter_ne_lam l), cleared_station, cutGone_queue plain queue']
  exact ⟨rfl, rfl⟩

/-- LAM's due offer when LAM is cleared. -/
theorem clearedLam_issued {o : Offer} (offered : s.nip.offer = some o)
    (due : toGo .lam o.target s * 256000 ≤ ((s.tracker.speed * s.setup.horizon : Nat) : Int))
    (answered : Answered (issueTest .lam (cleared .lam s)) f t) :
    IssuedAsCommand .lam s t ∧ t.nip.commanded = commandedBy o.kind ∧
      t.nip.last = some { kind := o.kind, target := o.target, id := t.lastId, outcome := .pending } ∧
      ∃ i, t.lam.outstanding = some i ∧ i.act.target = o.target ∧ i.id = t.lastId := by
  have ready : (cleared .lam s).lam.mode = .ready := rfl
  have due' : toGo .lam o.target (cleared .lam s) * 256000 ≤
      (((cleared .lam s).tracker.speed * (cleared .lam s).setup.horizon : Nat) : Int) := by
    rw [cleared_toGo, cleared_tracker, cleared_setup]
    exact due
  have offered' : (cleared .lam s).nip.offer = some o := offered
  have tested : issueTest .lam (cleared .lam s) = issueLam o (cleared .lam s) := by
    have due'' := (lamReady_iff o (cleared .lam s)).mpr ⟨ready, isDue_iff.mpr due'⟩
    show lamTest (cleared .lam s) = _
    rw [lamTest_some offered', if_pos due'']
  rw [tested] at answered
  obtain ⟨begun, nip⟩ := issueLam_nip o (cleared .lam s)
  obtain ⟨lastId, -⟩ := issueLam_lastId o (cleared .lam s)
  have lam := issueLam_lam o (cleared .lam s)
  rw [cleared_lastId] at lastId nip lam
  refine ⟨⟨?_, ?_, _, exec_issueLam offered' ready due', answered.beside_finish⟩, ?_, ?_, ?_⟩
  · rw [answered.station]
    exact congrArg StationState.mode lam
  · rw [answered.lastId, lastId]
  · rw [answered.nip, nip]
    rfl
  · rw [answered.nip, answered.lastId, nip, lastId]
    rfl
  · rw [answered.lam, answered.lastId, lam, lastId]
    exact ⟨_, rfl, rfl, rfl⟩

end Heads

theorem issueTest_ready (st : Station) (s : State) : ((issueTest st (cleared st s)).station st).mode ≠ .faulted := by
  have tested : Aside (fun k => k = .station st) (cleared st s) (issueTest st (cleared st s)) := aside_issueTest st _ rfl
  obtain same | issued := tested.held st
  · rw [same, cleared_station]
    exact nofun
  · rw [issued.busy]
    exact nofun

/-- A cleared station whose test finds nothing due. -/
theorem issueTest_waits
    (cuts : ∀ l a, st = cutterOf l → (s.lane l).cutQueue.head? = some a →
      ¬toGo st a.target s * 256000 ≤ ((s.tracker.speed * s.setup.horizon : Nat) : Int))
    (knives : ∀ l a, st = trimmerOf l → (s.lane l).trimQueue.head? = some a →
      ¬toGo st a.target s * 256000 ≤ ((s.tracker.speed * s.setup.horizon : Nat) : Int))
    (lam : st = .lam → ∀ o, s.nip.offer = some o →
      ¬toGo st o.target s * 256000 ≤ ((s.tracker.speed * s.setup.horizon : Nat) : Int)) :
    issueTest st (cleared st s) = cleared st s := by
  obtain rfl | ⟨l, rfl | rfl⟩ := station_cases st
  · refine lamTest_waits fun o offered => ?_
    have later := lam rfl o offered
    have due : isDue (toGo .lam o.target (cleared .lam s)) (cleared .lam s).tracker.speed (cleared .lam s).setup.horizon = false := by
      rw [isDue_eq_false, cleared_toGo, cleared_tracker, cleared_setup]
      exact not_le.mp later
    rw [lamReady, due, Bool.and_false]
  · have waits : cutTest l (cleared (cutterOf l) s) = cleared (cutterOf l) s := by
      refine cutTest_waits fun a head => cutFate_early (by rw [cleared_station]) ?_
      rw [cleared_lane] at head
      rw [NotYetDue, cleared_toGo, cleared_tracker, cleared_setup]
      exact not_le.mp (cuts l a rfl head)
    refine .trans ?_ waits
    cases l <;> rfl
  · have waits : trimTest l (cleared (trimmerOf l) s) = cleared (trimmerOf l) s := by
      refine trimTest_waits fun a head => trimFate_early (by rw [cleared_station]) ?_
      rw [cleared_lane] at head
      rw [NotYetDue, cleared_toGo, cleared_tracker, cleared_setup]
      exact not_le.mp (knives l a rfl head)
    refine .trans ?_ waits
    cases l <;> rfl

end Clear

/-- Settles O44: the checks and the record of a WRITE STATION; the test of a station that CLEAR STATION makes READY. -/
theorem stationWrittenAndCleared : Obligations.StationWrittenAndCleared := by
  unfold Obligations.StationWrittenAndCleared
  refine ⟨fun s token body room len => ?_, fun s token code room => ?_⟩
  · obtain ⟨t, event, bad, taken⟩ := writeStation_outcomes s token body room len
    refine ⟨t, event, bad, fun st named => ?_⟩
    obtain ⟨refused, accepted⟩ := taken st (named.trans (by cases st <;> rfl))
    refine ⟨refused, fun holds => ⟨(accepted holds).1, fun unused empty => ?_⟩⟩
    obtain ⟨carries, record, written, tracker, off, faulted, on, other⟩ := (accepted holds).2 unused empty
    refine ⟨carries, record, written, tracker, off, faulted, on, fun notLam => ?_⟩
    rw [← takeRecord_body]
    exact other notLam
  · refine ⟨_, rfl, fun bad => serve_answered room (clearStationReply_bad bad), fun st named => ?_⟩
    have reply : clearStationReply [code] s = accept (clearStation st s) :=
      clearStationReply_named (named.trans (by cases st <;> rfl))
    have answered := serve_accepted (code := 0x30#8) (token := token) room reply (inside_clearStation st s).nodeAddr
    have answered' : Answered (clearStation st s) (respTo s 0x30#8 token 0 0 []) (serve 0x30#8 token (clearStationReply [code]) s) :=
      answered
    refine ⟨answered.carries, fun well => ?_, fun faulted => ?_⟩
    · rw [clearStation_well well] at answered'
      exact answered'
    · have inside := inside_clearStation st s
      have flags : (serve 0x30#8 token (clearStationReply [code]) s).mgmt.flags = (clearStation st s).mgmt.flags := answered'.flags
      rw [clearStation_faulted faulted] at answered'
      refine ⟨?_, ?_, ?_, fun cuts knives lam => ?_, fun l a rest cutter queue due => ⟨fun within => ?_, fun late => ?_⟩,
        fun l a rest trimmer queue due => ?_, fun o lam offered due => ?_⟩
      · exact answered'.station st ▸ issueTest_ready st s
      · exact flags ▸ inside.flags
      · exact answered.tracker.trans inside.tracker
      · rw [issueTest_waits cuts knives lam] at answered'
        exact answered'
      · subst cutter
        exact clearedCut_issued queue due within answered'
      · subst cutter
        exact clearedCut_skipped queue late answered'
      · subst trimmer
        exact clearedKnife_issued queue due answered'
      · subst lam
        obtain ⟨issued, commanded, last, held⟩ := clearedLam_issued offered due answered'
        exact ⟨issued, commanded.trans (by cases o.kind <;> rfl), last, held⟩

end Sys2Proof.Machine
end

section
/-! PROOFS. The tick of the internal timebase: each timer takes it once, and no other timer's part undoes it (R30, R31, R116, R141). -/

namespace Sys2Proof.Machine

variable {st : Station} {s t u : State}

/-! ## A list taken in a free order -/

theorem arrange_perm {α : Type} [DecidableEq α] : ∀ prefer todo : List α, (arrange prefer todo).Perm todo
  | [], todo => .refl todo
  | x :: prefer, todo => by
    unfold arrange
    split
    next mem => exact ((arrange_perm prefer (todo.erase x)).cons x).trans (List.perm_cons_erase mem).symm
    · exact arrange_perm prefer todo

/-- The part of a block in a fold over blocks that each come once: what comes before it, and what comes after. -/
theorem foldl_split {α : Type} {f : State → α → State} {R : State → State → Prop} (refl : ∀ s, R s s)
    (trans : ∀ {s t u}, R s t → R t u → R s u) {x : α} (step : ∀ y s, y ≠ x → R s (f s y)) {xs : List α} (once : xs.Nodup)
    (mem : x ∈ xs) (s : State) : ∃ v, R s v ∧ R (f v x) (xs.foldl f s) := by
  have others : ∀ (ys : List α) (s : State), x ∉ ys → R s (ys.foldl f s) := by
    intro ys
    induction ys with
    | nil => exact fun s _ => refl s
    | cons y ys ih =>
      intro s out
      have apart : y ≠ x := fun same => out (same ▸ List.mem_cons_self)
      exact trans (step y s apart) (ih _ fun mem => out (List.mem_cons_of_mem y mem))
  obtain ⟨before, after, rfl⟩ := List.append_of_mem mem
  have apart := List.nodup_append.mp once
  obtain ⟨-, tail, disjoint⟩ := apart
  refine ⟨before.foldl f s, others before s fun mem => disjoint x mem x List.mem_cons_self rfl, ?_⟩
  rw [List.foldl_append, List.foldl_cons]
  exact others after _ (List.nodup_cons.mp tail).1

/-! ## A station that is not READY -/

/-- `y` is `x` later: where `x` was not READY, its state, its timeouts and its action's id and timeout are as they were. -/
def StationHeld (x y : StationState) : Prop :=
  x.mode ≠ .ready → y.mode = x.mode ∧ y.timeouts = x.timeouts ∧
    y.outstanding.map (fun i => (i.id, i.timeout)) = x.outstanding.map (fun i => (i.id, i.timeout))

theorem StationHeld.refl (x : StationState) : StationHeld x x := fun _ => ⟨rfl, rfl, rfl⟩

theorem StationHeld.trans {x y z : StationState} (h : StationHeld x y) (k : StationHeld y z) : StationHeld x z := by
  intro out
  obtain ⟨mode, timeouts, held⟩ := h out
  obtain ⟨mode', timeouts', held'⟩ := k (mode ▸ out)
  exact ⟨mode'.trans mode, timeouts'.trans timeouts, held'.trans held⟩

theorem stationHeld_eq {x y : StationState} (h : y = x) : StationHeld x y := h ▸ .refl x

theorem Aside.stationHeld {own : Taker → Prop} (h : Aside own s t) (st : Station) : StationHeld (s.station st) (t.station st) :=
  fun out => (h.unready out) ▸ ⟨rfl, rfl, rfl⟩

theorem stationHeld_orphan (id : Nat) (x : StationState) : StationHeld x (orphan id x) := by
  unfold orphan
  split
  next held =>
    split
    · exact fun _ => ⟨rfl, rfl, by rw [held]; rfl⟩
    · exact .refl x
  · exact .refl x

theorem stationHeld_spoil (l : Lane) (c : Cause) (id : Nat) (s : State) (st : Station) :
    StationHeld (s.station st) ((spoil l c id s).station st) := by
  by_cases mine : st = cutterOf l ∨ st = trimmerOf l
  · rw [spoil_station l c id s mine]
    exact stationHeld_orphan id _
  · obtain ⟨cut, trim⟩ := not_or.mp mine
    exact stationHeld_eq (spoil_station_ne l c id s cut trim)

theorem stationHeld_spoilAll (l : Lane) (c : Cause) (st : Station) :
    ∀ (ids : List Nat) (s : State), StationHeld (s.station st) ((spoilAll l c ids s).station st)
  | [], s => .refl _
  | id :: ids, s => by
    rw [spoilAll_cons]
    exact (stationHeld_spoil l c id s st).trans (stationHeld_spoilAll l c st ids _)

theorem stationHeld_spoilLane (l : Lane) (c : Cause) (s : State) (st : Station) :
    StationHeld (s.station st) ((spoilLane l c s).station st) := by
  rw [spoilLane_eq]
  exact stationHeld_spoilAll l c st _ s

theorem stationHeld_spoilBoth (c : Cause) (s : State) (st : Station) :
    StationHeld (s.station st) ((spoilBoth c s).station st) := by
  simp only [spoilBoth, disableLane, State.station_modLane]
  exact (stationHeld_spoilLane .a c s st).trans (stationHeld_spoilLane .b c _ st)

theorem stationHeld_webBreak (s : State) (st : Station) : StationHeld (s.station st) ((webBreak s).station st) := by
  have spoiled : StationHeld (s.station st)
      ((spoilBoth .webBreak { s with web := { s.web with broken := true, absence := 0 } }).station st) :=
    (stationHeld_eq (by cases st <;> rfl)).trans (stationHeld_spoilBoth .webBreak _ st)
  unfold webBreak
  rw [raise_station]
  refine spoiled.trans (.trans ?_ ((nipWork_nipChange _).aside.stationHeld (own := fun _ => True) st))
  exact stationHeld_eq (by cases st <;> rfl)

theorem stationHeld_takeAbsence (d : Nat) (s : State) (st : Station) : StationHeld (s.station st) ((takeAbsence d s).station st) := by
  unfold takeAbsence
  split
  · exact .refl _
  · dsimp only
    split
    · exact (stationHeld_eq (by cases st <;> rfl)).trans (stationHeld_webBreak _ st)
    · exact stationHeld_eq (by cases st <;> rfl)

theorem stationHeld_enterLost (s : State) (st : Station) : StationHeld (s.station st) ((enterLost s).station st) := by
  unfold enterLost
  rw [raise_station]
  refine .trans ?_ ((nipWork_nipChangeIf _ _).aside.stationHeld (own := fun _ => True) st)
  exact (stationHeld_eq (by cases st <;> rfl)).trans (stationHeld_spoilBoth .lost _ st)

/-! ## What a tick leaves of the timers it does not run -/

/-- What holds from `s` to `t` where the timers of `own` alone may have taken a tick. -/
structure TickBeside (own : TickTaker → Prop) (s t : State) : Prop where
  flags : s.mgmt.flags ||| t.mgmt.flags = t.mgmt.flags
  setup : t.setup = s.setup
  pending : t.pending = s.pending
  temp : t.nip.temp = s.nip.temp
  tracker : ¬own .tracker → t.tracker = s.tracker
  validity : ¬own .validity → t.nip.validity = s.nip.validity ∧ t.nip.tempValid = s.nip.tempValid
  station : ∀ st, ¬own (.station st) → StationHeld (s.station st) (t.station st)

section Beside

variable {own : TickTaker → Prop}

theorem TickBeside.refl (s : State) : TickBeside own s s :=
  ⟨BitVec.or_self, rfl, rfl, rfl, fun _ => rfl, fun _ => ⟨rfl, rfl⟩, fun _ _ => .refl _⟩

theorem TickBeside.trans (h : TickBeside own s t) (k : TickBeside own t u) : TickBeside own s u where
  flags := by rw [← k.flags, ← BitVec.or_assoc, h.flags]
  setup := k.setup.trans h.setup
  pending := k.pending.trans h.pending
  temp := k.temp.trans h.temp
  tracker o := (k.tracker o).trans (h.tracker o)
  validity o := ⟨(k.validity o).1.trans (h.validity o).1, (k.validity o).2.trans (h.validity o).2⟩
  station st o := (h.station st o).trans (k.station st o)

theorem TickBeside.mono {own' : TickTaker → Prop} (h : TickBeside own s t) (le : ∀ k, own k → own' k) : TickBeside own' s t :=
  { h with
    tracker := fun o => h.tracker fun m => o (le _ m)
    validity := fun o => h.validity fun m => o (le _ m)
    station := fun st o => h.station st fun m => o (le _ m) }

theorem Inside.tickBeside (h : Inside s t) (station : ∀ st, ¬own (.station st) → StationHeld (s.station st) (t.station st)) :
    TickBeside own s t :=
  ⟨h.flags, h.setup, h.pending, h.temp, fun _ => h.tracker, fun _ => ⟨h.validity, h.tempValid⟩, station⟩

theorem tickBeside_finish (s : State) : TickBeside own s (finish s) := by
  have ends := endOfEvent_finish s
  refine ⟨?_, ends.setup, ends.pending, by rw [ends.nip], fun _ => ends.tracker, fun _ => by rw [ends.nip]; exact ⟨rfl, rfl⟩,
    fun st _ => stationHeld_eq (ends.station st)⟩
  rw [ends.flags, BitVec.or_self]

theorem tickBeside_tracker (x : Tracker) (mine : own .tracker) (s : State) : TickBeside own s { s with tracker := x } :=
  ⟨BitVec.or_self, rfl, rfl, rfl, fun o => absurd mine o, fun _ => ⟨rfl, rfl⟩, fun st _ => stationHeld_eq (by cases st <;> rfl)⟩

theorem tickBeside_raise (p : Nat) (s : State) : TickBeside own s (raise p s) :=
  (inside_raise p s).tickBeside fun _ _ => stationHeld_eq (raise_station ..)

/-! ## The position's part -/

theorem tickBeside_runTaker (d : Nat) (k : Taker) (s : State) : TickBeside own s (runTaker d k s) := by
  refine (inside_runTaker d k s).tickBeside fun st _ => ?_
  have aside : ∀ {t}, Aside (fun _ => True) s t → StationHeld (s.station st) (t.station st) := fun h => h.stationHeld st
  cases k with
  | marks l => exact aside (aside_expireWindows l s trivial)
  | trimShort l => exact aside (aside_testShort l s)
  | station x => exact aside (aside_issueTest x s trivial)
  | zones => exact aside (aside_passZones s)
  | absence => exact stationHeld_takeAbsence d s st
  | splices => exact stationHeld_eq (by cases st <;> rfl)

theorem tickBeside_takeAdvance (d : Nat) (s : State) : TickBeside own s (takeAdvance d s) := by
  have folded : ∀ (ks : List Taker) (s : State), TickBeside own s (ks.foldl (fun acc k => runTaker d k acc) s) := by
    intro ks
    induction ks with
    | nil => exact TickBeside.refl
    | cons k ks ih => exact fun s => (tickBeside_runTaker d k s).trans (ih _)
  have turned : TickBeside own s s.dropTurn := (inside_dropTurn s).tickBeside fun st _ => stationHeld_eq (by cases st <;> rfl)
  exact turned.trans (folded _ _)

theorem tickBeside_enterLost (mine : own .tracker) (s : State) : TickBeside own s (enterLost s) := by
  have rest : Inside { s with tracker := lostTracker s.tracker } (enterLost s) :=
    (inside_lostMaps s).trans (inside_raise _ _)
  refine ⟨rest.flags, rest.setup, rest.pending, rest.temp, fun o => absurd mine o, fun _ => ⟨rest.validity, rest.tempValid⟩,
    fun st _ => stationHeld_enterLost s st⟩

theorem tickBeside_movePos (mine : own .tracker) (p : Word32) (s : State) : TickBeside own s (movePos p s) := by
  have moved := tickBeside_tracker { s.tracker with p := p } mine s
  unfold movePos
  dsimp only
  split
  · exact moved
  · exact moved.trans (tickBeside_takeAdvance _ _)

theorem tickBeside_position (mine : own .tracker) (atOnce : Bool) (s : State) : TickBeside own s (tickPosition atOnce s) := by
  unfold tickPosition
  split
  next n timer =>
    split
    · rw [sampleExpiry_running timer]
      exact (tickBeside_tracker _ mine s).trans (tickBeside_raise _ _)
    · exact tickBeside_tracker _ mine s
  · unfold estimateTick
    split
    · dsimp only
      split
      · exact (tickBeside_tracker _ mine s).trans (tickBeside_enterLost mine _)
      · split
        · exact (tickBeside_tracker _ mine s).trans (tickBeside_enterLost mine _)
        · exact (tickBeside_tracker _ mine s).trans (tickBeside_movePos mine _ _)
    · exact .refl s

/-! ## A station's part -/

theorem timedOut_station_ne {st st' : Station} (other : st' ≠ st) (i : Issued) (s : State) :
    (timedOut st i s).station st' = s.station st' := by
  refine Eq.trans ?_ (State.station_modStation_ne s st st' (fun x => { x with timeouts := bump x.timeouts }) other)
  cases st' <;> rfl

theorem aside_handOn (st : Station) (i : Issued) (done : Bool) (s : State) : Aside (fun _ => True) s (handOn st i done s) := by
  cases st with
  | lam =>
    obtain ⟨last, e⟩ := nipFinal_rest i.id done s
    show Aside _ s (nipFinal i.id done s)
    rw [e]
    exact aside_nip _ s fun _ mem => mem
  | trimA => exact aside_knifeFinal .a _ _ s trivial
  | trimB => exact aside_knifeFinal .b _ _ s trivial
  | cutA => exact aside_mapFinal .a _ _ s
  | cutB => exact aside_mapFinal .b _ _ s

theorem tickBeside_failure {st : Station} (mine : own (.station st)) {i : Issued} (held : (s.station st).outstanding = some i) :
    TickBeside own s (timeoutExpiry st s) := by
  refine (inside_timeoutExpiry st s).tickBeside fun st' other => ?_
  have apart : st' ≠ st := fun same => other (same ▸ mine)
  rw [timeoutExpiry_eq held, failOutstanding_eq]
  have failed : StationHeld (s.station st') ((failedAt st i.act none (timedOut st i s)).station st') :=
    stationHeld_eq ((failedAt_station_ne i.act apart none _).trans (timedOut_station_ne apart i s))
  have handed : Aside (fun _ => True) (failedAt st i.act none (timedOut st i s))
      (handOn st i false (failedAt st i.act none (timedOut st i s))) := aside_handOn st i false _
  have tested : Aside (fun _ => True) (handOn st i false (failedAt st i.act none (timedOut st i s)))
      (issueTest st (handOn st i false (failedAt st i.act none (timedOut st i s)))) := aside_issueTest st _ trivial
  exact failed.trans ((handed.trans tested).stationHeld st')

theorem tickBeside_station {st : Station} (mine : own (.station st)) (s : State) : TickBeside own s (tickStation st s) := by
  unfold tickStation
  split
  next i held =>
    split
    · exact tickBeside_failure mine held
    · refine (inside_modStation st _ s rfl).tickBeside fun st' other => stationHeld_eq ?_
      exact State.station_modStation_ne _ _ _ _ fun same => other (same ▸ mine)
  · exact .refl s

/-! ## The validity timer's part -/

theorem tickBeside_nip (n : Nip) (mine : own .validity) (temp : n.temp = s.nip.temp) : TickBeside own s { s with nip := n } :=
  ⟨BitVec.or_self, rfl, rfl, temp, fun _ => rfl, fun o => absurd mine o, fun st _ => stationHeld_eq (by cases st <;> rfl)⟩

theorem tickBeside_validity (mine : own .validity) (s : State) : TickBeside own s (tickValidity s) := by
  unfold tickValidity
  split
  next n timer =>
    split
    · simp only [validityExpiry, timer]
      refine (tickBeside_nip { s.nip with tempValid := false, validity := none } mine rfl).trans
        ((inside_closedTemp _).tickBeside fun st _ => ?_)
      exact (nipWork_closedTemp _).aside.stationHeld (own := fun _ => True) st
    · exact tickBeside_nip _ mine rfl
  · exact .refl s

/-! ## A tick of one timer, and of them all -/

theorem tickBeside_runTick (atOnce : Bool) (k : TickTaker) (mine : own k) (s : State) : TickBeside own s (runTick atOnce k s) := by
  cases k with
  | tracker => exact (tickBeside_position mine atOnce s).trans (tickBeside_finish _)
  | station st => exact (tickBeside_station mine s).trans (tickBeside_finish _)
  | validity => exact (tickBeside_validity mine s).trans (tickBeside_finish _)

/-- A timer's part of a tick, and what the other timers do before and after it. -/
theorem tick_split (k : TickTaker) (s : State) : ∃ v, TickBeside (· ≠ k) s v ∧
    TickBeside (· ≠ k) (runTick s.turn.expiryAtOnce k v) (tick s) := by
  have perm := arrange_perm s.turn.ticks allTicks
  have once : (arrange s.turn.ticks allTicks).Nodup := perm.nodup_iff.mpr (by decide)
  have mem : k ∈ arrange s.turn.ticks allTicks := perm.mem_iff.mpr (by
    obtain _ | st | _ := k
    · decide
    · cases st <;> decide
    · decide)
  have turned : TickBeside (· ≠ k) s s.dropTurn :=
    (inside_dropTurn s).tickBeside fun st _ => stationHeld_eq (by cases st <;> rfl)
  obtain ⟨v, before, after⟩ := foldl_split (f := fun acc k => runTick s.turn.expiryAtOnce k acc) (R := TickBeside (· ≠ k))
    TickBeside.refl TickBeside.trans (fun y s apart => tickBeside_runTick _ y apart s) once mem s.dropTurn
  exact ⟨v, turned.trans before, after⟩

end Beside

/-! ## The parts, each by itself -/

section Parts

theorem tickValidity_more {n : Nat} (timer : s.nip.validity = some n) (more : 2 ≤ n) :
    tickValidity s = { s with nip := { s.nip with validity := some (n - 1) } } := by
  have last : lastMs n = false := decide_eq_false (by omega)
  simp only [tickValidity, timer, last, Bool.false_eq_true, if_false]

theorem tickValidity_last {n : Nat} (timer : s.nip.validity = some n) (last : n ≤ 1) :
    (tickValidity s).nip.validity = none ∧ (tickValidity s).nip.tempValid = false := by
  have ms : lastMs n = true := decide_eq_true last
  have e : tickValidity s = closedTemp { s with nip := { s.nip with tempValid := false, validity := none } } := by
    simp only [tickValidity, timer, ms, if_true, validityExpiry]
  rw [e, closedTemp_nip]
  exact ⟨rfl, rfl⟩

theorem tickPosition_more {n : Nat} {atOnce : Bool} (timer : s.tracker.sampleTimer = some n) (more : 2 ≤ n ∨ atOnce = false) :
    tickPosition atOnce s = { s with tracker := { s.tracker with sampleTimer := some (n - 1) } } := by
  have still : ¬(lastMs n = true ∧ atOnce = true) := by
    rintro ⟨last, now⟩
    obtain more | later := more
    · exact absurd (of_decide_eq_true last) (by omega)
    · rw [now] at later
      cases later
  simp only [tickPosition, timer, if_neg still]

theorem tickPosition_last {n : Nat} (timer : s.tracker.sampleTimer = some n) (last : n ≤ 1) :
    tickPosition true s = raise prioTrackEstimated
      { s with tracker := { endEstimate s.tracker with mode := .estimated, sampleTimer := none } } := by
  have ms : lastMs n = true := decide_eq_true last
  simp only [tickPosition, timer, ms, and_self, if_true]
  exact sampleExpiry_running timer

theorem tickPosition_stopped {atOnce : Bool} (timer : s.tracker.sampleTimer = none) : tickPosition atOnce s = estimateTick s := by
  simp only [tickPosition, timer]

theorem tickStation_more {i : Issued} (held : (s.station st).outstanding = some i) (more : 2 ≤ i.timeout) :
    tickStation st s = s.modStation st (fun x => { x with outstanding := some { i with timeout := i.timeout - 1 } }) := by
  have last : lastMs i.timeout = false := decide_eq_false (by omega)
  simp only [tickStation, held, last, Bool.false_eq_true, if_false]

theorem tickStation_last {i : Issued} (held : (s.station st).outstanding = some i) (last : i.timeout ≤ 1) :
    tickStation st s = failOutstanding st i none (timedOut st i s) := by
  have ms : lastMs i.timeout = true := decide_eq_true last
  simp only [tickStation, held, ms, if_true]
  exact timeoutExpiry_eq held

end Parts

/-! ## The obligation -/

section Tick

/-- What O3 states of the validity timer. -/
theorem tick_validity {n : Nat} (timer : s.nip.validity = some n) :
    (2 ≤ n → (tick s).nip.validity = some (n - 1) ∧ (tick s).nip.tempValid = s.nip.tempValid) ∧
      (n ≤ 1 → (tick s).nip.validity = none ∧ (tick s).nip.tempValid = false) := by
  obtain ⟨v, before, after⟩ := tick_split .validity s
  obtain ⟨held, valid⟩ := before.validity fun apart => apart rfl
  obtain ⟨held', valid'⟩ := after.validity fun apart => apart rfl
  have ends := endOfEvent_finish (tickValidity v)
  have ticked : (runTick s.turn.expiryAtOnce .validity v).nip = (tickValidity v).nip := ends.nip
  rw [held', valid', ticked, ← valid]
  refine ⟨fun more => ?_, fun last => tickValidity_last (held.trans timer) last⟩
  rw [tickValidity_more (held.trans timer) more]
  exact ⟨rfl, rfl⟩

/-- The tracker after a tick is that of its own part (R30, R31). -/
theorem tick_tracker (s : State) : ∃ v, v.tracker = s.tracker ∧ v.setup = s.setup ∧
    (tick s).tracker = (tickPosition s.turn.expiryAtOnce v).tracker ∧
    (tickPosition s.turn.expiryAtOnce v).mgmt.flags ||| (tick s).mgmt.flags = (tick s).mgmt.flags := by
  obtain ⟨v, before, after⟩ := tick_split .tracker s
  have ends := endOfEvent_finish (tickPosition s.turn.expiryAtOnce v)
  have ticked : (runTick s.turn.expiryAtOnce .tracker v).tracker = (tickPosition s.turn.expiryAtOnce v).tracker := ends.tracker
  have flags : (runTick s.turn.expiryAtOnce .tracker v).mgmt.flags = (tickPosition s.turn.expiryAtOnce v).mgmt.flags := ends.flags
  exact ⟨v, before.tracker fun apart => apart rfl, before.setup, (after.tracker fun apart => apart rfl).trans ticked,
    flags ▸ after.flags⟩

theorem tick_sampleTimer {n : Nat} (timer : s.tracker.sampleTimer = some n) :
    (2 ≤ n ∨ s.turn.expiryAtOnce = false → (tick s).tracker = { s.tracker with sampleTimer := some (n - 1) }) ∧
      (n ≤ 1 → s.turn.expiryAtOnce = true →
        (tick s).tracker =
          { s.tracker with mode := .estimated, estAdvance := 0, estFrac := 0, estTime := 0, sampleTimer := none } ∧
        attnHas (tick s).mgmt.flags prioTrackEstimated = true) := by
  obtain ⟨v, tracker, -, ticked, flags⟩ := tick_tracker s
  have timer' : v.tracker.sampleTimer = some n := tracker ▸ timer
  refine ⟨fun more => ?_, fun last atOnce => ?_⟩
  · rw [ticked, tickPosition_more timer' more, tracker]
  · rw [atOnce] at ticked flags
    rw [tickPosition_last timer' last] at ticked flags
    refine ⟨ticked.trans ?_, attnHas_mono flags (attnHas_raise (by decide) (by decide) _)⟩
    show { endEstimate v.tracker with mode := .estimated, sampleTimer := none } = _
    rw [tracker]
    rfl

theorem tick_estimate (timer : s.tracker.sampleTimer = none) :
    (s.tracker.mode ≠ .estimated → (tick s).tracker = s.tracker) ∧
      (s.tracker.mode = .estimated →
        s.tracker.estAdvance + (s.tracker.estFrac + s.tracker.speed) / 256 ≤ s.setup.estLimit → s.tracker.estTime < 999 →
        (tick s).tracker =
          { s.tracker with
            p := s.tracker.p + BitVec.ofNat 32 ((s.tracker.estFrac + s.tracker.speed) / 256)
            estFrac := (s.tracker.estFrac + s.tracker.speed) % 256
            estAdvance := s.tracker.estAdvance + (s.tracker.estFrac + s.tracker.speed) / 256
            estTime := s.tracker.estTime + 1 }) := by
  obtain ⟨v, tracker, setup, ticked, -⟩ := tick_tracker s
  rw [tickPosition_stopped (by rw [tracker]; exact timer)] at ticked
  refine ⟨fun out => ?_, fun mode near early => ?_⟩
  · rw [ticked, estimateTick_out (tracker ▸ out), tracker]
  · rw [ticked, estimateTick_within (tracker ▸ mode) (by rw [tracker, setup]; exact near) (tracker ▸ early), tracker]
    rfl

/-- What O3 states of a BUSY station. -/
theorem tick_station {i : Issued} (busy : (s.station st).mode = .busy) (held : (s.station st).outstanding = some i) :
    (2 ≤ i.timeout → ((tick s).station st).mode = .busy ∧
      ∃ j, ((tick s).station st).outstanding = some j ∧ j.id = i.id ∧ j.timeout = i.timeout - 1) ∧
    (i.timeout ≤ 1 → ((tick s).station st).mode = .faulted ∧ ((tick s).station st).outstanding = none ∧
      ((tick s).station st).timeouts = min ((s.station st).timeouts + 1) 65535 ∧
      attnHas (tick s).mgmt.flags prioStationFault = true) := by
  obtain ⟨v, before, after⟩ := tick_split (.station st) s
  obtain ⟨mode, timeouts, same⟩ := before.station st (fun apart => apart rfl) (by rw [busy]; exact nofun)
  rw [held] at same
  obtain ⟨j, held', pair⟩ := Option.map_eq_some_iff.mp same
  obtain ⟨id, timeout⟩ := Prod.mk.injEq .. ▸ pair
  have ends := endOfEvent_finish (tickStation st v)
  have ticked : (runTick s.turn.expiryAtOnce (.station st) v).station st = (tickStation st v).station st := ends.station st
  have flags : (runTick s.turn.expiryAtOnce (.station st) v).mgmt.flags = (tickStation st v).mgmt.flags := ends.flags
  have later := after.station st fun apart => apart rfl
  rw [ticked] at later
  refine ⟨fun more => ?_, fun last => ?_⟩
  · rw [tickStation_more held' (timeout ▸ more), State.station_modStation] at later
    obtain ⟨mode', -, same'⟩ := later (by show (v.station st).mode ≠ _; rw [mode, busy]; exact nofun)
    obtain ⟨k, held'', pair'⟩ := Option.map_eq_some_iff.mp same'
    obtain ⟨id', timeout'⟩ := Prod.mk.injEq .. ▸ pair'
    exact ⟨mode'.trans (mode.trans busy), k, held'', id'.trans id, timeout'.trans (congrArg (· - 1) timeout)⟩
  · rw [tickStation_last held' (timeout ▸ last), failOutstanding_station] at later
    obtain ⟨mode', timeouts', same'⟩ := later nofun
    obtain ⟨fault, -⟩ := failOutstanding_rest (base_timedOut st j v) j none
    have grown := after.flags
    rw [flags, tickStation_last held' (timeout ▸ last)] at grown
    exact ⟨mode', Option.map_eq_none_iff.mp same', timeouts'.trans (by rw [timedOut_timeouts, timeouts]), attnHas_mono grown fault⟩

end Tick

/-- Settles O3: the expiry that has run out, or each timer's own part of the tick. -/
theorem idleStepCountsDown : Obligations.IdleStepCountsDown := by
  unfold Obligations.IdleStepCountsDown
  intro s empty
  have event : step s = .next (idle s) := by simp only [step, empty]
  by_cases due : s.tracker.sampleTimer = some 0
  · have expired : idle s = finish (raise prioTrackEstimated
        { s with tracker := { endEstimate s.tracker with mode := .estimated, sampleTimer := none } }) := by
      have run : sampleDue s = true := decide_eq_true due
      rw [idle, if_pos run, sampleExpiry_running due]
    have ends := endOfEvent_finish (raise prioTrackEstimated
      { s with tracker := { endEstimate s.tracker with mode := .estimated, sampleTimer := none } })
    rw [expired] at event
    exact ⟨_, event, ends.pending.trans empty, by rw [ends.nip]; rfl, fun _ => ends, fun running => absurd due running⟩
  · have ticked : idle s = tick s := by
      rw [idle, if_neg (by simp [sampleDue, due])]
    rw [ticked] at event
    obtain ⟨v, before, after⟩ := tick_split .validity s
    have whole := (before.mono (own' := fun _ => True) fun _ _ => trivial).trans
      ((tickBeside_runTick s.turn.expiryAtOnce .validity trivial v).trans (after.mono fun _ _ => trivial))
    exact ⟨_, event, whole.pending.trans empty, whole.temp, fun run => absurd run due, fun _ => ⟨fun n timer => tick_validity timer,
      fun n timer => tick_sampleTimer timer, tick_estimate, fun st i busy held => tick_station busy held⟩⟩

end Sys2Proof.Machine
end

section
/-! PROOFS. The advance of P and the blocks that take it, each once, in whatever order (R38). -/

namespace Sys2Proof.Machine

variable {l : Lane} {d : Nat} {s t u : State}

/-! ## Absence and the break it brings (R169, R170) -/

theorem takeAbsence_idle (h : s.web.present = true ∨ s.web.broken = true) : takeAbsence d s = s :=
  if_pos (by rw [Bool.or_eq_true]; exact h)

section Absent

variable (absent : s.web.present = false) (whole : s.web.broken = false)
include absent whole

theorem takeAbsence_below (below : ¬s.setup.db ≤ s.web.absence + d) :
    takeAbsence d s = { s with web := { s.web with absence := s.web.absence + d } } := by
  simp only [takeAbsence, absent, whole, Bool.or_self, Bool.false_eq_true, if_false, if_neg below]

theorem takeAbsence_breaks (reached : s.setup.db ≤ s.web.absence + d) :
    takeAbsence d s = webBreak { s with web := { s.web with absence := s.web.absence + d } } := by
  simp only [takeAbsence, absent, whole, Bool.or_self, Bool.false_eq_true, if_false, if_pos reached]

end Absent

/-- The state in which a web break recomputes the plan: both maps spoiled, the unit cleared. -/
def brokenMaps (s : State) : State :=
  { spoilBoth .webBreak { s with web := { s.web with broken := true, absence := 0 } } with
    web := { (spoilBoth .webBreak { s with web := { s.web with broken := true, absence := 0 } }).web with profile := none, splices := [] } }

theorem webBreak_eq (s : State) : webBreak s = raise prioWebBreak (nipChange (brokenMaps s)) := rfl

theorem brokenMaps_lane (s : State) (l : Lane) : ((brokenMaps s).lane l).segs = [] ∧ ((brokenMaps s).lane l).mode = .disabled := by
  have spoiled := laneSpoiled_spoilBoth l .webBreak { s with web := { s.web with broken := true, absence := 0 } }
  have lane : (brokenMaps s).lane l = (spoilBoth .webBreak { s with web := { s.web with broken := true, absence := 0 } }).lane l := by
    cases l <;> rfl
  rw [lane]
  exact ⟨spoiled.segs, spoiled.mode⟩

theorem webBreak_lane (s : State) (l : Lane) : ((webBreak s).lane l).segs = [] ∧ ((webBreak s).lane l).mode = .disabled := by
  obtain ⟨segs, mode⟩ := brokenMaps_lane s l
  have same : (webBreak s).lane l = (brokenMaps s).lane l := by
    rw [webBreak_eq, raise_lane]
    exact nipWork_lane_empty (nipWork_nipChange _) segs
  rw [same]
  exact ⟨segs, mode⟩

theorem webBreak_web (s : State) :
    (webBreak s).web = { s.web with absence := 0, broken := true, profile := none, splices := [] } := by
  have planned : (webBreak s).web = (brokenMaps s).web := by
    rw [webBreak_eq, raise_web, (nipWork_nipChange _).web]
  rw [planned]
  show { (spoilBoth .webBreak { s with web := { s.web with broken := true, absence := 0 } }).web with profile := none, splices := [] } = _
  rw [spoilBoth_web]

theorem webBreak_zones (s : State) : ∀ e ∈ (webBreak s).nip.zones, e ∈ s.nip.zones := by
  intro e mem
  have planned : (webBreak s).nip.zones = (brokenMaps s).nip.zones := by
    rw [webBreak_eq, raise_nip, (nipWork_nipChange _).zones]
  rw [planned] at mem
  have nip : (brokenMaps s).nip = (spoilBoth .webBreak { s with web := { s.web with broken := true, absence := 0 } }).nip := rfl
  rw [nip, spoilBoth_nip] at mem
  exact (List.mem_filter.mp mem).1

/-! ## The takers but the Web Event Unit -/

theorem aside_runTaker {k : Taker} (absence : k ≠ .absence) (splices : k ≠ .splices) (s : State) :
    Aside (· = k) s (runTaker d k s) := by
  cases k with
  | marks l => exact aside_expireWindows l s rfl
  | trimShort l => exact aside_testShort l s
  | station st => exact aside_issueTest st s rfl
  | zones => exact aside_passZones s
  | absence => exact absurd rfl absence
  | splices => exact absurd rfl splices

/-- A block's part of an advance, and what the other blocks do before and after it. -/
theorem advance_split {R : State → State → Prop} (refl : ∀ s, R s s) (trans : ∀ {s t u}, R s t → R t u → R s u)
    (turn : ∀ s, R s s.dropTurn) (k : Taker) (others : ∀ y, y ≠ k → ∀ s, R s (runTaker d y s)) (s : State) :
    ∃ v, R s v ∧ R (runTaker d k v) (takeAdvance d s) ∧ Inside s v ∧ Inside (runTaker d k v) (takeAdvance d s) := by
  have perm := arrange_perm s.turn.takers allTakers
  have once : (arrange s.turn.takers allTakers).Nodup := perm.nodup_iff.mpr (by decide)
  have mem : k ∈ arrange s.turn.takers allTakers := perm.mem_iff.mpr (by
    obtain l | l | st | _ | _ | _ := k
    · cases l <;> decide
    · cases l <;> decide
    · cases st <;> decide
    · decide
    · decide
    · decide)
  obtain ⟨v, ⟨before, inside⟩, after, inside'⟩ := foldl_split (f := fun acc k => runTaker d k acc)
    (R := fun s t => R s t ∧ Inside s t) (fun s => ⟨refl s, .refl s⟩) (fun h k => ⟨trans h.1 k.1, h.2.trans k.2⟩)
    (fun y s apart => ⟨others y apart s, inside_runTaker d y s⟩) once mem s.dropTurn
  exact ⟨v, trans (turn s) before, after, (inside_dropTurn s).trans inside, inside'⟩

/-! ## Windows (R59) -/

/-- Every segment of a map but the newest is CLOSED. -/
def NewestOnly (x : LaneState) : Prop := ∀ g ∈ x.segs.dropLast, g.state = .closed

/-- What the blocks other than a lane's Mark Tracker leave of its open segment. -/
def WindowsOn (l : Lane) (s t : State) : Prop :=
  NewestOnly (s.lane l) → NewestOnly (t.lane l) ∧
    ∀ h, openSeg (t.lane l) = some h → ∃ g, openSeg (s.lane l) = some g ∧ Grown g h ∧ t.jobOf h = s.jobOf g

theorem WindowsOn.trans (h : WindowsOn l s t) (k : WindowsOn l t u) : WindowsOn l s u := by
  intro only
  obtain ⟨only', grown⟩ := h only
  obtain ⟨only'', grown'⟩ := k only'
  refine ⟨only'', fun i opened => ?_⟩
  obtain ⟨g, opened', on, job⟩ := grown' i opened
  obtain ⟨g', opened'', on', job'⟩ := grown g opened'
  exact ⟨g', opened'', on'.trans on, job.trans job'⟩

/-- The only segment that can be OPEN is the open segment. -/
theorem openSeg_of_mem {x : LaneState} (only : NewestOnly x) {g : Segment} (mem : g ∈ x.segs) (opened : g.state = .opened) :
    openSeg x = some g := by
  rcases List.eq_nil_or_concat x.segs with none | ⟨older, last, segs⟩
  · simp [none] at mem
  · rw [List.concat_eq_append] at segs
    rw [segs] at mem
    obtain before | here := List.mem_append.mp mem
    · have closed := only g (by rw [segs, List.dropLast_concat]; exact before)
      rw [opened] at closed
      cases closed
    · obtain rfl := List.mem_singleton.mp here
      exact openSeg_last segs opened

theorem openSeg_mem {x : LaneState} {g : Segment} (h : openSeg x = some g) : g ∈ x.segs ∧ g.state = .opened := by
  unfold openSeg at h
  split at h
  next y found =>
    split at h
    next opened =>
      cases h
      exact ⟨List.mem_of_getLast? found, opened⟩
    · cases h
  · cases h

theorem SegsOn.newestOnly (h : SegsOn l s t) (only : NewestOnly (s.lane l)) : NewestOnly (t.lane l) := by
  obtain ⟨p, f, segs, on, -⟩ := h
  intro g mem
  rw [segs, ← List.map_dropLast] at mem
  obtain ⟨x, xmem, rfl⟩ := List.mem_map.mp mem
  rw [(on x).grown.state]
  exact only x (mem_dropLast_filter xmem)

theorem Grown.jobOf {g h : Segment} (grown : Grown g h) (s : State) : s.jobOf h = s.jobOf g := by
  rw [grown.same]
  rfl

theorem SegsOn.windowsOn (h : SegsOn l s t) (jobs : ∀ g, t.jobOf g = s.jobOf g) : WindowsOn l s t := by
  refine fun only => ⟨h.newestOnly only, fun i opened => ?_⟩
  obtain ⟨mem, state⟩ := openSeg_mem opened
  obtain ⟨g, gmem, on⟩ := h.before mem
  exact ⟨g, openSeg_of_mem only gmem (on.grown.state.symm.trans state), on.grown, (jobs i).trans (on.grown.jobOf s)⟩

theorem windowsOn_empty (empty : (t.lane l).segs = []) : WindowsOn l s t := by
  refine fun _ => ⟨?_, fun h opened => ?_⟩
  · rw [NewestOnly, empty]
    exact nofun
  · have mem := (openSeg_mem opened).1
    rw [empty] at mem
    cases mem

/-- The trim-short test of one segment: it is left alone, or it is SHORT or ended and measured, flagged where it entered. -/
theorem shortTest_cases (job : JobDef) (p : Word32) (g : Segment) : (shortTest job p g).1 = g ∨
    g.watch.state ≠ .ended ∧ ∃ state d, d &&& defTrimShort = d ∧
      (shortTest job p g).1 = { g.flag d with trimShort := formShort job p g, watch := { g.watch with state := state } } := by
  cases state : g.watch.state with
  | ended => exact .inl (by rw [shortTest_ended state])
  | waiting =>
    cases reached : reaches p (trimFirst job g) with
    | false => exact .inl (by rw [shortTest_waits state reached])
    | true =>
      rw [shortTest_enters state reached]
      exact .inr ⟨nofun, _, defTrimShort, by decide, rfl⟩
  | short =>
    rw [shortTest_measures state]
    exact .inr ⟨nofun, _, 0#12, by decide, by rw [g.flag_zero]⟩

theorem onward_shortTest (job : JobDef) (p : Word32) (g : Segment) : Onward g (shortTest job p g).1 := by
  obtain same | ⟨going, state, d, -, same⟩ := shortTest_cases job p g
  · rw [same]
    exact .refl g
  · rw [same]
    exact ⟨⟨rfl, (grown_flag d g).flags, Nat.le_refl _, Nat.le_refl _⟩, Nat.le_refl _, rfl, fun past => absurd past going⟩

theorem segsOn_testShort (m : Lane) (s : State) : SegsOn l s (testShort m s) := by
  by_cases same : l = m
  · subst same
    exact segsOn_map (testShort_segs l s) fun g => onward_shortTest _ _ g
  · exact segsOn_eq (by
      unfold testShort
      dsimp only
      split <;> simp [State.lane_modLane_ne _ _ _ _ same])

theorem segsOn_passZones (s : State) : SegsOn l s (passZones s) := by
  rw [passZones_eq]
  have zones : SegsOn l s (zonesPassed s) := by
    have flagged := (nipWork_flagOwners (d := defLamShort) (by decide)
      ((s.nip.zones.filter (entryPassed (lamPos s))).filter (passedUnlaminated s)) s).segsOn l
    exact flagged.trans (segsOn_eq (by cases l <;> rfl))
  exact zones.trans ((nipWork_nipChangeIf _ _).segsOn l)

/-- Another lane's Mark Tracker leaves the lane's segments but for what a retirement brings. -/
theorem segsOn_closeSeg {m : Lane} (apart : l ≠ m) (id : Nat) (s : State) : SegsOn l s (closeSeg m id s) := by
  refine SegsOn.trans (segsOn_eq ?_) ((workLaw_segsOn l).retireTest m id _)
  rw [State.modSeg, State.lane_modLane_ne _ _ _ _ apart]

theorem segsOn_expireN {m : Lane} (apart : l ≠ m) : ∀ (n : Nat) (s : State), SegsOn l s (expireN m n s)
  | 0, s => segsOn_eq rfl
  | n + 1, s => by
    have missed : ∀ (id k : Nat) (s : State), SegsOn l s (missMarks m id k s) := fun id k s =>
      segsOn_eq (by
        unfold missMarks
        split
        · rfl
        · simp [flagSeg, State.modSeg, State.lane_modLane_ne _ _ _ _ apart])
    unfold expireN
    split
    · exact segsOn_eq rfl
    next g opened =>
      split
      · exact segsOn_eq rfl
      · split
        · split
          next i _ _ =>
            have noted : SegsOn l (missMarks m g.id 1 s) (setNext m g.id (afterPitch (s.jobOf g) i) (missMarks m g.id 1 s)) :=
              segsOn_eq (by rw [setNext, State.modSeg, State.lane_modLane_ne _ _ _ _ apart])
            exact ((missed g.id 1 s).trans noted).trans (segsOn_expireN apart n _)
          · refine SegsOn.trans ?_ (segsOn_closeSeg apart _ _)
            split
            · exact missed _ 1 s
            · exact segsOn_eq rfl
        · exact segsOn_eq rfl

/-- The blocks but a lane's own Mark Tracker, at its open segment. -/
theorem windowsOn_runTaker {k : Taker} (other : k ≠ .marks l) (s : State) : WindowsOn l s (runTaker d k s) := by
  have jobs : k ≠ .absence → k ≠ .splices → ∀ g, (runTaker d k s).jobOf g = s.jobOf g := fun a b =>
    (aside_runTaker a b s).jobOf
  cases k with
  | marks m => exact (segsOn_expireN (fun same => other (congrArg Taker.marks same.symm)) 17 s).windowsOn (jobs nofun nofun)
  | trimShort m => exact (segsOn_testShort m s).windowsOn (jobs nofun nofun)
  | station st => exact ((workLaw_segsOn l).issueTest st s fun _ => trivial).windowsOn (jobs nofun nofun)
  | zones => exact (segsOn_passZones s).windowsOn (jobs nofun nofun)
  | absence =>
    by_cases idle : s.web.present = true ∨ s.web.broken = true
    · have same : runTaker d .absence s = s := takeAbsence_idle idle
      rw [same]
      exact (segsOn_eq rfl).windowsOn fun _ => rfl
    · obtain ⟨absent, whole⟩ := not_or.mp idle
      by_cases reached : s.setup.db ≤ s.web.absence + d
      · have broke := takeAbsence_breaks (Bool.eq_false_iff.mpr absent) (Bool.eq_false_iff.mpr whole) reached
        refine windowsOn_empty ?_
        rw [runTaker, broke]
        exact (webBreak_lane _ l).1
      · have below := takeAbsence_below (Bool.eq_false_iff.mpr absent) (Bool.eq_false_iff.mpr whole) reached
        refine SegsOn.windowsOn (segsOn_eq ?_) fun g => ?_
        · rw [runTaker, below]
          cases l <;> rfl
        · rw [runTaker, below]
          rfl
  | splices => exact (segsOn_eq (by cases l <;> rfl)).windowsOn fun _ => rfl

/-- How many pitch marks are still expected from a mark on, one at least for a pitch mark. -/
def pitchesLeft (job : JobDef) : NextMark → Nat
  | .pitch i => max 1 (job.pitches.length - i)
  | .tail => 0

theorem pitchesLeft_afterPitch (job : JobDef) (i : Nat) : pitchesLeft job (afterPitch job i) < pitchesLeft job (.pitch i) := by
  unfold afterPitch
  split <;> simp only [pitchesLeft] <;> omega

theorem pitchMissed_openSeg {g : Segment} (opened : openSeg (s.lane l) = some g) (m : NextMark) :
    openSeg ((pitchMissed l g m s).lane l) = some { g with flags := g.flags ||| defMarkMissed, next := some m } := by
  obtain ⟨older, segs, state⟩ := openSeg_spec opened
  refine openSeg_last (older := older.map (fun h =>
    if h.id = g.id then { h with flags := h.flags ||| defMarkMissed, next := some m } else h)) ?_ state
  rw [pitchMissed_lane, segs]
  simp

theorem pitchMissed_newestOnly {g : Segment} (only : NewestOnly (s.lane l)) (m : NextMark) :
    NewestOnly ((pitchMissed l g m s).lane l) := by
  intro h mem
  rw [pitchMissed_lane, ← List.map_dropLast] at mem
  obtain ⟨x, xmem, rfl⟩ := List.mem_map.mp mem
  split <;> exact only x xmem

theorem inside_pitchMissed (g : Segment) (m : NextMark) (s : State) : Inside s (pitchMissed l g m s) :=
  (inside_missMarks l g.id 1 s).trans (inside_modSeg l g.id _ _)

theorem pitchMissed_jobOf (g : Segment) (m : NextMark) (s : State) (h : Segment) : (pitchMissed l g m s).jobOf h = s.jobOf h := by
  have aside : Aside (fun _ => True) s (pitchMissed l g m s) :=
    (aside_missMarks l g.id 1 s trivial).trans (aside_setNext l g.id _ _)
  exact aside.jobOf h

/-- Once its newest segment is CLOSED a map has no open one, whatever retires. -/
theorem closeSeg_noneOpen {g : Segment} (only : NewestOnly (s.lane l)) (opened : openSeg (s.lane l) = some g) (k : Nat) :
    openSeg ((closeSeg l g.id (missMarks l g.id k s)).lane l) = none ∧
      NewestOnly ((closeSeg l g.id (missMarks l g.id k s)).lane l) := by
  obtain ⟨older, segs, -⟩ := openSeg_spec opened
  have closed : ∀ x ∈ ((closing l g.id k s).lane l).segs, x.state = .closed := by
    intro x mem
    rw [closing_lane, segs] at mem
    obtain ⟨y, ymem, rfl⟩ := List.mem_map.mp mem
    split
    · rfl
    next apart =>
      obtain before | here := List.mem_append.mp ymem
      · exact only y (by rw [segs, List.dropLast_concat]; exact before)
      · exact absurd (congrArg Segment.id (List.mem_singleton.mp here)) apart
  have after : SegsOn l (closing l g.id k s) (closeSeg l g.id (missMarks l g.id k s)) :=
    (workLaw_segsOn l).retireTest l g.id _
  have all : ∀ x ∈ ((closeSeg l g.id (missMarks l g.id k s)).lane l).segs, x.state = .closed := fun x mem => by
    obtain ⟨y, ymem, on⟩ := after.before mem
    rw [on.grown.state]
    exact closed y ymem
  refine ⟨?_, fun x mem => all x (List.mem_of_mem_dropLast mem)⟩
  cases last : openSeg ((closeSeg l g.id (missMarks l g.id k s)).lane l) with
  | none => rfl
  | some x =>
    obtain ⟨mem, state⟩ := openSeg_mem last
    rw [all x mem] at state
    cases state

/-- The windows that a lane's Mark Tracker leaves: the open segment is the one it had, and its next window has not passed. -/
theorem expireN_leaves : ∀ (n : Nat) (s : State), NewestOnly (s.lane l) → NewestOnly ((expireN l n s).lane l) ∧
    ∀ h, openSeg ((expireN l n s).lane l) = some h → ∃ g, openSeg (s.lane l) = some g ∧ h.slot = g.slot ∧
      ∀ m, h.next = some m → (∀ m0, g.next = some m0 → pitchesLeft (s.jobOf g) m0 < n) →
        windowPassed (s.jobOf h) (s.lane l).record.markTol s.tracker.p h m = false
  | 0, s, only => ⟨only, fun h opened => ⟨h, opened, rfl, fun m next few => absurd (few m next) (Nat.not_lt_zero _)⟩⟩
  | n + 1, s, only => by
    cases opened : openSeg (s.lane l) with
    | none =>
      have same : expireN l (n + 1) s = s := by simp only [expireN, opened]
      rw [same]
      refine ⟨only, fun h opened' => ?_⟩
      rw [opened] at opened'
      cases opened'
    | some g =>
      cases next : g.next with
      | none =>
        have same : expireN l (n + 1) s = s := by simp only [expireN, opened, next]
        rw [same]
        refine ⟨only, fun h opened' => ?_⟩
        rw [opened] at opened'
        cases opened'
        exact ⟨g, rfl, rfl, fun m some => by rw [next] at some; cases some⟩
      | some m =>
        cases passed : windowPassed (s.jobOf g) (s.lane l).record.markTol s.tracker.p g m with
        | false =>
          rw [expireN_waits opened next passed]
          refine ⟨only, fun h opened' => ?_⟩
          rw [opened] at opened'
          cases opened'
          exact ⟨g, rfl, rfl, fun m' some _ => by rw [next] at some; cases some; exact passed⟩
        | true =>
          cases m with
          | tail =>
            obtain ⟨none, only'⟩ := closeSeg_noneOpen only opened (tailMissed (s.jobOf g))
            rw [expireN_tail opened next passed]
            refine ⟨only', fun h opened' => ?_⟩
            rw [none] at opened'
            cases opened'
          | pitch i =>
            have inside := inside_pitchMissed (l := l) g (afterPitch (s.jobOf g) i) s
            obtain ⟨only', leaves⟩ := expireN_leaves n (pitchMissed l g (afterPitch (s.jobOf g) i) s) (pitchMissed_newestOnly only _)
            rw [expireN_pitch opened next passed]
            refine ⟨only', fun h opened' => ?_⟩
            obtain ⟨g', found, slot, waits⟩ := leaves h opened'
            rw [pitchMissed_openSeg opened] at found
            cases found
            refine ⟨g, rfl, slot, fun m some few => ?_⟩
            have left := waits m some fun m0 next' => by
              cases next'
              have fewer := few _ next
              have less := pitchesLeft_afterPitch (s.jobOf g) i
              rw [pitchMissed_jobOf]
              show pitchesLeft (s.jobOf g) _ < n
              omega
            rwa [pitchMissed_jobOf, inside.laneRecord, inside.tracker] at left

end Sys2Proof.Machine
end

section
/-! PROOFS. An advance of P is taken by the stations' heads, the nip, the zone list and the web (R103, R126, R169, R174). -/

namespace Sys2Proof.Machine

variable {l : Lane} {d : Nat} {s t u : State}

/-! ## What the turns of the other blocks keep, but where the web breaks -/

theorem takeAbsence_cases (d : Nat) (s : State) : takeAbsence d s = s ∨ s.web.broken = false ∧ ∃ n,
    takeAbsence d s = { s with web := { s.web with absence := n } } ∨
      takeAbsence d s = webBreak { s with web := { s.web with absence := n } } := by
  by_cases idle : s.web.present = true ∨ s.web.broken = true
  · exact .inl (takeAbsence_idle idle)
  · obtain ⟨absent, whole⟩ := not_or.mp idle
    rw [Bool.not_eq_true] at absent whole
    refine .inr ⟨whole, s.web.absence + d, ?_⟩
    by_cases reached : s.setup.db ≤ s.web.absence + d
    · exact .inr (takeAbsence_breaks absent whole reached)
    · exact .inl (takeAbsence_below absent whole reached)

/-- The web breaks, or this holds; a broken web stays broken. -/
def Unbroken (Q : State → State → Prop) (s t : State) : Prop :=
  (s.web.broken = true → t.web.broken = true) ∧ (t.web.broken = s.web.broken → Q s t)

theorem Unbroken.of {Q : State → State → Prop} (web : t.web.broken = s.web.broken) (h : Q s t) : Unbroken Q s t :=
  ⟨fun broken => web.trans broken, fun _ => h⟩

theorem unbroken_between {s t u : State} (h : s.web.broken = true → t.web.broken = true)
    (k : t.web.broken = true → u.web.broken = true) (same : u.web.broken = s.web.broken) : t.web.broken = s.web.broken := by
  cases whole : t.web.broken with
  | true => exact (k whole).symm.trans same
  | false =>
    cases before : s.web.broken with
    | true => rw [h before] at whole; cases whole
    | false => rfl

theorem Unbroken.trans {Q : State → State → Prop} (compose : ∀ {s t u}, Q s t → Q t u → Q s u)
    (h : Unbroken Q s t) (k : Unbroken Q t u) : Unbroken Q s u := by
  refine ⟨k.1 ∘ h.1, fun same => ?_⟩
  have first := unbroken_between h.1 k.1 same
  exact compose (h.2 first) (k.2 (same.trans first.symm))

/-- A block's turn and the turns of the others, where the advance brings no break. -/
theorem Unbroken.both {Q : State → State → Prop} {v w : State} (h : Unbroken Q s v) (web : w.web.broken = v.web.broken)
    (k : Unbroken Q w t) (same : t.web.broken = s.web.broken) : Q s v ∧ Q w t := by
  have first := unbroken_between h.1 (fun broken => k.1 (web.trans broken)) same
  exact ⟨h.2 first, k.2 (same.trans (first.symm.trans web.symm))⟩

theorem unbroken_takeAbsence {Q : State → State → Prop} (refl : ∀ s, Q s s)
    (counts : ∀ s n, Q s { s with web := { s.web with absence := n } }) (d : Nat) (s : State) : Unbroken Q s (takeAbsence d s) := by
  obtain same | ⟨whole, n, same | same⟩ := takeAbsence_cases d s
  · rw [same]
    exact .of rfl (refl s)
  · rw [same]
    exact .of rfl (counts s n)
  · have broke : (takeAbsence d s).web.broken = true := by rw [same, webBreak_web]
    refine ⟨fun _ => broke, fun kept => ?_⟩
    rw [broke, whole] at kept
    cases kept

theorem unbroken_runTaker {Q : State → State → Prop} (refl : ∀ s, Q s s)
    (counts : ∀ s n, Q s { s with web := { s.web with absence := n } }) {own y : Taker}
    (aside : y ≠ .absence → y ≠ .splices → ∀ s, Q s (runTaker d y s)) (splices : own ≠ .splices → ∀ s, Q s (passSplices s))
    (other : y ≠ own) (s : State) : Unbroken Q s (runTaker d y s) := by
  by_cases absence : y = .absence
  · subst absence
    exact unbroken_takeAbsence refl counts d s
  · by_cases spliced : y = .splices
    · subst spliced
      exact .of rfl (splices other.symm s)
    · exact .of (congrArg WebUnit.broken (aside_runTaker absence spliced s).web) (aside absence spliced s)

/-! ## The heads of the cutters and trim stations (R103, R105, R110, R111) -/

section Heads

/-- The head of a cut queue waits, or its cutter, READY before, has been given one. -/
def CutSettled (l : Lane) (s t : State) : Prop := ∀ a, (t.lane l).cutQueue.head? = some a →
  cutFate l a t = .waits ∨ (s.station (cutterOf l)).mode = .ready ∧ (t.station (cutterOf l)).mode = .busy

theorem cutTestN_settled (l : Lane) : ∀ (n : Nat) (s : State), (s.lane l).cutQueue.length ≤ n → CutSettled l s (cutTestN l n s)
  | 0, s, few => by
    have empty : (s.lane l).cutQueue = [] := List.length_eq_zero_iff.mp (Nat.le_zero.mp few)
    intro a head
    rw [cutTestN, empty] at head
    cases head
  | n + 1, s, few => by
    cases queue : (s.lane l).cutQueue with
    | nil =>
      intro a head
      simp only [cutTestN, queue, List.head?_nil, reduceCtorEq] at head
    | cons act rest =>
      have further : ∀ (fin : FinalState) (prio : Nat) (d : BitVec 12), d &&& registeredFlags = 0#12 →
          CutSettled l s (cutTestN l n (mapFinal l act fin (cutFlagged l act prio d s))) := by
        intro fin prio d plain a head
        have left := cutTestN_settled l n (mapFinal l act fin (cutFlagged l act prio d s)) (by
          rw [queue, List.length_cons] at few
          rw [cutGone_queue plain queue]
          omega) a head
        rwa [cutGone_station plain (cutter_ne_lam l)] at left
      cases fate : cutFate l act s with
      | waits =>
        have same : cutTestN l (n + 1) s = s := by simp only [cutTestN, queue, fate]
        rw [same]
        intro a head
        rw [queue] at head
        cases head
        exact .inl fate
      | issued =>
        have same : cutTestN l (n + 1) s = issueCut l act s := by simp only [cutTestN, queue, fate]
        obtain ⟨i, -, station⟩ := issueCut_station l act s
        rw [same]
        exact fun _ _ => .inr ⟨cutFate_issued fate, by rw [station]⟩
      | skipped =>
        have same : cutTestN l (n + 1) s = cutTestN l n (skipCut l act s) := by simp only [cutTestN, queue, fate]
        rw [same]
        exact further .skipped prioCutMissed defCutMissed (by decide)
      | cancelled =>
        have same : cutTestN l (n + 1) s = cutTestN l n (cancelCut l act s) := by simp only [cutTestN, queue, fate]
        rw [same]
        exact further .cancelled prioStationFault defStationFault (by decide)

theorem cutTest_settled (l : Lane) (s : State) : CutSettled l s (cutTest l s) := cutTestN_settled l _ s (Nat.le_refl _)

/-- The head of a trim queue waits, or its station, READY before, has been given one. -/
def TrimSettled (l : Lane) (t : State) : Prop := ∀ a, (t.lane l).trimQueue.head? = some a →
  trimFate l a t = .waits ∨ (t.station (trimmerOf l)).mode = .busy

theorem issueKnife_busy (l : Lane) (act : Action) (s : State) : ((issueKnife l act s).station (trimmerOf l)).mode = .busy := by
  rw [(issueKnife_onlySegs l act s).station, knifeCore, issueCore_station]

theorem trimTestN_settled (l : Lane) : ∀ (n : Nat) (s : State), (s.lane l).trimQueue.length ≤ n → TrimSettled l (trimTestN l n s)
  | 0, s, few => by
    have empty : (s.lane l).trimQueue = [] := List.length_eq_zero_iff.mp (Nat.le_zero.mp few)
    intro a head
    rw [trimTestN, empty] at head
    cases head
  | n + 1, s, few => by
    cases queue : (s.lane l).trimQueue with
    | nil =>
      intro a head
      simp only [trimTestN, queue, List.head?_nil, reduceCtorEq] at head
    | cons act rest =>
      cases fate : trimFate l act s with
      | waits =>
        have same : trimTestN l (n + 1) s = s := by simp only [trimTestN, queue, fate]
        rw [same]
        intro a head
        rw [queue] at head
        cases head
        exact .inl fate
      | issued =>
        have same : trimTestN l (n + 1) s = issueKnife l act s := by simp only [trimTestN, queue, fate]
        rw [same]
        exact fun _ _ => .inr (issueKnife_busy l act s)
      | skipped =>
        unfold trimFate at fate
        dsimp only at fate
        split at fate
        · split at fate <;> cases fate
        · cases fate
        · split at fate <;> cases fate
        · split at fate <;> cases fate
      | cancelled =>
        have same : trimTestN l (n + 1) s = trimTestN l n (cancelKnife l act s) := by simp only [trimTestN, queue, fate]
        rw [same]
        refine trimTestN_settled l n _ ?_
        rw [queue, List.length_cons] at few
        rw [knifeGone_queue queue]
        omega

theorem trimTest_settled (l : Lane) (s : State) : TrimSettled l (trimTest l s) := trimTestN_settled l _ s (Nat.le_refl _)

theorem ahead_of_waits {r : Int} (waits : (if r ≤ 0 then HeadFate.cancelled else .waits) = .waits) : 0 < r := by
  split at waits
  · cases waits
  · omega

theorem cutFate_settled {a : Action} (waits : cutFate l a s = .waits) :
    ((s.station (cutterOf l)).mode = .ready → isDue (toGo (cutterOf l) a.target s) s.tracker.speed s.setup.horizon = false) ∧
    ((s.station (cutterOf l)).mode = .faulted ∨ (s.station (cutterOf l)).mode = .offline → 0 < toGo (cutterOf l) a.target s) ∧
    ((s.station (cutterOf l)).mode = .busy → -toGo (cutterOf l) a.target s ≤ ((recordOr (s.station (cutterOf l))).tol : Int)) := by
  unfold cutFate beyondTol tolOf at waits
  cases mode : (s.station (cutterOf l)).mode <;> simp only [mode] at waits
  case ready =>
    refine ⟨fun _ => ?_, by simp, nofun⟩
    split at waits
    · split at waits <;> cases waits
    next early => exact Bool.eq_false_iff.mpr early
  case busy =>
    refine ⟨nofun, by simp, fun _ => ?_⟩
    split at waits
    · cases waits
    next within => exact not_lt.mp fun late => within (decide_eq_true late)
  case faulted => exact ⟨nofun, fun _ => ahead_of_waits waits, nofun⟩
  case offline => exact ⟨nofun, fun _ => ahead_of_waits waits, nofun⟩

theorem trimFate_settled {a : Action} (waits : trimFate l a s = .waits) :
    ((s.station (trimmerOf l)).mode = .ready → isDue (toGo (trimmerOf l) a.target s) s.tracker.speed s.setup.horizon = false) ∧
    ((s.station (trimmerOf l)).mode = .faulted ∨ (s.station (trimmerOf l)).mode = .offline → 0 < toGo (trimmerOf l) a.target s) := by
  unfold trimFate at waits
  cases mode : (s.station (trimmerOf l)).mode <;> simp only [mode] at waits
  case ready =>
    refine ⟨fun _ => ?_, by simp⟩
    split at waits
    · cases waits
    next early => exact Bool.eq_false_iff.mpr early
  case busy => exact ⟨nofun, by simp⟩
  case faulted => exact ⟨nofun, fun _ => ahead_of_waits waits⟩
  case offline => exact ⟨nofun, fun _ => ahead_of_waits waits⟩

/-- A lane's cutter and its queue as they were. -/
def CutsKept (l : Lane) (s t : State) : Prop :=
  (t.lane l).cutQueue = (s.lane l).cutQueue ∧ t.station (cutterOf l) = s.station (cutterOf l)

/-- A lane's trim station and its queue as they were. -/
def KnivesKept (l : Lane) (s t : State) : Prop :=
  (t.lane l).trimQueue = (s.lane l).trimQueue ∧ t.station (trimmerOf l) = s.station (trimmerOf l)

theorem Aside.cutsKept {y : Taker} (h : Aside (· = y) s t) (other : y ≠ .station (cutterOf l)) : CutsKept l s t := by
  refine ⟨h.cuts l other.symm, ?_⟩
  obtain same | ⟨lam | mine, -⟩ := h.station (cutterOf l)
  · exact same
  · exact absurd lam (cutter_ne_lam l)
  · exact absurd mine.symm other

theorem Aside.knivesKept {y : Taker} (h : Aside (· = y) s t) (other : y ≠ .station (trimmerOf l)) : KnivesKept l s t := by
  refine ⟨congrArg Prod.fst (h.knives l other.symm), ?_⟩
  obtain same | ⟨lam | mine, -⟩ := h.station (trimmerOf l)
  · exact same
  · exact absurd lam (trimmer_ne_lam l)
  · exact absurd mine.symm other

theorem unbroken_cuts {y : Taker} (other : y ≠ .station (cutterOf l)) (s : State) : Unbroken (CutsKept l) s (runTaker d y s) :=
  unbroken_runTaker (fun _ => ⟨rfl, rfl⟩) (fun s n => ⟨by cases l <;> rfl, by cases l <;> rfl⟩)
    (fun absence splices s => (aside_runTaker absence splices s).cutsKept other)
    (fun _ s => ⟨by cases l <;> rfl, by cases l <;> rfl⟩) other s

theorem unbroken_knives {y : Taker} (other : y ≠ .station (trimmerOf l)) (s : State) : Unbroken (KnivesKept l) s (runTaker d y s) :=
  unbroken_runTaker (fun _ => ⟨rfl, rfl⟩) (fun s n => ⟨by cases l <;> rfl, by cases l <;> rfl⟩)
    (fun absence splices s => (aside_runTaker absence splices s).knivesKept other)
    (fun _ s => ⟨by cases l <;> rfl, by cases l <;> rfl⟩) other s

theorem CutsKept.trans (h : CutsKept l s t) (k : CutsKept l t u) : CutsKept l s u := ⟨k.1.trans h.1, k.2.trans h.2⟩

theorem KnivesKept.trans (h : KnivesKept l s t) (k : KnivesKept l t u) : KnivesKept l s u := ⟨k.1.trans h.1, k.2.trans h.2⟩

/-- After an advance without a break the head of a cut queue waits, or its cutter, READY before, has been given one. -/
theorem takeAdvance_cuts (whole : (takeAdvance d s).web.broken = s.web.broken) : CutSettled l s (takeAdvance d s) ∧
    ((s.station (cutterOf l)).mode = .busy → ((takeAdvance d s).station (cutterOf l)).mode = .busy) := by
  obtain ⟨v, before, after, -, inside⟩ := advance_split (R := Unbroken (CutsKept l)) (d := d)
    (fun _ => .of rfl ⟨rfl, rfl⟩) (fun h k => h.trans CutsKept.trans k) (fun s => .of rfl ⟨by cases l <;> rfl, by cases l <;> rfl⟩)
    (.station (cutterOf l)) (fun _ other => unbroken_cuts other) s
  have own : runTaker d (.station (cutterOf l)) v = cutTest l v := by cases l <;> rfl
  rw [own] at after inside
  have web : (cutTest l v).web = v.web := (aside_cutTest (own := fun _ => True) l v trivial).web
  obtain ⟨⟨-, station⟩, queue', station'⟩ := before.both (congrArg WebUnit.broken web) after whole
  refine ⟨fun a head => ?_, fun busy => ?_⟩
  · rw [queue'] at head
    rw [cutFate_congr station' inside.tracker inside.setup, station', ← station]
    exact cutTest_settled l v a head
  · rw [← station] at busy
    obtain same | ⟨ready, -⟩ := cutTest_station l v
    · rw [station', same, busy]
    · rw [busy] at ready
      cases ready

theorem takeAdvance_knives (whole : (takeAdvance d s).web.broken = s.web.broken) : TrimSettled l (takeAdvance d s) := by
  obtain ⟨v, before, after, -, inside⟩ := advance_split (R := Unbroken (KnivesKept l)) (d := d)
    (fun _ => .of rfl ⟨rfl, rfl⟩) (fun h k => h.trans KnivesKept.trans k) (fun s => .of rfl ⟨by cases l <;> rfl, by cases l <;> rfl⟩)
    (.station (trimmerOf l)) (fun _ other => unbroken_knives other) s
  have own : runTaker d (.station (trimmerOf l)) v = trimTest l v := by cases l <;> rfl
  rw [own] at after inside
  have web : (trimTest l v).web = v.web := (aside_trimTest (own := fun _ => True) l v trivial).web
  obtain ⟨-, queue', station'⟩ := before.both (congrArg WebUnit.broken web) after whole
  intro a head
  rw [queue'] at head
  rw [trimFate_congr station' inside.tracker inside.setup, station']
  exact trimTest_settled l v a head

end Heads

/-! ## LAM's offer (R135) -/

section Offer

/-- No offer waits that a READY LAM would issue. -/
def LamSettled (s : State) : Prop := ∀ o, s.nip.offer = some o → lamReady o s = false

theorem lamSettled_congr (offer : t.nip.offer = s.nip.offer) (lam : t.lam = s.lam) (tracker : t.tracker = s.tracker)
    (setup : t.setup = s.setup) (settled : LamSettled s) : LamSettled t := by
  intro o offered
  rw [offer] at offered
  have same : lamReady o t = lamReady o s := by
    simp only [lamReady, State.station, toGo, lam, tracker, setup]
  rw [same]
  exact settled o offered

theorem lamTest_settled (s : State) : LamSettled (lamTest s) := by
  cases offer : s.nip.offer with
  | none =>
    rw [lamTest_none offer]
    intro o offered
    rw [offer] at offered
    cases offered
  | some o =>
    rw [lamTest_some offer]
    split
    next ready =>
      intro o' offered
      rw [Bool.eq_false_iff, Ne, lamReady_iff, issueLam_lam]
      exact fun issued => nomatch issued.1
    next waits =>
      intro o' offered
      rw [offer] at offered
      cases offered
      exact Bool.eq_false_iff.mpr waits

theorem nipChange_settled (s : State) : LamSettled (nipChange s) := lamTest_settled _

theorem nipChangeIf_settled {c : Bool} (settled : LamSettled s) : LamSettled (nipChangeIf c s) := by
  unfold nipChangeIf
  split
  · exact nipChange_settled s
  · exact settled

theorem Inside.lamSettled (h : Inside s t) (offer : t.nip.offer = s.nip.offer) (lam : t.lam = s.lam) (settled : LamSettled s) :
    LamSettled t := lamSettled_congr offer lam h.tracker h.setup settled

theorem leaveMap_settled (c : Cause) (g : Segment) (settled : LamSettled s) : LamSettled (leaveMap l c g s) :=
  (inside_leaveMap l c g s).lamSettled (by rw [leaveMap_nip]; rfl) (leaveMap_station l c g s .lam) settled

theorem workLaw_lamSettled : WorkLaw (fun st => st ≠ .lam) (fun s t => LamSettled s → LamSettled t) where
  refl _ := id
  trans h k := k ∘ h
  turn s := (inside_dropTurn s).lamSettled rfl rfl
  raise p s := (inside_raise p s).lamSettled (by rw [raise_nip]) (raise_station p s .lam)
  popCut l s _ := (inside_popCut l s).lamSettled (by cases l <;> rfl) (by cases l <;> rfl)
  popTrim l s _ := (inside_popTrim l s).lamSettled (by cases l <;> rfl) (by cases l <;> rfl)
  owner _ l id s := (inside_modSeg l id _ s).lamSettled (by cases l <;> rfl) (by cases l <;> rfl)
  issued st act delay est s notLam _ := (inside_issueCore st act delay est s).lamSettled (by rw [issueCore_nip])
    (issueCore_station_ne (st := st) act delay est s notLam.symm)
  knife l key done s _ := (inside_trimFinal l key done s).lamSettled (by rw [trimFinal_nip]) (trimFinal_station l key done s .lam)
  retire l g s _ _ settled := nipChangeIf_settled (leaveMap_settled .complete g settled)
  lam s _ := lamTest_settled s

theorem missMarks_settled (l : Lane) (id k : Nat) (settled : LamSettled s) : LamSettled (missMarks l id k s) :=
  (inside_missMarks l id k s).lamSettled (by unfold missMarks; split <;> cases l <;> rfl)
    (by unfold missMarks; split <;> cases l <;> rfl) settled

theorem expireN_settled (l : Lane) : ∀ (n : Nat) (s : State), LamSettled s → LamSettled (expireN l n s)
  | 0, _, settled => settled
  | n + 1, s, settled => by
    have closed : ∀ (id : Nat) (s : State), LamSettled s → LamSettled (closeSeg l id s) := fun id s settled =>
      workLaw_lamSettled.retireTest l id _
        ((inside_modSeg l id _ s).lamSettled (by cases l <;> rfl) (by cases l <;> rfl) settled)
    unfold expireN
    split
    · exact settled
    next g _ =>
      split
      · exact settled
      · split
        · split
          · exact expireN_settled l n _ ((inside_modSeg l _ _ _).lamSettled (by cases l <;> rfl) (by cases l <;> rfl)
              (missMarks_settled l g.id 1 settled))
          · refine closed g.id _ ?_
            split
            · exact missMarks_settled l g.id 1 settled
            · exact settled
        · exact settled

theorem runTaker_settled (k : Taker) (settled : LamSettled s) : LamSettled (runTaker d k s) := by
  cases k with
  | marks l => exact expireN_settled l 17 s settled
  | trimShort l =>
    refine (inside_testShort l s).lamSettled ?_ ?_ settled
    · unfold testShort
      dsimp only
      split <;> cases l <;> rfl
    · unfold testShort
      dsimp only
      split <;> cases l <;> rfl
  | station st => exact workLaw_lamSettled.issueTest st s id settled
  | zones =>
    rw [runTaker, passZones_eq]
    refine nipChangeIf_settled ?_
    have owners := inside_flagOwners defLamShort ((s.nip.zones.filter (entryPassed (lamPos s))).filter (passedUnlaminated s)) s
    exact lamSettled_congr (s := s) rfl (zonesPassed_lam s) owners.tracker owners.setup settled
  | absence =>
    obtain same | ⟨-, n, same | same⟩ := takeAbsence_cases d s
    · rwa [runTaker, same]
    · rw [runTaker, same]
      exact lamSettled_congr rfl rfl rfl rfl settled
    · rw [runTaker, same, webBreak_eq]
      exact workLaw_lamSettled.raise _ _ (nipChange_settled _)
  | splices => exact lamSettled_congr rfl rfl rfl rfl settled

theorem takeAdvance_settled (d : Nat) (s : State) : LamSettled (takeAdvance d s) := by
  obtain ⟨v, -, after, -, -⟩ := advance_split (R := fun s t => LamSettled s → LamSettled t) (d := d)
    (fun _ => id) (fun h k => k ∘ h) workLaw_lamSettled.turn (.station .lam) (fun _ _ _ => runTaker_settled _) s
  exact after (lamTest_settled v)

end Offer

/-! ## Windows, watches and entries (R59, R126, R156) -/

section Passed

theorem windowPassed_grown {g h : Segment} (grown : Grown g h) (job : JobDef) (tol : Nat) (p : Word32) (m : NextMark) :
    windowPassed job tol p h m = windowPassed job tol p g m := by
  rw [grown.same]
  rfl

theorem takeAdvance_windows (only : NewestOnly (s.lane l)) {g : Segment} {m : NextMark}
    (opened : openSeg ((takeAdvance d s).lane l) = some g) (next : g.next = some m)
    (few : ((takeAdvance d s).jobOf g).pitches.length ≤ 15) :
    windowPassed ((takeAdvance d s).jobOf g) ((takeAdvance d s).lane l).record.markTol (takeAdvance d s).tracker.p g m = false := by
  obtain ⟨v, before, after, inside, inside'⟩ := advance_split (R := WindowsOn l) (d := d)
    (fun _ only => ⟨only, fun h opened => ⟨h, opened, .refl h, rfl⟩⟩) WindowsOn.trans
    (fun s => (segsOn_eq (by cases l <;> rfl)).windowsOn fun _ => rfl) (.marks l) (fun _ other => windowsOn_runTaker other) s
  obtain ⟨only', leaves⟩ := expireN_leaves 17 v (before only).1
  obtain ⟨-, grows⟩ := after only'
  obtain ⟨h, opened', grown, job⟩ := grows g opened
  obtain ⟨i, -, slot, waits⟩ := leaves h opened'
  have expired : Aside (fun _ => True) v (runTaker d (.marks l) v) := aside_expireWindows l v trivial
  have jobs : v.jobOf h = (takeAdvance d s).jobOf g := (expired.jobOf h).symm.trans job.symm
  have record : ((takeAdvance d s).lane l).record = (v.lane l).record :=
    (inside'.laneRecord l).trans ((inside_runTaker d (.marks l) v).laneRecord l)
  have tracker : (takeAdvance d s).tracker = v.tracker := inside'.tracker.trans (inside_runTaker d (.marks l) v).tracker
  have next' : h.next = some m := by rw [← next, grown.same]
  rw [windowPassed_grown grown, record, tracker, ← jobs]
  refine waits m next' fun m0 _ => ?_
  have same : v.jobOf i = v.jobOf h := by rw [State.jobOf, State.jobOf, slot]
  rw [same, jobs]
  cases m0 <;> simp only [pitchesLeft] <;> omega

/-- Every segment of a lane comes of one of its segments, of the same job. -/
def TracesOn (l : Lane) (s t : State) : Prop :=
  ∀ h ∈ (t.lane l).segs, ∃ g ∈ (s.lane l).segs, Traces g h ∧ t.jobOf h = s.jobOf g

theorem TracesOn.trans (h : TracesOn l s t) (k : TracesOn l t u) : TracesOn l s u := by
  intro x mem
  obtain ⟨y, mem', on, job⟩ := k x mem
  obtain ⟨z, mem'', on', job'⟩ := h y mem'
  exact ⟨z, mem'', on'.trans on, job.trans job'⟩

theorem Traces.jobOf {g h : Segment} (traces : Traces g h) (s : State) : s.jobOf h = s.jobOf g := by
  rw [State.jobOf, State.jobOf, traces.slot]

theorem Aside.tracesOn {own : Taker → Prop} (h : Aside own s t) : TracesOn l s t := fun x mem => by
  obtain ⟨g, mem', on⟩ := h.segs l x mem
  exact ⟨g, mem', on, (h.jobOf x).trans (on.jobOf s)⟩

theorem tracesOn_same (segs : (t.lane l).segs = (s.lane l).segs) (jobs : t.jobs = s.jobs) : TracesOn l s t := fun x mem =>
  ⟨x, segs ▸ mem, .refl x, jobOf_congr jobs x⟩

theorem tracesOn_runTaker (k : Taker) (s : State) : TracesOn l s (runTaker d k s) := by
  by_cases absence : k = .absence
  · subst absence
    obtain same | ⟨-, n, same | same⟩ := takeAbsence_cases d s
    · rw [runTaker, same]
      exact tracesOn_same rfl rfl
    · rw [runTaker, same]
      exact tracesOn_same (by cases l <;> rfl) rfl
    · rw [runTaker, same]
      intro x mem
      rw [(webBreak_lane _ l).1] at mem
      cases mem
  · by_cases splices : k = .splices
    · subst splices
      exact tracesOn_same (by cases l <;> rfl) rfl
    · exact (aside_runTaker absence splices s).tracesOn

theorem shortTest_leaves {job : JobDef} {p : Word32} {g : Segment} (waiting : (shortTest job p g).1.watch.state = .waiting) :
    reaches p (trimFirst job (shortTest job p g).1) = false := by
  cases state : g.watch.state with
  | waiting =>
    cases reached : reaches p (trimFirst job g) with
    | false =>
      rw [shortTest_waits state reached]
      exact reached
    | true =>
      rw [shortTest_enters state reached] at waiting
      dsimp only at waiting
      split at waiting <;> cases waiting
  | short =>
    rw [shortTest_measures state] at waiting
    dsimp only at waiting
    split at waiting <;> cases waiting
  | ended =>
    rw [shortTest_ended state, state] at waiting
    cases waiting

theorem takeAdvance_watches {g : Segment} (mem : g ∈ ((takeAdvance d s).lane l).segs) (waiting : g.watch.state = .waiting) :
    reaches ((takeAdvance d s).tracker.p - pu (recordOr ((takeAdvance d s).station (trimmerOf l))).dist)
      (g.coord (((takeAdvance d s).jobOf g).cuts.headD 0)) = false := by
  obtain ⟨v, -, after, -, inside'⟩ := advance_split (R := TracesOn l) (d := d)
    (fun _ => tracesOn_same rfl rfl) TracesOn.trans (fun s => tracesOn_same (by cases l <;> rfl) rfl) (.trimShort l)
    (fun k _ => tracesOn_runTaker k) s
  have inside := (inside_runTaker d (.trimShort l) v).trans inside'
  obtain ⟨h, mem', on, job⟩ := after g mem
  have waiting' := on.waits waiting
  rw [runTaker, testShort_segs] at mem'
  obtain ⟨x, -, rfl⟩ := List.mem_map.mp mem'
  have left := shortTest_leaves waiting'
  have place : (takeAdvance d s).tracker.p - pu (recordOr ((takeAdvance d s).station (trimmerOf l))).dist = trimPos l v := by
    rw [trimPos, inside.tracker, recordOr, inside.stationRecord, recordOr]
  have jobs : (takeAdvance d s).jobOf g = v.jobOf x := by
    exact (job.trans ((aside_testShort (own := fun _ => True) l v).jobOf _)).trans ((traces_shortTest _ _ x).jobOf v)
  rw [place, jobs, Segment.coord, on.anchorP, on.anchorX, on.stretch]
  exact left

theorem runTaker_zones (k : Taker) (s : State) : ∀ e ∈ (runTaker d k s).nip.zones, e ∈ s.nip.zones := by
  by_cases absence : k = .absence
  · subst absence
    obtain same | ⟨-, n, same | same⟩ := takeAbsence_cases d s
    · rw [runTaker, same]
      exact fun _ mem => mem
    · rw [runTaker, same]
      exact fun _ mem => mem
    · rw [runTaker, same]
      exact webBreak_zones _
  · by_cases splices : k = .splices
    · subst splices
      exact fun _ mem => mem
    · exact (aside_runTaker absence splices s).zones

theorem recordOr_congr {x y : StationState} (h : y.record = x.record) : recordOr y = recordOr x := by simp only [recordOr, h]

theorem takeAdvance_zones {e : ZoneEntry} (mem : e ∈ (takeAdvance d s).nip.zones) :
    precedes e.b ((takeAdvance d s).tracker.p - pu (recordOr (takeAdvance d s).lam).dist) = false := by
  obtain ⟨v, -, after, -, inside'⟩ := advance_split (R := fun s t => ∀ e ∈ t.nip.zones, e ∈ s.nip.zones) (d := d)
    (fun _ _ mem => mem) (fun h k e mem => h e (k e mem)) (fun _ _ mem => mem) .zones (fun k _ => runTaker_zones k) s
  have inside := (inside_passZones v).trans inside'
  have mem' := after e mem
  rw [runTaker, passZones_zones, List.mem_filter, Bool.not_eq_true'] at mem'
  have place : (takeAdvance d s).tracker.p - pu (recordOr (takeAdvance d s).lam).dist = lamPos v := by
    have record : recordOr (takeAdvance d s).lam = recordOr v.lam := recordOr_congr (inside.stationRecord .lam)
    rw [lamPos, inside.tracker, record]
  rw [place]
  exact mem'.2

end Passed

/-! ## The Web Event Unit (R169, R170, R174) -/

section Web

/-- A lane that no LANE START touches stays DISABLED. -/
theorem Evolves.staysDisabled {start : Lane → Prop} {alone : Prop} {b : Bool} (e : Evolves start alone b s t) (l : Lane)
    (never : ¬start l) : (s.lane l).mode = .disabled → (t.lane l).mode = .disabled := by
  induction e with
  | @trans b s t u _ _ ih1 ih2 => exact ih2 ∘ ih1
  | settled _ _ ih => exact ih
  | lane b s m y step =>
    intro before
    by_cases same : l = m
    · subst same
      rw [State.lane_setLane]
      rcases step.mode with e | ⟨e, -⟩ | ⟨-, running⟩ | ⟨allowed, -⟩
      · exact e.trans before
      · exact e
      · rw [before] at running
        cases running
      · exact absurd allowed never
    · rwa [State.lane_setLane_ne s m l y same]
  | registers b s m slot r g y _ _ _ step =>
    intro before
    by_cases same : l = m
    · subst same
      rw [step.running] at before
      cases before
    · have kept : ((s.modSlot slot takeCopy).setLane m y).lane l = s.lane l := by
        rw [State.lane_setLane_ne _ m l y same, modSlot_lane]
      exact (congrArg LaneState.mode kept).trans before
  | leaves b s m g _ _ =>
    intro before
    rw [unmap_lane]
    by_cases same : l = m
    · subst same
      rw [State.lane_setLane]
      exact before
    · rwa [State.lane_setLane_ne s m l _ same]
  | station b s st y _ => cases st <;> exact id
  | cold b s => exact fun _ => by cases l <;> rfl
  | warm b s keep answered => exact fun _ => by cases l <;> rfl
  | _ => cases l <;> exact id

/-- The Web Event Unit as it was but for splice entries that are gone; an empty map of a DISABLED lane stays so. -/
def WebOn (s t : State) : Prop :=
  (∃ f, t.web = { s.web with splices := s.web.splices.filter f }) ∧
    ∀ l, (s.lane l).segs = [] ∧ (s.lane l).mode = .disabled → (t.lane l).segs = [] ∧ (t.lane l).mode = .disabled

theorem WebOn.trans (h : WebOn s t) (k : WebOn t u) : WebOn s u := by
  obtain ⟨⟨f, web⟩, lanes⟩ := h
  obtain ⟨⟨f', web'⟩, lanes'⟩ := k
  refine ⟨⟨fun x => f' x && f x, ?_⟩, fun l held => lanes' l (lanes l held)⟩
  rw [web', web, List.filter_filter]

theorem webOn_same (web : t.web = s.web) (lanes : ∀ l, t.lane l = s.lane l) : WebOn s t := by
  refine ⟨⟨fun _ => true, ?_⟩, fun l held => lanes l ▸ held⟩
  rw [web, List.filter_true]

theorem webOn_runTaker {k : Taker} (other : k ≠ .absence) (s : State) : WebOn s (runTaker d k s) := by
  refine ⟨?_, fun l ⟨empty, disabled⟩ => ⟨?_, ?_⟩⟩
  · by_cases splices : k = .splices
    · subst splices
      exact ⟨_, rfl⟩
    · refine ⟨fun _ => true, ?_⟩
      rw [(aside_runTaker other splices s).web, List.filter_true]
  · refine List.eq_nil_iff_forall_not_mem.mpr fun x mem => ?_
    obtain ⟨g, mem', -⟩ := tracesOn_runTaker (l := l) k s x mem
    rw [empty] at mem'
    cases mem'
  · exact (evolves_runTaker (start := fun _ => False) (alone := False) (b := false) d k s).staysDisabled l id disabled

/-- The splice list as it was. -/
def SplicesKept (s t : State) : Prop := t.web.splices = s.web.splices

theorem SplicesKept.trans (h : SplicesKept s t) (k : SplicesKept t u) : SplicesKept s u := Eq.trans k h

theorem unbroken_splices {y : Taker} (other : y ≠ .splices) (s : State) : Unbroken SplicesKept s (runTaker d y s) :=
  unbroken_runTaker (Q := SplicesKept) (own := .splices) (fun _ => rfl) (fun _ _ => rfl)
    (fun absence splices s => congrArg WebUnit.splices (aside_runTaker absence splices s).web) (fun h => absurd rfl h) other s

theorem takeAdvance_splices (whole : (takeAdvance d s).web.broken = s.web.broken) :
    (takeAdvance d s).web.splices = s.web.splices.filter (fun x => !precedes x s.tracker.p) := by
  obtain ⟨v, before, after, inside, -⟩ := advance_split (R := Unbroken SplicesKept) (d := d)
    (fun _ => .of rfl rfl) (fun h k => h.trans SplicesKept.trans k) (fun s => .of rfl rfl) .splices
    (fun _ other => unbroken_splices other) s
  have same : (runTaker d .splices v).web.broken = v.web.broken := rfl
  obtain ⟨kept, kept'⟩ := before.both same after whole
  have passed : (runTaker d .splices v).web.splices = v.web.splices.filter (fun x => !precedes x v.tracker.p) := rfl
  calc (takeAdvance d s).web.splices
      _ = (runTaker d .splices v).web.splices := kept'
      _ = v.web.splices.filter (fun x => !precedes x v.tracker.p) := passed
      _ = s.web.splices.filter (fun x => !precedes x s.tracker.p) := by rw [show v.web.splices = s.web.splices from kept, inside.tracker]

theorem takeAdvance_absence (s : State) : ∃ v, WebOn s v ∧ WebOn (takeAbsence d v) (takeAdvance d s) ∧ Inside s v ∧
    Inside (takeAbsence d v) (takeAdvance d s) :=
  advance_split (R := WebOn) (d := d) (fun _ => webOn_same rfl fun _ => rfl) WebOn.trans
    (fun s => webOn_same rfl fun l => by cases l <;> rfl) .absence (fun _ other => webOn_runTaker other) s

theorem takeAdvance_idle (idle : s.web.present = true ∨ s.web.broken = true) : (takeAdvance d s).web =
    { s.web with splices := s.web.splices.filter (fun x => !precedes x s.tracker.p) } := by
  obtain ⟨v, ⟨⟨f, web⟩, -⟩, ⟨⟨f', web'⟩, -⟩, -, -⟩ := takeAdvance_absence (d := d) s
  have idle' : v.web.present = true ∨ v.web.broken = true := by rwa [web]
  rw [takeAbsence_idle idle', web] at web'
  have splices := takeAdvance_splices (d := d) (s := s) (by rw [web'])
  rw [web'] at splices ⊢
  exact congrArg (fun x => { s.web with splices := x }) splices

theorem takeAdvance_counts (absent : s.web.present = false) (whole : s.web.broken = false)
    (below : ¬s.setup.db ≤ s.web.absence + d) : (takeAdvance d s).web =
      { s.web with absence := s.web.absence + d, splices := s.web.splices.filter (fun x => !precedes x s.tracker.p) } := by
  obtain ⟨v, ⟨⟨f, web⟩, -⟩, ⟨⟨f', web'⟩, -⟩, inside, -⟩ := takeAdvance_absence (d := d) s
  rw [takeAbsence_below (by rw [web]; exact absent) (by rw [web]; exact whole) (by rw [web, inside.setup]; exact below), web] at web'
  have splices := takeAdvance_splices (d := d) (s := s) (by rw [web'])
  rw [web'] at splices ⊢
  exact congrArg (fun x => { s.web with absence := s.web.absence + d, splices := x }) splices

theorem takeAdvance_breaks (absent : s.web.present = false) (whole : s.web.broken = false)
    (reached : s.setup.db ≤ s.web.absence + d) :
    (takeAdvance d s).web = { s.web with absence := 0, broken := true, profile := none, splices := [] } ∧
      (∀ l, ((takeAdvance d s).lane l).segs = [] ∧ ((takeAdvance d s).lane l).mode = .disabled) ∧
      attnHas (takeAdvance d s).mgmt.flags prioWebBreak = true := by
  obtain ⟨v, ⟨⟨f, web⟩, -⟩, ⟨⟨f', web'⟩, lanes⟩, inside, inside'⟩ := takeAdvance_absence (d := d) s
  have broke := takeAbsence_breaks (d := d) (s := v) (by rw [web]; exact absent) (by rw [web]; exact whole)
    (by rw [web, inside.setup]; exact reached)
  rw [broke] at web' lanes inside'
  refine ⟨?_, fun l => lanes l (webBreak_lane _ l), attnHas_mono inside'.flags ?_⟩
  · rw [web', webBreak_web]
    rw [web]
    rfl
  · rw [webBreak_eq]
    exact attnHas_raise (by decide) (by decide) _

end Web

/-! ## The advance -/

/-- An advance of P is taken by every block. -/
theorem advanceTaken {x : Tracker} (only : ∀ l, NewestOnly (s.lane l)) (moved : (x.p - s.tracker.p).toNat = d) :
    AdvanceTaken s (takeAdvance d { s with tracker := x }) := by
  have lane : ∀ l, State.lane { s with tracker := x } l = s.lane l := fun l => by cases l <;> rfl
  have station : ∀ st, State.station { s with tracker := x } st = s.station st := fun st => by cases st <;> rfl
  have position : (takeAdvance d { s with tracker := x }).tracker.p = x.p := congrArg Tracker.p (inside_takeAdvance d _).tracker
  exact {
    windows := fun l g m opened next few => takeAdvance_windows (by rw [lane]; exact only l) opened next few
    watches := fun l g mem waiting => takeAdvance_watches mem waiting
    cuts := fun whole l a head => by
      obtain ⟨settled, held⟩ := takeAdvance_cuts (l := l) (d := d) (s := { s with tracker := x }) whole
      obtain waits | ⟨ready, busy⟩ := settled a head
      · obtain ⟨early, ahead, within⟩ := cutFate_settled waits
        exact ⟨early, ahead, fun busy => within (held (by rwa [station]))⟩
      · rw [station] at ready
        rw [busy, ready]
        exact ⟨nofun, by simp, nofun⟩
    knives := fun whole l a head => by
      obtain waits | busy := takeAdvance_knives (l := l) (d := d) (s := { s with tracker := x }) whole a head
      · exact trimFate_settled waits
      · rw [busy]
        exact ⟨nofun, by simp⟩
    offer := fun o offered ready => by
      have waits := takeAdvance_settled d { s with tracker := x } o offered
      rw [Bool.eq_false_iff, Ne, lamReady_iff, not_and, Bool.not_eq_true] at waits
      exact waits ready
    zones := fun e mem => takeAdvance_zones mem
    absence := fun absent whole => by
      rw [position, moved]
      split
      next reached => exact takeAdvance_breaks (s := { s with tracker := x }) absent whole reached
      next below => exact takeAdvance_counts (s := { s with tracker := x }) absent whole below
    present := fun idle => by
      rw [position]
      exact takeAdvance_idle (s := { s with tracker := x }) idle }

theorem AdvanceTaken.endOfEvent (h : AdvanceTaken s u) (ends : EndOfEvent u t) : AdvanceTaken s t := by
  rw [ends.rest]
  exact ⟨h.windows, h.watches, h.cuts, h.knives, h.offer, h.zones, h.absence, h.present⟩

/-- Every position but that of the state before comes of an advance that every block takes. -/
def Advances (s u : State) : Prop := u.tracker.p ≠ s.tracker.p → AdvanceTaken s u

theorem advances_still (still : u.tracker.p = s.tracker.p) : Advances s u := fun moved => absurd still moved

theorem advances_movePos {x : Tracker} (only : ∀ l, NewestOnly (s.lane l)) (p : Word32) (from_p : x.p = s.tracker.p) :
    Advances s (movePos p { s with tracker := x }) := by
  unfold movePos
  dsimp only
  split
  next same => exact advances_still (same.trans from_p)
  · exact fun _ => advanceTaken only (by rw [from_p])

theorem advances_enterLost {x : Tracker} (from_p : x.p = s.tracker.p) : Advances s (enterLost { s with tracker := x }) :=
  advances_still (by rw [enterLost_tracker]; exact from_p)

section Sample

variable (only : ∀ l, NewestOnly (s.lane l))
include only

theorem advances_ownRule {x : Tracker} (from_p : x.p = s.tracker.p) : Advances s (ownRule { s with tracker := x }) := by
  unfold ownRule
  split
  · exact advances_movePos only _ from_p
  · unfold ruleEstimated
    dsimp only
    split
    · exact advances_movePos only _ from_p
    · split
      · exact advances_still from_p
      · exact advances_enterLost from_p
  · unfold ruleHolding
    dsimp only
    split
    · exact advances_movePos only _ from_p
    · split
      · exact advances_still from_p
      · exact advances_enterLost from_p
  · exact advances_still from_p
  · exact advances_still from_p

theorem advances_takeSample (c stamp : Word32) : Advances s (takeSample c stamp s) := by
  unfold takeSample
  split
  · exact advances_still rfl
  · exact advances_still rfl
  · exact advances_still rfl
  · unfold takeDelta
    dsimp only
    split
    · unfold rejectJump
      dsimp only
      split
      · exact advances_enterLost rfl
      · exact advances_still rfl
    · split
      · exact advances_enterLost rfl
      · exact advances_ownRule only rfl

theorem advances_estimateTick : Advances s (estimateTick s) := by
  unfold estimateTick
  dsimp only
  split
  · split
    · exact advances_enterLost rfl
    · split
      · exact advances_enterLost rfl
      · exact advances_movePos only _ rfl
  · exact advances_still rfl

end Sample

theorem Advances.exec {c : Instr} (h : Advances s u) (event : exec c s = .next (finish u)) {t : State}
    (step : exec c s = .next t) (moved : t.tracker.p ≠ s.tracker.p) : AdvanceTaken s t := by
  rw [event] at step
  cases step
  rw [finish_tracker] at moved
  exact (h moved).endOfEvent (endOfEvent_finish u)

/-- Settles O16: the event moves P by a sample's own rule or an estimate tick, and every block takes that advance once. -/
theorem advanceIsTakenByAll : Obligations.AdvanceIsTakenByAll := by
  intro c s t agrees event step moved
  have only : ∀ l, NewestOnly (s.lane l) := agrees.closed
  obtain rfl | ⟨count, stamp, rfl⟩ := event
  · exact (advances_estimateTick only).exec (exec_estimateTick s) step moved
  · exact (advances_takeSample only count stamp).exec (exec_posSample count stamp s) step moved

end Sys2Proof.Machine
end

section
/-! PROOFS. The web break: both maps spoiled, the Web Event Unit cleared, and a CLOSED nip released (R74, R90, R91, R137, R170). -/

namespace Sys2Proof.Machine

variable {l : Lane} {s t u : State}

theorem breakDue_of (absent : s.web.present = false) (whole : s.web.broken = false) (reached : s.setup.db ≤ s.web.absence) :
    breakDue s = true := by
  rw [breakDue, absent, whole, decide_eq_true reached]
  rfl

theorem exec_webBreak (due : breakDue s = true) : exec .webBreak s = .next (finish (webBreak s)) := by
  show Host.Outcome.next (finish (if breakDue s then webBreak s else s)) = _
  rw [if_pos due]

theorem inside_brokenMaps (s : State) : Inside s (brokenMaps s) :=
  ((inside_web s { s.web with broken := true, absence := 0 } rfl).trans (inside_spoilBoth .webBreak _)).trans
    (inside_web _ { (spoilBoth .webBreak { s with web := { s.web with broken := true, absence := 0 } }).web with
      profile := none, splices := [] } rfl)

theorem brokenMaps_zones (s : State) : (brokenMaps s).nip.zones = s.nip.zones.filter (fun e => !inMap (s.lane e.lane) e.seg) := by
  show (spoilBoth .webBreak { s with web := { s.web with broken := true, absence := 0 } }).nip.zones = _
  rw [spoilBoth_nip]
  exact List.filter_congr fun e _ => by cases e.lane <;> rfl

theorem brokenMaps_spoiled (s : State) (l : Lane) : LaneSpoiled l s (brokenMaps s) := by
  have spoiled := laneSpoiled_spoilBoth l .webBreak { s with web := { s.web with broken := true, absence := 0 } }
  refine (spoiled.later ?_ fun st _ => ?_).earlier ?_ fun st _ => ?_
  · cases l <;> rfl
  · cases st <;> rfl
  · cases l <;> rfl
  · cases st <;> rfl

/-- A filter of the entries that no map holds is empty where every entry is owned. -/
theorem unowned_nil (owned : ∀ e ∈ s.nip.zones, inMap (s.lane e.lane) e.seg = true) :
    s.nip.zones.filter (fun e => !inMap (s.lane e.lane) e.seg) = [] :=
  List.filter_eq_nil_iff.mpr fun e mem => by rw [owned e mem]; decide

theorem webBreak_releases (owned : ∀ e ∈ s.nip.zones, inMap (s.lane e.lane) e.seg = true) (closed : s.nip.commanded = .closed)
    (ready : s.lam.mode = .ready) (slow : s.tracker.speed ≤ 256000) (quick : (recordOr s.lam).latency ≤ 200000) :
    NipReleased (brokenMaps s) (nipChange (brokenMaps s)) ∧ (brokenMaps s).nip.zones = [] := by
  have empty : (brokenMaps s).nip.zones = [] := (brokenMaps_zones s).trans (unowned_nil owned)
  have inside := inside_brokenMaps s
  have commanded : (brokenMaps s).nip.commanded = s.nip.commanded := by
    show (spoilBoth .webBreak { s with web := { s.web with broken := true, absence := 0 } }).nip.commanded = _
    rw [spoilBoth_nip]
  have lam : (brokenMaps s).lam = s.lam := spoilBoth_lam .webBreak _
  refine ⟨nipChange_releases (.inl ⟨commanded.trans closed, empty⟩) (by rw [lam]; exact ready) ?_, empty⟩
  exact toGo_lamPos_slow (by rw [inside.tracker]; exact slow) (by rw [lam]; exact quick)

theorem webBreak_reports (room : (s.laneA.segs ++ s.laneB.segs).length + s.mgmt.reports.length ≤ 16)
    (each : ∀ l, (s.lane l).trimQueue = [] ∧ ((s.lane l).segs.map (fun g => g.id)).Nodup) :
    (webBreak s).mgmt.reports = s.mgmt.reports ++
      (s.laneA.segs.map (spoiledReport .a .webBreak) ++ s.laneB.segs.map (spoiledReport .b .webBreak)) := by
  rw [webBreak_eq, raise_reports, (nipWork_nipChange _).reports]
  exact spoilBoth_reports .webBreak { s with web := { s.web with broken := true, absence := 0 } } room fun
    | .a => each .a
    | .b => each .b

/-- Settles O25: both maps are spoiled, lane A's first, and the recomputation releases a CLOSED nip. -/
theorem webBreakSpoilsBothLanes : Obligations.WebBreakSpoilsBothLanes := by
  intro s absent whole reached
  have ends := endOfEvent_finish (webBreak s)
  have inside := inside_webBreak s
  have work : NipWork (brokenMaps s) (webBreak s) := (nipWork_nipChange _).trans (nipWork_raise prioWebBreak _)
  refine ⟨finish (webBreak s), exec_webBreak (breakDue_of absent whole reached), ?_, fun l => ?_, ?_, ?_, ?_, ?_, ?_⟩
  · rw [ends.web, webBreak_web]
  · exact ((brokenMaps_spoiled s l).nipWork work).endOfEvent ends
  · rw [ends.nip, work.zones, brokenMaps_zones]
  · rw [ends.flags, webBreak_eq]
    exact attnHas_raise (by decide) (by decide) _
  · rw [ends.tracker, inside.tracker]
  · intro room full each
    rw [finish_reports ((ownRoom_congr inside.north).trans_lt full)]
    exact webBreak_reports room each
  · intro owned closed ready slow quick
    obtain ⟨released, empty⟩ := webBreak_releases owned closed ready slow quick
    obtain ⟨plan, offer⟩ := released.cleared empty
    rw [ends.nip, ← State.station_lam, ends.station, State.station_lam, webBreak_eq, raise_nip, raise_lam]
    exact ⟨released.commanded, released.busy, plan, offer⟩

end Sys2Proof.Machine
end

section
/-! PROOFS. Lanes that drain and stop (R72 to R74, R90, R91, R118, R137). -/

namespace Sys2Proof.Machine

variable {l : Lane} {act : Action} {fin : FinalState} {s t u : State}

/-! ## Work at the stations of a lane with an empty map -/

section Bare

/-- Work at a lane's own stations that leaves its map empty, and the other lane, the nip and the report queue alone. -/
structure Bare (l : Lane) (s t : State) : Prop where
  segs : (t.lane l).segs = []
  mode : (t.lane l).mode = (s.lane l).mode
  others : ∀ m, m ≠ l → t.lane m = s.lane m
  nip : t.nip = s.nip
  lam : t.lam = s.lam
  reports : t.mgmt.reports = s.mgmt.reports

theorem Bare.trans (h : Bare l s t) (k : Bare l t u) : Bare l s u where
  segs := k.segs
  mode := k.mode.trans h.mode
  others m apart := (k.others m apart).trans (h.others m apart)
  nip := k.nip.trans h.nip
  lam := k.lam.trans h.lam
  reports := k.reports.trans h.reports

variable (empty : (s.lane l).segs = [])
include empty

theorem bare_refl : Bare l s s := ⟨empty, rfl, fun _ _ => rfl, rfl, rfl, rfl⟩

theorem modSeg_bare (id : Nat) (f : Segment → Segment) : s.modSeg l id f = s := by
  have same : s.modSeg l id f = s.modLane l (fun x => x) := modLane_congr (by rw [empty]; exact congrArg (fun y => { s.lane l with segs := y }) empty.symm)
  rw [same]
  cases l <;> rfl

theorem mapFinal_bare (act : Action) (fin : FinalState) : mapFinal l act fin s = s := by
  unfold mapFinal
  split
  · rw [modSeg_bare empty, retireTest, State.seg?, empty]
    rfl
  · rfl

theorem flagOwner_bare (act : Action) (d : BitVec 12) : flagOwner l act d s = s := by
  unfold flagOwner
  split
  · exact modSeg_bare empty _ _
  · rfl

theorem flagEstimated_bare (act : Action) : flagEstimated l act s = s := by
  unfold flagEstimated
  split
  · split
    · exact modSeg_bare empty _ _
    · rfl
  · rfl

theorem bare_modLane {f : LaneState → LaneState} (segs : (f (s.lane l)).segs = []) (mode : (f (s.lane l)).mode = (s.lane l).mode) :
    Bare l s (s.modLane l f) where
  segs := by rw [State.lane_modLane]; exact segs
  mode := by rw [State.lane_modLane]; exact mode
  others m apart := State.lane_modLane_ne s l m f apart
  nip := State.nip_modLane ..
  lam := by cases l <;> rfl
  reports := by cases l <;> rfl

theorem bare_popCut : Bare l s (popCut l s) := bare_modLane empty empty rfl

theorem bare_popTrim : Bare l s (popTrim l s) := bare_modLane empty empty rfl

theorem bare_raise (p : Nat) : Bare l s (raise p s) where
  segs := by rw [raise_lane]; exact empty
  mode := by rw [raise_lane]
  others m _ := raise_lane p s m
  nip := raise_nip p s
  lam := raise_lam p s
  reports := raise_reports p s

theorem bare_issueCore {st : Station} (notLam : st ≠ .lam) (act : Action) (delay est : Nat) :
    Bare l s (issueCore st act delay est s) where
  segs := by rw [issueCore_lane]; exact empty
  mode := by rw [issueCore_lane]
  others m _ := by rw [issueCore_lane]
  nip := by rw [issueCore_nip]
  lam := issueCore_station_ne (st := st) act delay est s notLam.symm
  reports := issueCore_reports (st := st) act delay est s

theorem bare_trimFinal (key : Nat) (done : Bool) : Bare l s (trimFinal l key done s) := by
  have planned : Bare l s (s.modLane l (fun x =>
      { planFinal key done x with segs := x.segs.map (fun g => watchFinal (s.jobOf g) (trimPos l s) key done g) })) :=
    bare_modLane empty (by dsimp only; rw [empty]; rfl) (by
      unfold planFinal
      dsimp only
      split
      · split <;> rfl
      · rfl)
  unfold trimFinal
  dsimp only
  split
  · exact planned.trans (bare_raise planned.segs _)
  · exact planned

theorem bare_issueCut (act : Action) : Bare l s (issueCut l act s) := by
  have popped := bare_popCut empty
  have issued := fun delay => popped.trans (bare_issueCore popped.segs (cutter_ne_lam l) act delay 0)
  unfold issueCut
  dsimp only
  rw [flagEstimated_bare (s := issueCore (cutterOf l) act _ 0 (popCut l s)) (issued _).segs]
  split
  · split
    · rw [modSeg_bare (issued _).segs]
      exact issued _
    · exact issued _
  · exact issued _

/-- A head that leaves unsent. -/
theorem bare_gone (act : Action) (fin : FinalState) (prio : Nat) (d : BitVec 12) :
    Bare l s (mapFinal l act fin (cutFlagged l act prio d s)) := by
  have popped := bare_popCut empty
  have flagged : cutFlagged l act prio d s = raise prio (popCut l s) := by rw [cutFlagged, flagOwner_bare popped.segs]
  have raised := popped.trans (bare_raise popped.segs prio)
  rw [flagged, mapFinal_bare raised.segs]
  exact raised

end Bare

theorem bare_cutTestN : ∀ (n : Nat) {s : State}, (s.lane l).segs = [] → Bare l s (cutTestN l n s)
  | 0, _, empty => bare_refl empty
  | n + 1, s, empty => by
    unfold cutTestN
    split
    · exact bare_refl empty
    next act _ _ =>
      split
      · exact bare_refl empty
      · exact bare_issueCut empty act
      · have gone := bare_gone empty act .skipped prioCutMissed defCutMissed
        exact gone.trans (bare_cutTestN n gone.segs)
      · have gone := bare_gone empty act .cancelled prioStationFault defStationFault
        exact gone.trans (bare_cutTestN n gone.segs)

theorem bare_issueKnife (empty : (s.lane l).segs = []) (act : Action) : Bare l s (issueKnife l act s) := by
  have popped := bare_popTrim empty
  have issued := fun delay est => popped.trans (bare_issueCore popped.segs (trimmer_ne_lam l) act delay est)
  unfold issueKnife trimIssued
  dsimp only
  rw [flagEstimated_bare (s := issueCore (trimmerOf l) act _ _ (popTrim l s)) (issued _ _).segs, modSeg_bare (issued _ _).segs]
  exact issued _ _

theorem bare_cancelKnife (empty : (s.lane l).segs = []) (act : Action) : Bare l s (cancelKnife l act s) := by
  have popped := bare_popTrim empty
  have raised := popped.trans (bare_raise popped.segs prioStationFault)
  have ended := raised.trans (bare_trimFinal raised.segs act.key (decide (FinalState.cancelled = .done)))
  unfold cancelKnife knifeFinal
  rw [flagOwner_bare popped.segs, mapFinal_bare ended.segs]
  exact ended

theorem bare_trimTestN : ∀ (n : Nat) {s : State}, (s.lane l).segs = [] → Bare l s (trimTestN l n s)
  | 0, _, empty => bare_refl empty
  | n + 1, s, empty => by
    unfold trimTestN
    split
    · exact bare_refl empty
    next act _ _ =>
      split
      · exact bare_refl empty
      · exact bare_issueKnife empty act
      · exact bare_refl empty
      · have gone := bare_cancelKnife empty act
        exact gone.trans (bare_trimTestN n gone.segs)

/-! ## A lane stopped (R73, R91, R101, R137) -/

/-- The lane spoiled and DISABLED, and its stations' tests made over what is left in its queues. -/
def stopped (l : Lane) (s : State) : State :=
  issueTest (trimmerOf l) (issueTest (cutterOf l) (disableLane l (spoilLane l .stop s)))

theorem stopLane_eq (l : Lane) (s : State) : stopLane l s =
    nipChangeIf (decide ((disableLane l (spoilLane l .stop s)).nip.zones ≠ s.nip.zones)) (stopped l s) := rfl

section Stopped

variable (l : Lane) (s : State)

theorem bare_stopped : Bare l (disableLane l (spoilLane l .stop s)) (stopped l s) := by
  have empty := (laneSpoiled_disabled l .stop s).segs
  have cut : ∀ v : State, (v.lane l).segs = [] → Bare l v (issueTest (cutterOf l) v) := fun v none => by
    cases l <;> exact bare_cutTestN _ none
  have trim : ∀ v : State, (v.lane l).segs = [] → Bare l v (issueTest (trimmerOf l) v) := fun v none => by
    cases l <;> exact bare_trimTestN _ none
  exact (cut _ empty).trans (trim _ (cut _ empty).segs)

theorem aside_stopped : Aside (fun _ => True) (disableLane l (spoilLane l .stop s)) (stopped l s) :=
  (aside_issueTest (cutterOf l) _ trivial).trans (aside_issueTest (trimmerOf l) _ trivial)

theorem queuesOn_stopped : QueuesOn ((disableLane l (spoilLane l .stop s)).lane l) ((stopped l s).lane l) :=
  ((workLaw_queuesOn l).issueTest (cutterOf l) _ fun _ => trivial).trans
    ((workLaw_queuesOn l).issueTest (trimmerOf l) _ fun _ => trivial)

theorem laneSpoiled_stopped : LaneSpoiled l s (stopped l s) := by
  have spoiled := laneSpoiled_disabled l .stop s
  have bare := bare_stopped l s
  have aside := aside_stopped l s
  have fixed := aside.fixed l
  simp only [laneFixed, Prod.mk.injEq] at fixed
  obtain ⟨record, stretch, -⟩ := fixed
  constructor
  case segs => exact bare.segs
  case mode => exact bare.mode.trans spoiled.mode
  case record => exact record.trans spoiled.record
  case stretch => exact stretch.trans spoiled.stretch
  case queues =>
    intro owned
    obtain ⟨cuts, knives⟩ := spoiled.queues owned
    have on := queuesOn_stopped l s
    exact ⟨List.suffix_nil.mp (cuts ▸ on.cuts), List.suffix_nil.mp (knives ▸ on.knives)⟩
  case orphans =>
    intro st mine busy i k held owner mapped
    obtain ⟨busy', held'⟩ := spoiled.orphans st mine busy i k held owner mapped
    obtain same | issued := aside.held st
    · rw [same]
      exact ⟨busy', held'⟩
    · have ready := issued.1
      rw [busy'] at ready
      cases ready

theorem stopped_nip : (stopped l s).nip =
    { s.nip with zones := s.nip.zones.filter (fun e => !(decide (e.lane = l) && inMap (s.lane l) e.seg)) } := by
  rw [(bare_stopped l s).nip]
  have nip : (disableLane l (spoilLane l .stop s)).nip = (spoilLane l .stop s).nip := State.nip_modLane ..
  rw [nip, spoilLane_nip]

theorem stopped_lam : (stopped l s).lam = s.lam := by
  rw [(bare_stopped l s).lam]
  have lam : (disableLane l (spoilLane l .stop s)).lam = (spoilLane l .stop s).lam := by cases l <;> rfl
  rw [lam]
  exact spoilLane_station_ne l .stop s (cutter_ne_lam l).symm (trimmer_ne_lam l).symm

theorem stopped_web : (stopped l s).web = s.web := by
  rw [(aside_stopped l s).web]
  exact (State.web_modLane ..).trans (spoilLane_web l .stop s)

theorem inside_stopped : Inside s (stopped l s) :=
  (((inside_spoilLane l .stop s).trans (inside_disableLane l _)).trans (inside_issueTest (cutterOf l) _)).trans
    (inside_issueTest (trimmerOf l) _)

theorem stopped_others {m : Lane} (apart : m ≠ l) : (stopped l s).lane m = s.lane m := by
  rw [(bare_stopped l s).others m apart, disableLane, State.lane_modLane_ne _ _ _ _ apart, spoilLane_lane_ne apart]

theorem stopped_reports (room : (s.lane l).segs.length + s.mgmt.reports.length ≤ 16) (idle : (s.lane l).trimQueue = [])
    (nodup : ((s.lane l).segs.map (fun g => g.id)).Nodup) :
    (stopped l s).mgmt.reports = s.mgmt.reports ++ (s.lane l).segs.map (spoiledReport l .stop) := by
  rw [(bare_stopped l s).reports]
  have kept : (disableLane l (spoilLane l .stop s)).mgmt = (spoilLane l .stop s).mgmt := by cases l <;> rfl
  rw [kept]
  exact spoilAll_reports (s.lane l).segs s rfl nodup idle room

end Stopped

/-- A change of the plan leaves it current, whether or not the offer is issued at once (R129 to R131, R137). -/
theorem planCurrent_nipChange (s : State) : PlanCurrent (nipChange s) := by
  have current := planCurrent_recompute s
  rw [nipChange]
  cases offer : (recompute s).nip.offer with
  | none => rwa [lamTest_none offer]
  | some o =>
    rw [lamTest_some offer]
    split
    · exact planCurrent_recompute _
    · exact current

theorem nipChange_commanded_waits (h : s.lam.mode ≠ .ready) : (nipChange s).nip.commanded = s.nip.commanded := by
  obtain ⟨begun, nip⟩ := recompute_nip s
  rw [nipChange_waits h, nip]

/-! ## The requests -/

theorem exec_laneDrain (token : Byte) (body : List Byte) (s : State) :
    exec (.laneDrain token body) s = .next (serve 0x21#8 token (laneDrainReply body) s) := rfl

theorem exec_laneStop (token : Byte) (body : List Byte) (s : State) :
    exec (.laneStop token body) s = .next (serve 0x22#8 token (laneStopReply body) s) := rfl

theorem exec_laneDrained (l : Lane) (s : State) : exec (.laneDrained l) s = .next (finish (drainTest l s)) := rfl

theorem laneDrain_running (mode : (s.lane l).mode = .running) : laneDrainReply [BitVec.ofNat 8 (laneCode l)] s =
    accept (s.modLane l (fun x => { x with mode := if x.segs = [] then .disabled else .draining })) := by
  have drained : drainTest l (s.modLane l (fun x => { x with mode := .draining })) =
      s.modLane l (fun x => { x with mode := if x.segs = [] then .disabled else .draining }) := by
    unfold drainTest
    rw [State.lane_modLane]
    split
    next empty =>
      rw [modLane_modLane]
      have none : (s.lane l).segs = [] := empty.2
      exact modLane_congr (by simp only [none, if_true])
    next some =>
      refine modLane_congr ?_
      have held : (s.lane l).segs ≠ [] := fun none => some ⟨rfl, none⟩
      simp only [if_neg held]
  simp only [laneDrainReply, sized, List.length_singleton, if_true, onLane_code, mode, drained]

theorem laneDrain_draining (mode : (s.lane l).mode = .draining) : laneDrainReply [BitVec.ofNat 8 (laneCode l)] s = accept s := by
  simp only [laneDrainReply, sized, List.length_singleton, if_true, onLane_code, mode]

theorem laneDrain_disabled (mode : (s.lane l).mode = .disabled) :
    laneDrainReply [BitVec.ofNat 8 (laneCode l)] s = refuse .wrongState s := by
  simp only [laneDrainReply, sized, List.length_singleton, if_true, onLane_code, mode]

theorem laneStop_accepts (l : Lane) (s : State) : laneStopReply [BitVec.ofNat 8 (laneCode l)] s = accept (stopLane l s) := by
  simp only [laneStopReply, sized, List.length_singleton, if_true, onLane_code]

/-! ## What a LANE STOP leaves -/

section Stop

theorem nipWork_stopLane (l : Lane) (s : State) : NipWork (stopped l s) (stopLane l s) := nipWork_nipChangeIf _ _

theorem laneSpoiled_stopLane (l : Lane) (s : State) : LaneSpoiled l s (stopLane l s) :=
  (laneSpoiled_stopped l s).nipWork (nipWork_stopLane l s)

theorem stopLane_others {m : Lane} (apart : m ≠ l) : ((stopLane l s).lane m).mode = (s.lane m).mode := by
  rw [(nipWork_stopLane l s).mode, stopped_others l s apart]

theorem stopLane_replans {e : ZoneEntry} (mem : e ∈ s.nip.zones) (lane : e.lane = l) (held : inMap (s.lane l) e.seg = true) :
    stopLane l s = nipChange (stopped l s) := by
  have zones : (disableLane l (spoilLane l .stop s)).nip.zones =
      s.nip.zones.filter (fun e => !(decide (e.lane = l) && inMap (s.lane l) e.seg)) := by
    rw [← (bare_stopped l s).nip, stopped_nip]
  have changed : (disableLane l (spoilLane l .stop s)).nip.zones ≠ s.nip.zones := by
    rw [zones]
    intro same
    rw [← same] at mem
    have kept := (List.mem_filter.mp mem).2
    rw [lane, held, decide_eq_true rfl] at kept
    cases kept
  rw [stopLane_eq, nipChangeIf, decide_eq_true changed, if_pos rfl]

theorem stopLane_emptied (some : s.nip.zones ≠ []) (all : ∀ e ∈ s.nip.zones, e.lane = l ∧ inMap (s.lane l) e.seg = true) :
    stopLane l s = nipChange (stopped l s) ∧ (stopped l s).nip.zones = [] := by
  obtain ⟨e, mem⟩ := List.exists_mem_of_ne_nil _ some
  obtain ⟨lane, held⟩ := all e mem
  refine ⟨stopLane_replans mem lane held, ?_⟩
  rw [stopped_nip]
  exact List.filter_eq_nil_iff.mpr fun e mem => by
    obtain ⟨lane, held⟩ := all e mem
    rw [lane, held, decide_eq_true rfl]
    decide

theorem serve_reports {code token : Byte} {reply : State → Reply} (one : ownRoom s = 1) (accepts : reply s = accept u)
    (north : u.north = s.north) : (serve code token reply s).mgmt.reports = u.mgmt.reports := by
  rw [serve_room code token reply s (by omega), accepts]
  have room : ownRoom (answer code token (accept u)) < 2 := by
    have le := ownRoom_placeOwn_le (respFrame code token (accept u) (accept u).state) (accept u).state
    have same : ownRoom (accept u).state = 1 := (ownRoom_congr north).trans one
    unfold answer
    omega
  rw [finish_reports room]
  rfl

end Stop

/-- Settles O37: draining by the lane's state; a stop spoils the map, makes the tests of the emptied queues and replans. -/
theorem lanesDrainAndStop : Obligations.LanesDrainAndStop := by
  intro s l token
  refine ⟨fun draining empty => ⟨_, exec_laneDrained l s, ?_⟩, fun room => ⟨fun code bad => ⟨?_, ?_⟩, ?_, ?_⟩⟩
  · exact .of_finish (if_pos ⟨draining, empty⟩).symm
  · exact ⟨_, exec_laneDrain token [code] s, serve_answered room (show laneDrainReply [code] s = badField 0 s from onLane_bad bad s _)⟩
  · exact ⟨_, exec_laneStop token [code] s, serve_answered room (show laneStopReply [code] s = badField 0 s from onLane_bad bad s _)⟩
  · refine ⟨_, exec_laneDrain token _ s, fun running => ?_, fun draining => ?_, fun disabled => ?_⟩
    · exact serve_accepted room (laneDrain_running running) (inside_modLane l _ s rfl rfl).nodeAddr
    · exact serve_answered room (laneDrain_draining draining)
    · exact serve_answered room (laneDrain_disabled disabled)
  · have inside := inside_stopLane l s
    have answered := serve_accepted (code := 0x22#8) (token := token) room (laneStop_accepts l s) inside.nodeAddr
    have reported := fun one => serve_reports (code := 0x22#8) (token := token) one (laneStop_accepts l s) inside.north
    refine ⟨_, exec_laneStop token _ s, ?_⟩
    generalize serve 0x22#8 token (laneStopReply [BitVec.ofNat 8 (laneCode l)]) s = t at answered reported ⊢
    have before := inside_stopped l s
    refine ⟨?_, fun m apart => ?_, ?_, ?_, ?_, ?_, ?_, ?_, ?_, answered.carries⟩
    · exact (laneSpoiled_stopLane l s).later (answered.lane l) fun st _ => answered.station st
    · rw [answered.lane, stopLane_others apart]
    · exact answered.tracker.trans inside.tracker
    · exact answered.web.trans ((nipWork_stopLane l s).web.trans (stopped_web l s))
    · exact answered.setup.trans inside.setup
    · rw [answered.nip, (nipWork_stopLane l s).zones, stopped_nip]
    · intro fits one idle nodup
      rw [reported one, (nipWork_stopLane l s).reports, stopped_reports l s fits idle nodup]
    · rintro ⟨e, mem, lane, held⟩
      have current := planCurrent_nipChange (stopped l s)
      rw [← stopLane_replans mem lane held, PlanCurrent, (nipWork_stopLane l s).web, stopped_web, inside.setup] at current
      rw [answered.nip]
      exact current
    · intro some all closed
      obtain ⟨replanned, empty⟩ := stopLane_emptied some all
      have lam := stopped_lam l s
      have commanded : (stopped l s).nip.commanded = .closed := by rw [stopped_nip]; exact closed
      have wants : WantsRelease (stopped l s).nip := .inl ⟨commanded, empty⟩
      have place : lamPos (stopped l s) = s.tracker.p - pu (recordOr s.lam).dist := before.lamPos
      have plan : (stopLane l s).nip.plan = [] := by
        have current := planCurrent_nipChange (stopped l s)
        rw [PlanCurrent, (nipWork_nipChange _).zones, empty, planOf_nil] at current
        rw [replanned, current]
      rw [answered.nip, answered.lam]
      refine ⟨plan, fun ready slow quick => ?_, fun out => ?_⟩
      · have released := nipChange_releases wants (by rw [lam]; exact ready)
          (toGo_lamPos_slow (by rw [before.tracker]; exact slow) (by rw [lam]; exact quick))
        obtain ⟨id, last⟩ := released.last
        rw [replanned]
        exact ⟨released.commanded, released.busy, (released.cleared empty).2, id, by rw [last, place]⟩
      · have waits : (stopped l s).lam.mode ≠ .ready := by rw [lam]; exact out
        rw [replanned, nipChange_commanded_waits waits, nipChange_waits waits, recompute_release wants, place]
        exact ⟨commanded, rfl⟩

end Sys2Proof.Machine
end

section
/-! PROOFS. The plan and the flags of its conflict through the work at the stations (R86, R129, R131). -/

namespace Sys2Proof.Machine

variable {l : Lane} {s t u : State}

/-- The plan is that of the zone list, and the owners of a conflict's losers are flagged. -/
def PlanTold (s : State) : Prop := PlanCurrent s ∧ LosersFlagged s

theorem planTold_recompute (s : State) : PlanTold (recompute s) := ⟨planCurrent_recompute s, losersFlagged_recompute s⟩

/-- Every segment of a lane comes of one of its segments, its defect flags kept. -/
def FlagsOn (l : Lane) (s t : State) : Prop :=
  ∀ h ∈ (t.lane l).segs, ∃ g ∈ (s.lane l).segs, h.id = g.id ∧ h.flags &&& g.flags = g.flags

theorem SegsOn.flagsOn (on : SegsOn l s t) : FlagsOn l s t := fun h mem => by
  obtain ⟨g, gmem, on⟩ := on.before mem
  exact ⟨g, gmem, on.grown.id, on.grown.flags⟩

theorem PlanTold.through (told : PlanTold s) (inside : Inside s t) (segs : ∀ l, FlagsOn l s t) (plan : t.nip.plan = s.nip.plan)
    (zones : t.nip.zones = s.nip.zones) (web : t.web = s.web) : PlanTold t := by
  obtain ⟨current, flagged⟩ := told
  refine ⟨?_, fun conflict => ?_⟩
  · rw [PlanCurrent, plan, zones, web, inside.setup]
    exact current
  · rw [zones, web] at conflict
    obtain ⟨flag, owners⟩ := flagged conflict
    rw [zones, web, inside.setup]
    refine ⟨attnHas_mono inside.flags flag, fun e mem h hmem id => ?_⟩
    obtain ⟨g, gmem, same, grows⟩ := segs e.lane h hmem
    have held := owners e mem g gmem (same.symm.trans id)
    calc h.flags &&& _ = h.flags &&& (g.flags &&& _) := by rw [held]
      _ = (h.flags &&& g.flags) &&& _ := (BitVec.and_assoc ..).symm
      _ = _ := by rw [grows, held]

theorem PlanTold.keeps (told : PlanTold s) (inside : Inside s t) (segs : ∀ l, SegsOn l s t) (plan : t.nip.plan = s.nip.plan)
    (zones : t.nip.zones = s.nip.zones) (web : t.web = s.web) : PlanTold t :=
  told.through inside (fun l => (segs l).flagsOn) plan zones web

/-- A change of segments under one serial that keeps their serial and flags. -/
theorem PlanTold.modSeg (told : PlanTold s) (id : Nat) {f : Segment → Segment} (ids : ∀ g, (f g).id = g.id)
    (flags : ∀ g, (f g).flags = g.flags) : PlanTold (s.modSeg l id f) := by
  refine told.through (inside_modSeg l id f s) (fun m h mem => ?_) (by cases l <;> rfl) (by cases l <;> rfl) (by cases l <;> rfl)
  by_cases same : m = l
  · subst same
    rw [State.modSeg, State.lane_modLane] at mem
    obtain ⟨g, gmem, rfl⟩ := List.mem_map.mp mem
    refine ⟨g, gmem, ?_⟩
    split
    · exact ⟨ids g, by rw [flags, BitVec.and_self]⟩
    · exact ⟨rfl, BitVec.and_self⟩
  · rw [State.modSeg, State.lane_modLane_ne _ _ _ _ same] at mem
    exact ⟨h, mem, rfl, BitVec.and_self⟩

theorem PlanTold.endOfEvent (told : PlanTold s) (ends : EndOfEvent s t) : PlanTold t := by
  refine ⟨?_, told.2.endOfEvent ends⟩
  rw [PlanCurrent, ends.nip, ends.web, ends.setup]
  exact told.1

theorem PlanTold.lamTest (told : PlanTold s) : PlanTold (lamTest s) := by
  cases offer : s.nip.offer with
  | none => rwa [lamTest_none offer]
  | some o =>
    rw [lamTest_some offer]
    split
    · exact planTold_recompute _
    · exact told

theorem planTold_nipChange (s : State) : PlanTold (nipChange s) := (planTold_recompute s).lamTest

theorem dropZones_unowned {id : Nat} (unowned : ownsZone l id s = false) : (dropZones l id s).nip = s.nip := by
  have kept : s.nip.zones.filter (fun e => !(decide (e.lane = l) && decide (e.seg = id))) = s.nip.zones :=
    List.filter_eq_self.mpr fun e mem => by rw [Bool.eq_false_iff.mpr (List.any_eq_false.mp unowned e mem)]; rfl
  rw [dropZones, kept]

theorem PlanTold.retire (told : PlanTold s) {g : Segment} (mem : g ∈ (s.lane l).segs) (closed : g.state = .closed) :
    PlanTold (retire l g s) := by
  rw [Machine.retire, nipChangeIf]
  split
  · exact planTold_nipChange _
  next unowned =>
    have nip := (leaveMap_nip l .complete g s).trans (dropZones_unowned (Bool.eq_false_iff.mpr unowned))
    have aside : Aside (fun _ => True) s (leaveMap l .complete g s) := aside_leaveMap l .complete g s
    exact told.keeps (inside_leaveMap l .complete g s) (fun m => leaveMap_segsOn l g s mem closed) (by rw [nip]) (by rw [nip]) aside.web

theorem workLaw_planTold : WorkLaw (fun _ => True) (fun s t => PlanTold s → PlanTold t) where
  refl _ := id
  trans h k := k ∘ h
  turn s told := told.keeps (inside_dropTurn s) (fun l => (workLaw_segsOn l).turn s) rfl rfl rfl
  raise p s told := told.keeps (inside_raise p s) (fun l => (workLaw_segsOn l).raise p s) rfl rfl rfl
  popCut m s _ told := told.keeps (inside_popCut m s) (fun l => (workLaw_segsOn l).popCut m s trivial)
    (by cases m <;> rfl) (by cases m <;> rfl) (by cases m <;> rfl)
  popTrim m s _ told := told.keeps (inside_popTrim m s) (fun l => (workLaw_segsOn l).popTrim m s trivial)
    (by cases m <;> rfl) (by cases m <;> rfl) (by cases m <;> rfl)
  owner edit m id s told := told.keeps (inside_modSeg m id _ s) (fun l => (workLaw_segsOn l).owner edit m id s)
    (by cases m <;> rfl) (by cases m <;> rfl) (by cases m <;> rfl)
  issued st act delay est s _ ready told := told.keeps (inside_issueCore st act delay est s)
    (fun l => (workLaw_segsOn l).issued st act delay est s trivial ready)
    (by rw [issueCore_nip]) (by rw [issueCore_nip]) (issueCore_web ..)
  knife m key done s _ told := told.keeps (inside_trimFinal m key done s) (fun l => (workLaw_segsOn l).knife m key done s trivial)
    (by rw [trimFinal_nip]) (by rw [trimFinal_nip]) (trimFinal_web m key done s)
  retire m g s mem closed told := told.retire mem closed
  lam _ told := told.lamTest

/-! ## Queues sorted by target (R100, R101) -/

section Sorted

theorem enqueue_perm (a : Action) : ∀ q : List Action, (enqueue a q).Perm (a :: q)
  | [] => .refl _
  | b :: rest => by
    unfold enqueue
    split
    · exact .refl _
    · exact ((enqueue_perm a rest).cons b).trans (.swap a b rest)

theorem enqueueAll_perm : ∀ (q acc : List Action), (q.foldl (fun acc a => enqueue a acc) acc).Perm (q ++ acc)
  | [], _ => .refl _
  | a :: q, acc => (enqueueAll_perm q (enqueue a acc)).trans
      (((enqueue_perm a acc).append_left q).trans List.perm_middle)

theorem sortQueue_perm (q : List Action) : (sortQueue q).Perm q := by
  have all := enqueueAll_perm q []
  rwa [List.append_nil] at all

/-- A position within 2^30 pu of another, ahead or behind. -/
def NearTo (p : Word32) (a : Action) : Prop := (sdiff a.target p).natAbs < 1073741824

/-- Near one position, the order of two others is that of their distances from it. -/
theorem precedes_near {p : Word32} {a b : Action} (na : NearTo p a) (nb : NearTo p b) :
    precedes a.target b.target = decide (sdiff a.target p < sdiff b.target p) := by
  have split : sdiff b.target a.target = sdiff b.target p - sdiff a.target p := by
    unfold NearTo sdiff at *
    have ring : b.target - a.target = (b.target - p) - (a.target - p) := by
      rw [BitVec.sub_sub, BitVec.add_comm, ← BitVec.sub_sub]
      bv_omega
    rw [ring, BitVec.toInt_sub, Int.bmod_eq_of_le] <;> omega
  rw [precedes, split]
  exact decide_eq_decide.mpr (by omega)

/-- No action of the list stands before one with an earlier target. -/
def InOrder (q : List Action) : Prop := q.Pairwise (fun a b => precedes b.target a.target = false)

theorem enqueue_inOrder {p : Word32} {a : Action} (na : NearTo p a) : ∀ {q : List Action}, (∀ b ∈ q, NearTo p b) → InOrder q →
    InOrder (enqueue a q)
  | [], _, _ => List.pairwise_singleton _ a
  | b :: rest, near, sorted => by
    obtain ⟨first, tail⟩ := List.pairwise_cons.mp sorted
    have nb := near b List.mem_cons_self
    have nrest : ∀ c ∈ rest, NearTo p c := fun c mem => near c (List.mem_cons_of_mem b mem)
    have after : ∀ {x y : Action}, NearTo p x → NearTo p y → (precedes y.target x.target = false ↔
        sdiff x.target p ≤ sdiff y.target p) := fun nx ny => by
      rw [precedes_near ny nx, decide_eq_false_iff_not, not_lt]
    unfold enqueue
    split
    next before =>
      have least : sdiff a.target p ≤ sdiff b.target p := by
        rw [actBefore, Bool.or_eq_true, precedes_near na nb, decide_eq_true_iff, Bool.and_eq_true, decide_eq_true_iff] at before
        obtain less | ⟨same, -⟩ := before
        · omega
        · rw [same]
      refine List.pairwise_cons.mpr ⟨fun c mem => ?_, sorted⟩
      obtain rfl | mem := List.mem_cons.mp mem
      · exact (after na nb).mpr least
      · have next := (after nb (nrest c mem)).mp (first c mem)
        exact (after na (nrest c mem)).mpr (least.trans next)
    next later =>
      refine List.pairwise_cons.mpr ⟨fun c mem => ?_, enqueue_inOrder na nrest tail⟩
      obtain rfl | mem := List.mem_cons.mp ((enqueue_perm a rest).mem_iff.mp mem)
      · rw [Bool.eq_false_iff]
        exact fun early => later (by rw [actBefore, early]; rfl)
      · exact first c mem

theorem sortQueue_inOrder {p : Word32} {q : List Action} (near : ∀ a ∈ q, NearTo p a) : InOrder (sortQueue q) := by
  have all : ∀ (q acc : List Action), (∀ a ∈ q, NearTo p a) → (∀ a ∈ acc, NearTo p a) → InOrder acc →
      InOrder (q.foldl (fun acc a => enqueue a acc) acc) := by
    intro q
    induction q with
    | nil => exact fun _ _ _ sorted => sorted
    | cons a q ih =>
      intro acc near nearAcc sorted
      have na := near a List.mem_cons_self
      refine ih _ (fun b mem => near b (List.mem_cons_of_mem a mem)) (fun b mem => ?_) (enqueue_inOrder na nearAcc sorted)
      obtain rfl | mem := List.mem_cons.mp ((enqueue_perm a acc).mem_iff.mp mem)
      · exact na
      · exact nearAcc b mem
  exact all q [] near nofun .nil

end Sorted

/-! ## The newest segment through work -/

/-- The newest segment, OPEN and alone under its serial, stays the newest. -/
theorem SegsOn.newest (on : SegsOn l s t) {older : List Segment} {g : Segment} (segs : (s.lane l).segs = older ++ [g])
    (alone : ∀ h ∈ older, h.id ≠ g.id) (opened : g.state = .opened) :
    ∃ older' h, (t.lane l).segs = older' ++ [h] ∧ (∀ x ∈ older', x.id ≠ g.id) ∧ Onward g h := by
  obtain ⟨p, f, segs', ons, left⟩ := on
  have stays : p g = true := by
    cases gone : p g with
    | true => rfl
    | false =>
      obtain ⟨c, cmem, id, closed⟩ := left g (by rw [segs]; simp) gone
      rw [segs] at cmem
      obtain before | here := List.mem_append.mp cmem
      · exact absurd id (alone c before)
      · rw [List.mem_singleton.mp here, opened] at closed
        cases closed
  refine ⟨(older.filter p).map f, f g, ?_, fun x mem => ?_, ons g⟩
  · rw [segs', segs, List.filter_append, List.filter_singleton, stays, List.map_append]
    rfl
  · obtain ⟨y, ymem, rfl⟩ := List.mem_map.mp mem
    rw [(ons y).grown.id]
    exact alone y (List.mem_filter.mp ymem).1

end Sys2Proof.Machine
end

section
/-! PROOFS. Matched marks: re-anchoring, the work recomputed, and the closing by a TAIL mark (R58, R60, R62 to R64, R86). -/

namespace Sys2Proof.Machine

variable {l : Lane} {p : Word32} {x : Nat} {older : List Segment} {g : Segment} {s t u : State}

/-! ## The state in which a re-anchoring recomputes (R62 to R64, R86) -/

/-- The segment re-anchored at offset `x`, at `p`. -/
def anchored (l : Lane) (p : Word32) (x : Nat) (g : Segment) (s : State) : Segment :=
  reanchored (s.lane l).record.gain x p g

/-- The segment re-anchored in its map, the lane stretch with it. -/
def anchoredMap (l : Lane) (p : Word32) (x : Nat) (g : Segment) (s : State) : State :=
  (s.modSeg l g.id (reanchored (s.lane l).record.gain x p)).modLane l (fun y =>
    { y with stretch := matchedLaneStretch (s.lane l).record.gain x p g y.stretch })

/-- Its cuts and zone entries moved to the new coordinates. -/
def retargeted (l : Lane) (h : Segment) (s : State) : State :=
  { s.modLane l (fun x => { x with cutQueue := retarget h x.cutQueue }) with
    nip := { (s.modLane l (fun x => { x with cutQueue := retarget h x.cutQueue })).nip with
      zones := rezone l h (s.modLane l (fun x => { x with cutQueue := retarget h x.cutQueue })).nip.zones } }

/-- The segment and its work at the new coordinates, before the plan is recomputed. -/
def moved (l : Lane) (p : Word32) (x : Nat) (g : Segment) (s : State) : State :=
  retargeted l (anchored l p x g s) (anchoredMap l p x g s)

/-- The planned work of the re-anchored segment recomputed, and the issue tests made. -/
def replanned (l : Lane) (p : Word32) (x : Nat) (g : Segment) (s : State) : State :=
  issueTests [cutterOf l, .lam] (recompute (moved l p x g s))

theorem takeMatch_pitch (i : Nat) : takeMatch l p g (.pitch i) s =
    setNext l g.id (afterPitch (s.jobOf g) i) (replanned l p (markOffset (s.jobOf g) (.pitch i)) g s) := rfl

theorem takeMatch_tail : takeMatch l p g .tail s = closeSeg l g.id (replanned l p (s.jobOf g).lNom g s) := rfl

theorem moved_lane (segs : (s.lane l).segs = older ++ [g]) (alone : ∀ h ∈ older, h.id ≠ g.id) : (moved l p x g s).lane l =
    { s.lane l with
      segs := older ++ [anchored l p x g s]
      stretch := matchedLaneStretch (s.lane l).record.gain x p g (s.lane l).stretch
      cutQueue := retarget (anchored l p x g s) (s.lane l).cutQueue } := by
  have last := map_last (reanchored (s.lane l).record.gain x p) alone
  have lane : (moved l p x g s).lane l =
      { s.lane l with
        segs := (s.lane l).segs.map (fun h => if h.id = g.id then reanchored (s.lane l).record.gain x p h else h)
        stretch := matchedLaneStretch (s.lane l).record.gain x p g (s.lane l).stretch
        cutQueue := retarget (anchored l p x g s) (s.lane l).cutQueue } := by
    cases l <;> rfl
  rw [lane, segs, last]
  rfl

theorem moved_nip : (moved l p x g s).nip = { s.nip with zones := rezone l (anchored l p x g s) s.nip.zones } := by
  cases l <;> rfl

theorem moved_others : (moved l p x g s).tracker = s.tracker ∧ (moved l p x g s).setup = s.setup ∧ (moved l p x g s).web = s.web ∧
    (∀ st, (moved l p x g s).station st = s.station st) ∧ (moved l p x g s).lam = s.lam := by
  refine ⟨?_, ?_, ?_, fun st => ?_, ?_⟩
  · cases l <;> rfl
  · cases l <;> rfl
  · cases l <;> rfl
  · cases l <;> cases st <;> rfl
  · cases l <;> rfl

theorem inside_moved (l : Lane) (p : Word32) (x : Nat) (g : Segment) (s : State) : Inside s (moved l p x g s) :=
  (((inside_modSeg l g.id _ s).trans (inside_modLane l _ _ rfl rfl)).trans (inside_modLane l _ _ rfl rfl)).trans
    (inside_nip _ _ rfl rfl rfl rfl)

/-! ## The stretch (R62, R63) -/

/-- The new s_seg that a match at offset `x`, at `p`, measures. -/
def remeasured (l : Lane) (p : Word32) (x : Nat) (g : Segment) (s : State) : Int :=
  clampStretch (g.stretch + truncDiv ((clampStretch (roundHalfAway (1000000 * (sdiff p g.anchorP - ((x : Int) - g.anchorX)))
    ((x : Int) - g.anchorX).toNat) - g.stretch) * (s.lane l).record.gain) 16)

theorem anchored_stretch (l : Lane) (p : Word32) (x : Nat) (g : Segment) (s : State) : (anchored l p x g s).stretch =
    if 10000 ≤ (x : Int) - g.anchorX then remeasured l p x g s else g.stretch := by
  show matchedStretch _ _ _ _ = _
  unfold matchedStretch minBase
  dsimp only
  split
  next far =>
    have same : (((x : Int) - g.anchorX).toNat : Int) = (x : Int) - g.anchorX := Int.toNat_of_nonneg (by omega)
    rw [newStretch, measuredStretch, same]
    rfl
  · rfl

theorem matchedLaneStretch_eq (l : Lane) (p : Word32) (x : Nat) (g : Segment) (s : State) (old : Int) :
    matchedLaneStretch (s.lane l).record.gain x p g old =
      if 10000 ≤ (x : Int) - g.anchorX then remeasured l p x g s else old := by
  have same := anchored_stretch l p x g s
  unfold matchedLaneStretch minBase
  split
  next far =>
    rw [if_pos far] at same
    exact same
  · rfl

/-! ## What the recomputation and the issue tests leave -/

section Replanned

theorem planTold_replanned (l : Lane) (p : Word32) (x : Nat) (g : Segment) (s : State) : PlanTold (replanned l p x g s) :=
  workLaw_planTold.issueTests (fun _ => trivial) _ _ (planTold_recompute _)

theorem aside_replanned : Aside (fun k => k = .station (cutterOf l) ∨ k = .station .lam) (moved l p x g s) (replanned l p x g s) :=
  (nipWork_recompute _).aside.trans (aside_issueTests (fun st mem => by simpa using mem) _)

theorem inside_replanned : Inside (moved l p x g s) (replanned l p x g s) :=
  (inside_recompute _).trans (inside_issueTests _ _)

theorem segsOn_replanned : SegsOn l (moved l p x g s) (replanned l p x g s) :=
  ((nipWork_recompute _).segsOn l).trans ((workLaw_segsOn l).issueTests (fun _ => trivial) _ _)

theorem queuesOn_replanned : QueuesOn ((moved l p x g s).lane l) ((replanned l p x g s).lane l) :=
  ((nipWork_recompute _).queuesOn l).trans ((workLaw_queuesOn l).issueTests (fun _ => trivial) _ _)

variable (segs : (s.lane l).segs = older ++ [g]) (alone : ∀ h ∈ older, h.id ≠ g.id)
include segs alone

theorem replanned_newest (opened : g.state = .opened) : ∃ older' h, ((replanned l p x g s).lane l).segs = older' ++ [h] ∧
    (∀ y ∈ older', y.id ≠ g.id) ∧ Onward (anchored l p x g s) h :=
  SegsOn.newest (g := anchored l p x g s) segsOn_replanned (by rw [moved_lane segs alone]) alone opened

theorem replanned_stretch : ((replanned l p x g s).lane l).stretch =
    matchedLaneStretch (s.lane l).record.gain x p g (s.lane l).stretch := by
  have fixed := (aside_replanned (l := l) (p := p) (x := x) (g := g) (s := s)).fixed l
  simp only [laneFixed, Prod.mk.injEq] at fixed
  rw [fixed.2.1, moved_lane segs alone]

/-- The cuts of the segment that are still in the queue have their new targets (R86). -/
theorem replanned_cuts {a : Action} (mem : a ∈ ((replanned l p x g s).lane l).cutQueue) (owner : a.owner = some g.id) :
    a.target = (anchored l p x g s).coord a.offset := by
  have here := queuesOn_replanned.cuts.mem mem
  rw [moved_lane segs alone] at here
  obtain ⟨b, -, same⟩ := List.mem_map.mp ((sortQueue_perm _).mem_iff.mp here)
  split at same
  · rw [← same]
  next other =>
    rw [same] at other
    exact absurd owner other

omit segs alone in
theorem replanned_zones {e : ZoneEntry} (mem : e ∈ (replanned l p x g s).nip.zones) (lane : e.lane = l) (seg : e.seg = g.id) :
    e.a = (anchored l p x g s).coord e.x1 ∧ e.b = (anchored l p x g s).coord e.x2 := by
  have here := aside_replanned.zones e mem
  rw [moved_nip] at here
  obtain ⟨b, -, same⟩ := List.mem_map.mp here
  split at same
  · rw [← same]
    exact ⟨rfl, rfl⟩
  next other =>
    rw [same] at other
    exact absurd ⟨lane, seg⟩ other

omit segs alone in
/-- Where the segment owns no entry, a conflict that stands in the zone list is flagged by the recomputation (R129, R131). -/
theorem replanned_conflict (unowned : ∀ e ∈ s.nip.zones, ¬(e.lane = l ∧ e.seg = g.id))
    (conflict : hasConflict (banned s.web) s.nip.zones = true) : attnHas (replanned l p x g s).mgmt.flags prioLamConflict = true := by
  have zones : rezone l (anchored l p x g s) s.nip.zones = s.nip.zones :=
    (List.map_congr_left fun e mem => if_neg (unowned e mem)).trans (List.map_id _)
  have work := nipWork_recompute (moved l p x g s)
  have web : (moved l p x g s).web = s.web := moved_others.2.2.1
  have stands : hasConflict (banned (recompute (moved l p x g s)).web) (recompute (moved l p x g s)).nip.zones = true := by
    rw [work.web, work.zones, web, moved_nip]
    dsimp only
    rwa [zones]
  exact attnHas_mono (inside_issueTests _ _).flags (losersFlagged_recompute _ stands).1

end Replanned

theorem convertMark_matched {c : Word32} {r : Reference} {tag : Byte} {shape : MarkShape} {m : NextMark} (conv : Convertible c r s)
    (mode : (s.lane l).mode ≠ .disabled) (inner : shape = shapeOf m) (readable : shape = .tail → (s.jobOf g).tail = true)
    (segs : (s.lane l).segs = older ++ [g])
    (opened : g.state = .opened) (next : g.next = some m)
    (near : (sdiff (markedAt c r s) (g.coord (markOffset (s.jobOf g) m))).natAbs ≤ (s.lane l).record.markTol) :
    convertMark l shape tag c s = takeMatch l (markedAt c r s) g m s := by
  have notCue : shape ≠ .cue := by rw [inner]; cases m <;> nofun
  rw [conv.taken, takeMark_inner mode notCue, takeInnerMark_open (openSeg_last segs opened) next,
    if_pos ((marksMatch_iff ..).mpr ⟨inner, readable, near⟩)]

/-! ## A PITCH mark -/

section Pitch

/-- The event of a matched PITCH mark, before its end. -/
def pitchTaken (l : Lane) (p : Word32) (g : Segment) (i : Nat) (s : State) : State :=
  setNext l g.id (afterPitch (s.jobOf g) i) (replanned l p (markOffset (s.jobOf g) (.pitch i)) g s)

theorem setNext_lane (id : Nat) (m : NextMark) : (setNext l id m s).lane l =
    { s.lane l with segs := (s.lane l).segs.map (fun g => if g.id = id then { g with next := some m } else g) } := by
  rw [setNext, State.modSeg, State.lane_modLane]

/-- The matched segment stays the newest through the issue tests, re-anchored and with its next expectation (R62, R86). -/
theorem pitchTaken_newest {i : Nat} (segs : (s.lane l).segs = older ++ [g]) (alone : ∀ h ∈ older, h.id ≠ g.id)
    (opened : g.state = .opened) :
    ∃ h, newest ((pitchTaken l p g i s).lane l) = some { h with next := some (afterPitch (s.jobOf g) i) } ∧
      Grown (anchored l p (markOffset (s.jobOf g) (.pitch i)) g s) h := by
  obtain ⟨older', h, segs', alone', on⟩ := replanned_newest (p := p) (x := markOffset (s.jobOf g) (.pitch i)) segs alone opened
  have same : h.id = g.id := on.grown.id
  have last : (older' ++ [h]).map (fun y => if y.id = g.id then { y with next := some (afterPitch (s.jobOf g) i) } else y) =
      older' ++ [{ h with next := some (afterPitch (s.jobOf g) i) }] := by
    rw [← same]
    exact map_last _ fun y mem => by rw [same]; exact alone' y mem
  have segs'' : ((pitchTaken l p g i s).lane l).segs = older' ++ [{ h with next := some (afterPitch (s.jobOf g) i) }] := by
    rw [pitchTaken, setNext_lane]
    exact (congrArg (List.map _) segs').trans last
  exact ⟨h, by rw [newest, segs'', List.getLast?_concat], on.grown⟩

/-- Settles O21: the segment is re-anchored in place, its work recomputed, and it stays the newest through the issue tests. -/
theorem pitchMarkReanchors : Obligations.PitchMarkReanchors := by
  intro s l tag c r older g i datum found paid ref near mode segs alone opened next within
  have conv : Convertible c r s := ⟨datum, found, paid, ref, near⟩
  have taken : convertMark l .pitch tag c s = pitchTaken l (markedAt c r s) g i s :=
    convertMark_matched (shape := .pitch) (m := .pitch i) conv mode rfl nofun segs opened next within
  obtain ⟨h, last, grown⟩ := pitchTaken_newest (p := markedAt c r s) (i := i) segs alone opened
  have ends := endOfEvent_finish (pitchTaken l (markedAt c r s) g i s)
  have told := (planTold_replanned l (markedAt c r s) (markOffset (s.jobOf g) (.pitch i)) g s).modSeg (l := l) g.id
    (f := fun y => { y with next := some (afterPitch (s.jobOf g) i) }) (fun _ => rfl) fun _ => rfl
  refine ⟨finish (pitchTaken l (markedAt c r s) g i s), { h with next := some (afterPitch (s.jobOf g) i) }, ?_,
    (congrArg newest (ends.lane l)).trans last, grown.id, ?_⟩
  · rw [exec_markConversion, taken]
  · intro x p dx meas new
    have lane : (finish (pitchTaken l (markedAt c r s) g i s)).lane l = (pitchTaken l (markedAt c r s) g i s).lane l := ends.lane l
    have nip : (finish (pitchTaken l (markedAt c r s) g i s)).nip = (replanned l p x g s).nip := ends.nip.trans (by cases l <;> rfl)
    have stretch : h.stretch = if 10000 ≤ dx then new else g.stretch := by rw [grown.same]; exact anchored_stretch l p x g s
    have anchorP : h.anchorP = p := by rw [grown.same]; rfl
    have anchorX : h.anchorX = x := by rw [grown.same]; rfl
    have coord : ∀ y, h.coord y = (anchored l p x g s).coord y := fun y => by rw [grown.same]; rfl
    have laneStretch : ((pitchTaken l p g i s).lane l).stretch = if 10000 ≤ dx then new else (s.lane l).stretch := by
      rw [pitchTaken, setNext_lane]
      exact (replanned_stretch segs alone).trans (matchedLaneStretch_eq l p x g s _)
    have told' : PlanTold (finish (pitchTaken l p g i s)) := told.endOfEvent ends
    refine ⟨anchorP, anchorX, ?_, ?_, ?_, rfl, fun far => ?_, fun short => ?_, fun y => webCoord_coordOf _ _ _ _, ?_, ?_, told'.1, ?_, told'.2⟩
    · rw [grown.same]; rfl
    · rw [grown.same]; rfl
    · rw [grown.same]; exact opened
    · rw [lane]
      exact ⟨stretch.trans (if_pos far), laneStretch.trans (if_pos far)⟩
    · rw [lane]
      exact ⟨stretch.trans (if_neg (by omega)), laneStretch.trans (if_neg (by omega))⟩
    · intro a mem owner
      rw [lane, pitchTaken, setNext_lane] at mem
      exact (replanned_cuts segs alone mem owner).trans (coord _).symm
    · intro e mem on seg
      rw [nip] at mem
      obtain ⟨a, b⟩ := replanned_zones mem on seg
      exact ⟨a.trans (coord _).symm, b.trans (coord _).symm⟩
    · intro unowned conflict
      have flag := replanned_conflict (p := p) (x := x) unowned conflict
      have flags : (pitchTaken l p g i s).mgmt = (replanned l p x g s).mgmt := by cases l <;> rfl
      rw [ends.flags]
      exact (congrArg Mgmt.flags flags) ▸ flag

end Pitch

end Sys2Proof.Machine
end

section
/-! PROOFS. The TAIL mark: what the issue tests of a re-anchoring leave of the segment, and its closing (R60, R86, R87). -/

namespace Sys2Proof.Machine

variable {l : Lane} {p : Word32} {x : Nat} {older : List Segment} {g : Segment} {s t u : State}

/-! ## Issue tests that give up no cut -/

section Ungiven

/-- A lane's segments with their work as it was, and the zone list. -/
structure Ungiven (l : Lane) (s t : State) : Prop where
  map : UncountedMap l s t
  zones : t.nip.zones = s.nip.zones

theorem Ungiven.trans (h : Ungiven l s t) (k : Ungiven l t u) : Ungiven l s u := ⟨h.map.trans k.map, k.zones.trans h.zones⟩

theorem NipWork.ungiven (work : NipWork s t) (l : Lane) : Ungiven l s t := by
  refine ⟨?_, work.zones⟩
  obtain ⟨f, lane, flags⟩ := work.lane l
  refine ⟨f, by rw [lane], fun g => ?_⟩
  obtain ⟨d, same, -⟩ := flags g
  rw [same]
  exact ⟨rfl, rfl, rfl, rfl⟩

/-- The head of a lane's cut queue is not given up. -/
def Kept (l : Lane) (s : State) : Prop := ∀ a, (s.lane l).cutQueue.head? = some a → cutFate l a s = .waits ∨ cutFate l a s = .issued

/-- The head of a lane's cut queue waits. -/
def Waits (l : Lane) (s : State) : Prop := ∀ a, (s.lane l).cutQueue.head? = some a → cutFate l a s = .waits

theorem cutTest_ungiven (kept : Kept l s) : Ungiven l s (cutTest l s) := by
  cases queue : (s.lane l).cutQueue with
  | nil =>
    rw [cutTest_waits fun a head => by rw [queue] at head; cases head]
    exact (NipWork.refl s).ungiven l
  | cons a rest =>
    obtain waits | issued := kept a (by rw [queue]; rfl)
    · rw [cutTest_waits fun b head => by rw [queue] at head; cases head; exact waits]
      exact (NipWork.refl s).ungiven l
    · rw [cutTest_issues queue issued]
      refine ⟨uncounted_issueCut l a s, ?_⟩
      rw [(issueCut_onlySegs l a s).nip, cutCore, issueCore_nip, popCut, State.nip_modLane]

/-- Work of the nip leaves the fate of a head. -/
theorem NipWork.fates (work : NipWork s t) (inside : Inside s t) (a : Action) : cutFate l a t = cutFate l a s :=
  cutFate_congr (work.station _ (cutter_ne_lam l)) inside.tracker inside.setup a

theorem NipWork.cutQueue (work : NipWork s t) (l : Lane) : (t.lane l).cutQueue = (s.lane l).cutQueue := by
  obtain ⟨f, lane, -⟩ := work.lane l
  rw [lane]

theorem Kept.nipWork (kept : Kept l s) (work : NipWork s t) (inside : Inside s t) : Kept l t := fun a head => by
  rw [work.cutQueue] at head
  rw [work.fates inside]
  exact kept a head

theorem Waits.nipWork (waits : Waits l s) (work : NipWork s t) (inside : Inside s t) : Waits l t := fun a head => by
  rw [work.cutQueue] at head
  rw [work.fates inside]
  exact waits a head

/-- The tests of a lane's cutter and of LAM, in either order. -/
theorem issueTests_pair (l : Lane) (s : State) : issueTests [cutterOf l, .lam] s = lamTest (cutTest l s.dropTurn) ∨
    issueTests [cutterOf l, .lam] s = cutTest l (lamTest s.dropTurn) := by
  have cut : ∀ v, issueTest (cutterOf l) v = cutTest l v := fun v => by cases l <;> rfl
  have both : ∀ prefer : List Station,
      (arrange prefer [cutterOf l, .lam]).foldl (fun acc st => issueTest st acc) s.dropTurn = lamTest (cutTest l s.dropTurn) ∨
      (arrange prefer [cutterOf l, .lam]).foldl (fun acc st => issueTest st acc) s.dropTurn = cutTest l (lamTest s.dropTurn) := by
    intro prefer
    obtain pair | pair := List.perm_pair.mp (arrange_perm prefer [cutterOf l, .lam])
    · rw [pair]
      exact .inl (congrArg lamTest (cut s.dropTurn))
    · rw [pair]
      exact .inr (cut (lamTest s.dropTurn))
  exact both _

theorem cutFate_dropTurn (a : Action) : cutFate l a s.dropTurn = cutFate l a s :=
  cutFate_congr (l := l) (by cases l <;> rfl) rfl rfl a

/-- The tests give up no cut where the head is not given up. -/
theorem issueTests_ungiven (kept : Kept l s) : Ungiven l s (issueTests [cutterOf l, .lam] s) := by
  have turned : Ungiven l s s.dropTurn := ⟨uncounted_eq (by cases l <;> rfl), rfl⟩
  have lane : s.dropTurn.lane l = s.lane l := by cases l <;> rfl
  have kept' : Kept l s.dropTurn := fun a head => by
    rw [lane] at head
    rw [cutFate_dropTurn]
    exact kept a head
  obtain order | order := issueTests_pair l s
  · rw [order]
    exact (turned.trans (cutTest_ungiven kept')).trans ((nipWork_lamTest _).ungiven l)
  · rw [order]
    exact (turned.trans ((nipWork_lamTest _).ungiven l)).trans
      (cutTest_ungiven (kept'.nipWork (nipWork_lamTest _) (inside_lamTest _)))

/-- The tests leave the queue as it is where its head waits. -/
theorem issueTests_cutQueue (waits : Waits l s) : ((issueTests [cutterOf l, .lam] s).lane l).cutQueue = (s.lane l).cutQueue := by
  have lane : s.dropTurn.lane l = s.lane l := by cases l <;> rfl
  have waits' : Waits l s.dropTurn := fun a head => by
    rw [lane] at head
    rw [cutFate_dropTurn]
    exact waits a head
  obtain order | order := issueTests_pair l s
  · rw [order, cutTest_waits waits', (nipWork_lamTest _).cutQueue, lane]
  · rw [order, cutTest_waits (waits'.nipWork (nipWork_lamTest _) (inside_lamTest _)), (nipWork_lamTest _).cutQueue, lane]

end Ungiven

/-! ## The heads under the new coordinates -/

section Heads

/-- The cuts of a lane, those of the segment at its new coordinates. -/
def movedCuts (l : Lane) (p : Word32) (x : Nat) (g : Segment) (s : State) : List Action :=
  (s.lane l).cutQueue.map (fun a => if a.owner = some g.id then { a with target := (anchored l p x g s).coord a.offset } else a)

theorem cutFate_kept {a : Action} (mode : (s.station (cutterOf l)).mode = .ready ∨ (s.station (cutterOf l)).mode = .busy)
    (within : -toGo (cutterOf l) a.target s ≤ ((recordOr (s.station (cutterOf l))).tol : Int)) :
    cutFate l a s = .waits ∨ cutFate l a s = .issued := by
  obtain ready | busy := mode
  · have kept : beyondTol (cutterOf l) (toGo (cutterOf l) a.target s) s = false := by
      rw [beyondTol, tolOf, decide_eq_false_iff_not, not_lt]
      exact within
    simp only [cutFate, ready, kept, Bool.false_eq_true, if_false]
    split
    · exact .inr rfl
    · exact .inl rfl
  · exact .inl (cutFate_held busy within)

theorem moved_fate (a : Action) : cutFate l a (moved l p x g s) = cutFate l a s := by
  obtain ⟨tracker, setup, -, station, -⟩ := moved_others (l := l) (p := p) (x := x) (g := g) (s := s)
  exact cutFate_congr (station _) tracker setup a

variable (segs : (s.lane l).segs = older ++ [g]) (alone : ∀ h ∈ older, h.id ≠ g.id)
include segs alone

theorem moved_queue : ((moved l p x g s).lane l).cutQueue = sortQueue (movedCuts l p x g s) := by rw [moved_lane segs alone]; rfl

theorem moved_head {a : Action} (head : ((moved l p x g s).lane l).cutQueue.head? = some a) : a ∈ movedCuts l p x g s := by
  rw [moved_queue segs alone] at head
  exact (sortQueue_perm _).mem_iff.mp (List.mem_of_mem_head? head)

theorem replanned_ungiven (kept : ∀ a ∈ movedCuts l p x g s, cutFate l a s = .waits ∨ cutFate l a s = .issued) :
    Ungiven l (moved l p x g s) (replanned l p x g s) := by
  have work := nipWork_recompute (moved l p x g s)
  have heads : Kept l (moved l p x g s) := fun a head => by
    rw [moved_fate]
    exact kept a (moved_head segs alone head)
  exact (work.ungiven l).trans (issueTests_ungiven (heads.nipWork work (inside_recompute _)))

theorem replanned_queue (waits : ∀ a ∈ movedCuts l p x g s, cutFate l a s = .waits) :
    ((replanned l p x g s).lane l).cutQueue = sortQueue (movedCuts l p x g s) := by
  have work := nipWork_recompute (moved l p x g s)
  have heads : Waits l (moved l p x g s) := fun a head => by
    rw [moved_fate]
    exact waits a (moved_head segs alone head)
  rw [replanned, issueTests_cutQueue (heads.nipWork work (inside_recompute _)), work.cutQueue, moved_queue segs alone]

/-- Where no cut is given up the newest segment has the work it had. -/
theorem replanned_unfinished (kept : ∀ a ∈ movedCuts l p x g s, cutFate l a s = .waits ∨ cutFate l a s = .issued)
    {older' : List Segment} {h : Segment} (segs' : ((replanned l p x g s).lane l).segs = older' ++ [h]) :
    h.unfinished = g.unfinished := by
  obtain ⟨f, mapped, same⟩ := (replanned_ungiven segs alone kept).map
  rw [moved_lane segs alone, segs', List.map_append] at mapped
  obtain ⟨-, last⟩ := List.append_inj' mapped rfl
  rw [List.map_singleton, List.singleton_inj] at last
  rw [last, (same _).2.2.1]
  rfl

end Heads

/-! ## The closing (R60, R87) -/

section Closed

theorem closeSeg_eq (id : Nat) (s : State) : closeSeg l id s = retireTest l id (closing l id 0 s) := by
  rw [← closeSeg_missed, missMarks_none]

theorem closeSeg_busy {h : Segment} (segs : (s.lane l).segs = older ++ [h]) (alone : ∀ y ∈ older, y.id ≠ h.id)
    (work : 0 < h.unfinished) : closeSeg l h.id s = closing l h.id 0 s ∧
      ((closing l h.id 0 s).lane l).segs = older ++ [closedWith 0 h] := by
  refine ⟨?_, closing_segs segs alone⟩
  rw [closeSeg_eq, retireTest_stays]
  intro y mem same
  rw [closing_segs segs alone] at mem
  obtain before | here := List.mem_append.mp mem
  · exact absurd same (alone y before)
  · rw [List.mem_singleton.mp here, retirable, Bool.and_eq_false_iff, decide_eq_false_iff_not, decide_eq_false_iff_not]
    exact .inr (Nat.ne_of_gt work)

theorem closeSeg_idle {h : Segment} (segs : (s.lane l).segs = older ++ [h]) (alone : ∀ y ∈ older, y.id ≠ h.id)
    (idle : h.unfinished = 0) : ∀ y ∈ ((closeSeg l h.id s).lane l).segs, y.id ≠ h.id := by
  intro y mem
  have retires := closeSeg_retires (k := 0) segs alone idle
  rw [missMarks_none] at retires
  rw [retires, retire] at mem
  obtain ⟨z, zmem, on⟩ := ((nipWork_nipChangeIf _ _).segsOn l).before mem
  rw [leaveMap_segs] at zmem
  have left := (List.mem_filter.mp zmem).2
  rw [on.grown.id]
  exact of_decide_eq_true left

theorem planTold_closeSeg (told : PlanTold s) (id : Nat) : PlanTold (closeSeg l id s) :=
  workLaw_planTold.retireTest l id _ (told.modSeg id (f := fun g => { g with state := .closed, next := none }) (fun _ => rfl) fun _ => rfl)

theorem closing_nip (id : Nat) (s : State) : (closing l id 0 s).nip = s.nip := by
  rw [closing, missMarks_none]
  cases l <;> rfl

end Closed

end Sys2Proof.Machine
end

section
/-! PROOFS. The TAIL mark closes the segment (R58, R60, R62 to R64, R86, R87, R106, R129). -/

namespace Sys2Proof.Machine

variable {l : Lane} {p : Word32} {x : Nat} {older : List Segment} {g h : Segment} {s t : State}

/-- The event of a matched TAIL mark, before its end. -/
def tailTaken (l : Lane) (p : Word32) (x : Nat) (g : Segment) (s : State) : State := closeSeg l g.id (replanned l p x g s)

/-- What the closing leaves of the segment: its anchor at the mark, CLOSED, nothing expected. -/
structure ClosedAt (p : Word32) (x : Nat) (stretch : Int) (g h : Segment) : Prop where
  id : h.id = g.id
  state : h.state = .closed
  next : h.next = none
  anchorP : h.anchorP = p
  anchorX : h.anchorX = x
  pCue : h.pCue = g.pCue
  stretch : h.stretch = stretch

theorem closedAt_of_onward (on : Onward (anchored l p x g s) h) :
    ClosedAt p x (anchored l p x g s).stretch g (closedWith 0 h) := by
  have grown := on.grown.same
  constructor
  case id => exact on.grown.id
  case state => rfl
  case next => rfl
  case anchorP => rw [grown]; rfl
  case anchorX => rw [grown]; rfl
  case pCue => rw [grown]; rfl
  case stretch => rw [grown]; rfl

section Tail

theorem aside_tailTaken : Aside noStation (replanned l p x g s) (tailTaken l p x g s) := aside_closeSeg l g.id _

theorem tailTaken_queue : ((tailTaken l p x g s).lane l).cutQueue = ((replanned l p x g s).lane l).cutQueue :=
  aside_tailTaken.cuts l id

theorem inside_tailTaken (l : Lane) (p : Word32) (x : Nat) (g : Segment) (s : State) : Inside s (tailTaken l p x g s) :=
  ((inside_moved l p x g s).trans inside_replanned).trans (inside_closeSeg l g.id _)

theorem planTold_tailTaken (l : Lane) (p : Word32) (x : Nat) (g : Segment) (s : State) : PlanTold (tailTaken l p x g s) :=
  planTold_closeSeg (planTold_replanned l p x g s) g.id

variable (segs : (s.lane l).segs = older ++ [g]) (alone : ∀ h ∈ older, h.id ≠ g.id) (opened : g.state = .opened)
include segs alone

theorem tailTaken_stretch : ((tailTaken l p x g s).lane l).stretch =
    if 10000 ≤ (x : Int) - g.anchorX then remeasured l p x g s else (s.lane l).stretch := by
  have fixed := (aside_tailTaken (l := l) (p := p) (x := x) (g := g) (s := s)).fixed l
  simp only [laneFixed, Prod.mk.injEq] at fixed
  rw [fixed.2.1, replanned_stretch segs alone, matchedLaneStretch_eq]

include opened

/-- The segment goes on in the map with unfinished work, or it has left. -/
theorem tailTaken_segs : ∃ older' h, Onward (anchored l p x g s) h ∧
    ((replanned l p x g s).lane l).segs = older' ++ [h] ∧ (∀ y ∈ older', y.id ≠ g.id) ∧
      (0 < h.unfinished → ((tailTaken l p x g s).lane l).segs = older' ++ [closedWith 0 h] ∧
        (tailTaken l p x g s).nip = (replanned l p x g s).nip) ∧
      (h.unfinished = 0 → ∀ y ∈ ((tailTaken l p x g s).lane l).segs, y.id ≠ g.id) := by
  obtain ⟨older', h, segs', alone', on⟩ := replanned_newest (p := p) (x := x) segs alone opened
  have id : h.id = g.id := on.grown.id
  have alone'' : ∀ y ∈ older', y.id ≠ h.id := fun y mem => by rw [id]; exact alone' y mem
  refine ⟨older', h, on, segs', alone', fun work => ?_, fun idle => ?_⟩
  · obtain ⟨closes, map⟩ := closeSeg_busy segs' alone'' work
    rw [id] at closes map
    rw [tailTaken, closes]
    exact ⟨map, closing_nip g.id _⟩
  · have left := closeSeg_idle segs' alone'' idle
    rwa [id] at left

/-- Every segment under the serial is the closed one, with work left. -/
theorem tailTaken_here {y : Segment} (mem : y ∈ ((tailTaken l p x g s).lane l).segs) (id : y.id = g.id) :
    ClosedAt p x (anchored l p x g s).stretch g y ∧ 0 < y.unfinished := by
  obtain ⟨older', h, on, -, alone', stays, leaves⟩ := tailTaken_segs (p := p) (x := x) segs alone opened
  rcases Nat.eq_zero_or_pos h.unfinished with idle | work
  · exact absurd id (leaves idle y mem)
  · rw [(stays work).1] at mem
    obtain before | here := List.mem_append.mp mem
    · exact absurd id (alone' y before)
    · rw [List.mem_singleton.mp here]
      exact ⟨closedAt_of_onward on, work⟩

theorem tailTaken_idle (idle : g.unfinished = 0) : ∀ y ∈ ((tailTaken l p x g s).lane l).segs, y.id ≠ g.id := by
  obtain ⟨older', h, on, -, -, -, leaves⟩ := tailTaken_segs (p := p) (x := x) segs alone opened
  refine leaves (Nat.le_zero.mp ?_)
  have less : h.unfinished ≤ g.unfinished := on.unfinished
  omega

/-- Where no cut is given up, a segment with unfinished work stays, with all of it. -/
theorem tailTaken_stays (kept : ∀ a ∈ movedCuts l p x g s, cutFate l a s = .waits ∨ cutFate l a s = .issued) (work : 0 < g.unfinished) :
    (∃ h, newest ((tailTaken l p x g s).lane l) = some h ∧ ClosedAt p x (anchored l p x g s).stretch g h ∧
      h.unfinished = g.unfinished) ∧
    (tailTaken l p x g s).nip.zones = rezone l (anchored l p x g s) s.nip.zones := by
  obtain ⟨older', h, on, segs', -, stays, -⟩ := tailTaken_segs (p := p) (x := x) segs alone opened
  have same : h.unfinished = g.unfinished := replanned_unfinished segs alone kept segs'
  obtain ⟨map, nip⟩ := stays (by omega)
  refine ⟨⟨closedWith 0 h, ?_, closedAt_of_onward on, same⟩, ?_⟩
  · rw [newest, map, List.getLast?_append]
    rfl
  · rw [nip, (replanned_ungiven segs alone kept).zones, moved_nip]

end Tail

/-- Settles O22: the segment is re-anchored, its work recomputed, then CLOSED, and retired where none of that work is left. -/
theorem tailMarkCloses : Obligations.TailMarkCloses := by
  intro s l tag c r older g datum found paid ref near mode segs alone opened next readable within
  have conv : Convertible c r s := ⟨datum, found, paid, ref, near⟩
  have taken : convertMark l .tail tag c s = tailTaken l (markedAt c r s) (s.jobOf g).lNom g s :=
    convertMark_matched (shape := .tail) (m := .tail) conv mode rfl (fun _ => readable) segs opened next within
  obtain ⟨t, event, ends⟩ : ∃ t, exec (.markConversion l .tail tag c) s = .next t ∧
      EndOfEvent (tailTaken l (markedAt c r s) (s.jobOf g).lNom g s) t :=
    ⟨_, by rw [exec_markConversion, taken], endOfEvent_finish _⟩
  refine ⟨t, event, ?_⟩
  intro x p dx meas new
  have lane : t.lane l = (tailTaken l p x g s).lane l := ends.lane l
  have nip : t.nip = (tailTaken l p x g s).nip := ends.nip
  have stretch : (anchored l p x g s).stretch = if 10000 ≤ dx then new else g.stretch := anchored_stretch l p x g s
  have told : PlanTold t := (planTold_tailTaken l p x g s).endOfEvent ends
  have here := fun y mem id => tailTaken_here (p := p) (x := x) segs alone opened (y := y) mem id
  have stays := tailTaken_stays (p := p) (x := x) segs alone opened
  have idle := tailTaken_idle (p := p) (x := x) segs alone opened
  have tracker : t.tracker = s.tracker := ends.tracker.trans (inside_tailTaken l p x g s).tracker
  rw [stretch] at here stays
  have coord : ∀ y, (anchored l p x g s).coord y = webCoord p x (if 10000 ≤ dx then new else g.stretch) y := fun y => by
    rw [← stretch]
    rfl
  have cutsAt : movedCuts l p x g s = (s.lane l).cutQueue.map (fun a =>
      if a.owner = some g.id then { a with target := webCoord p x (if 10000 ≤ dx then new else g.stretch) a.offset } else a) := by
    simp only [movedCuts, coord]
  refine ⟨?_, tracker, fun y mem id => ?_, fun empty work => ?_, fun empty none => ?_, told.1, told.2, ?_⟩
  · rw [lane]
    exact tailTaken_stretch segs alone
  · rw [lane] at mem
    obtain ⟨closed, work⟩ := here y mem id
    exact ⟨closed.state, closed.next, work, closed.anchorP, closed.anchorX, closed.pCue, closed.stretch⟩
  · obtain ⟨⟨h, last, closed, same⟩, -⟩ := stays (by rw [movedCuts, empty]; exact nofun) work
    rw [lane]
    exact ⟨h, last, closed.id, closed.state, closed.next, same, closed.anchorP, closed.anchorX, closed.pCue, closed.stretch⟩
  · rw [lane]
    exact idle none
  · intro stretch' at' cuts
    refine ⟨fun y => webCoord_coordOf _ _ _ _, fun a mem owner => ?_, fun e mem on seg => ?_, fun mode' within' => ?_⟩
    · rw [lane, tailTaken_queue] at mem
      exact (replanned_cuts segs alone mem owner).trans (coord _)
    · rw [nip] at mem
      obtain ⟨a, b⟩ := replanned_zones (aside_tailTaken.zones e mem) on seg
      exact ⟨a.trans (coord _), b.trans (coord _)⟩
    · have kept : ∀ a ∈ movedCuts l p x g s, cutFate l a s = .waits ∨ cutFate l a s = .issued := fun a mem =>
        by
        rw [cutsAt] at mem
        exact cutFate_kept mode' (within' a mem)
      refine ⟨fun none => ?_, fun work => ?_, fun waits => ?_⟩
      · rw [lane]
        exact idle none
      · obtain ⟨⟨h, last, closed, same⟩, zones⟩ := stays kept work
        rw [lane, nip]
        refine ⟨⟨h, last, closed.id, closed.state, closed.next, same, closed.anchorP, closed.anchorX, closed.pCue, closed.stretch⟩, ?_⟩
        rw [zones, rezone]
        simp only [coord]
        rfl
      · have held : ∀ a ∈ movedCuts l p x g s, cutFate l a s = .waits := fun a mem => by
          rw [cutsAt] at mem
          obtain ready | busy := mode'
          · obtain busy | early := waits
            · exact cutFate_held busy (within' a mem)
            · exact cutFate_early ready (early a mem)
          · exact cutFate_held busy (within' a mem)
        rw [lane, tailTaken_queue, replanned_queue segs alone held, cutsAt]
        exact ⟨sortQueue_perm _, fun near => sortQueue_inOrder near⟩

end Sys2Proof.Machine
end

section
/-! PROOFS. The plan by policy and BRIDGE, pu by pu and on two and three intervals (R127, R129, R130). -/

namespace Sys2Proof.Machine

variable {o : Word32} {zones : List ZoneEntry} {ban : Bool} {policy : Policy} {bridge : Nat}

/-! ## Any zone list -/

section Any

variable (ahead : ZonesAhead o zones)
include ahead

theorem planOf_apart : Apart o (planOf ban policy bridge zones) :=
  (bridged_spec bridge _ (closedSet_spec ahead ban policy).1).1

theorem planOf_iff (x : Nat) : InPlan o (planOf ban policy bridge zones) x ↔
    Wanted o ban policy zones x ∨ BridgedAt o ban policy bridge zones x := by
  obtain ⟨apart, wanted⟩ := closedSet_spec ahead ban policy
  rw [planOf, (bridged_spec bridge _ apart).2, wanted, opens_closedSet ahead]

/-- A stretch with a length overlaps the forbidden set where it shares a pu with a FORBIDDEN entry, or anywhere under the ban. -/
theorem forbiddenSet_overlaps {y : Stretch} (hy : y.Ahead o) : (forbiddenSet ban zones).overlaps y = true ↔
    ∃ x, Covers o y.a y.b x ∧ (ban = true ∨ InZone o .forbidden zones x) := by
  cases ban with
  | true => exact ⟨fun _ => ⟨beyond o y.a, ⟨Nat.le_refl _, hy.1⟩, .inl rfl⟩, fun _ => rfl⟩
  | false =>
    obtain ⟨apart, covers⟩ := unionOf_spec (intervalsOf_ahead ahead .forbidden)
    simp only [forbiddenSet, Forbidden.overlaps, Bool.false_eq_true, if_false, List.any_eq_true, false_or, ← inPlan_intervalsOf,
      ← covers]
    constructor
    · rintro ⟨z, mem, both⟩
      obtain ⟨x, hx, hz⟩ := (overlaps_iff hy (apart.1 z mem)).mp both
      exact ⟨x, hx, z, mem, hz⟩
    · rintro ⟨x, hx, z, mem, hz⟩
      exact ⟨z, mem, (overlaps_iff hy (apart.1 z mem)).mpr ⟨x, hx, hz⟩⟩

theorem hasConflict_iff : hasConflict ban zones = true ↔
    ∃ x, InZone o .required zones x ∧ (ban = true ∨ InZone o .forbidden zones x) := by
  obtain ⟨apart, covers⟩ := requiredSet_spec ahead
  rw [hasConflict, List.any_eq_true]
  constructor
  · rintro ⟨y, mem, over'⟩
    obtain ⟨x, hx, forbidden⟩ := (forbiddenSet_overlaps ahead (apart.1 y mem)).mp over'
    exact ⟨x, (covers x).mp ⟨y, mem, hx⟩, forbidden⟩
  · rintro ⟨x, required, forbidden⟩
    obtain ⟨y, mem, hx⟩ := (covers x).mpr required
    exact ⟨y, mem, (forbiddenSet_overlaps ahead (apart.1 y mem)).mpr ⟨x, hx, forbidden⟩⟩

theorem required_overlaps {y : Stretch} (hy : y.Ahead o) : (requiredSet zones).any (fun r => y.overlaps r) = true ↔
    ∃ x, Covers o y.a y.b x ∧ InZone o .required zones x := by
  obtain ⟨apart, covers⟩ := requiredSet_spec ahead
  rw [List.any_eq_true]
  constructor
  · rintro ⟨z, mem, both⟩
    obtain ⟨x, hx, hz⟩ := (overlaps_iff hy (apart.1 z mem)).mp both
    exact ⟨x, hx, (covers x).mp ⟨z, mem, hz⟩⟩
  · rintro ⟨x, hx, required⟩
    obtain ⟨z, mem, hz⟩ := (covers x).mpr required
    exact ⟨z, mem, (overlaps_iff hy (apart.1 z mem)).mpr ⟨x, hx, hz⟩⟩

theorem mem_losers_iff (e : ZoneEntry) : e ∈ losers ban policy zones ↔ e ∈ zones ∧
    (if ban = true ∨ policy = .forbidWins then
      e.mode = .required ∧ ∃ x, Covers o e.a e.b x ∧ (ban = true ∨ InZone o .forbidden zones x)
     else e.mode = .forbidden ∧ ∃ x, Covers o e.a e.b x ∧ InZone o .required zones x) := by
  by_cases wins : ban = true ∨ policy = .forbidWins
  · have force : policyInForce ban policy = .forbidWins := by
      unfold policyInForce
      split
      · rfl
      next permitted => exact wins.resolve_left permitted
    rw [losers, force, if_pos wins]
    dsimp only
    rw [List.mem_filter, Bool.and_eq_true, decide_eq_true_iff]
    refine and_congr_right fun mem => and_congr_right fun _ => ?_
    exact forbiddenSet_overlaps ahead (ahead e mem)
  · obtain ⟨permitted, loses⟩ := not_or.mp wins
    have force : policyInForce ban policy = .requireWins := by
      rw [policyInForce, if_neg permitted]
      cases policy
      · exact absurd rfl loses
      · rfl
    rw [losers, force, if_neg wins]
    dsimp only
    rw [List.mem_filter, Bool.and_eq_true, decide_eq_true_iff]
    refine and_congr_right fun mem => and_congr_right fun _ => ?_
    exact required_overlaps ahead (ahead e mem)

end Any

/-! ## Positions from one another -/

theorem beyond_pu {n : Nat} (small : n < 2147483648) : beyond o (o + pu n) = n := by
  unfold beyond pu
  bv_omega

theorem beyond_self (o : Word32) : beyond o o = 0 := by
  unfold beyond
  rw [BitVec.sub_self]
  rfl

theorem not_precedes_beyond {a b : Word32} (ha : beyond o a < 2147483648) (hb : beyond o b < 2147483648)
    (le : beyond o b ≤ beyond o a) : precedes a b = false :=
  Bool.eq_false_iff.mpr fun h => absurd ((precedes_beyond o ha hb).mp h) (not_lt.mpr le)

/-- Stretches of which one ends where the other starts, or before, do not overlap. -/
theorem overlaps_apart {s t : Stretch} (hs : s.Ahead o) (ht : t.Ahead o)
    (apart : beyond o s.b ≤ beyond o t.a ∨ beyond o t.b ≤ beyond o s.a) : s.overlaps t = false := by
  rw [Bool.eq_false_iff, Ne, overlaps_iff hs ht]
  rintro ⟨x, hx, hy⟩
  rw [covers_iff] at hx hy
  omega

/-- A stretch that lies in another overlaps it. -/
theorem overlaps_within {s t : Stretch} (hs : s.Ahead o) (ht : t.Ahead o) (start : beyond o s.a ≤ beyond o t.a)
    (ends : beyond o t.b ≤ beyond o s.b) : s.overlaps t = true := by
  have long := ht.1
  exact (overlaps_iff hs ht).mpr ⟨beyond o t.a, covers_iff.mpr ⟨start, by omega⟩, covers_iff.mpr ⟨Nat.le_refl _, long⟩⟩

/-! ## The plan of one list of sets -/

section Sets

theorem planOf_forbidWins {required forbidden : List Stretch} (r : requiredSet zones = required)
    (f : forbiddenSet false zones = .set forbidden) : planOf false .forbidWins bridge zones =
      bridged bridge (.set forbidden) (differenceOf required forbidden) := by
  rw [planOf, closedSet, f, r]
  rfl

theorem planOf_requireWins {required forbidden : List Stretch} (r : requiredSet zones = required)
    (f : forbiddenSet false zones = .set forbidden) : planOf false .requireWins bridge zones =
      bridged bridge (.set forbidden) required := by
  rw [planOf, closedSet, f, r]
  rfl

theorem planOf_banned (policy : Policy) (bridge : Nat) (zones : List ZoneEntry) : planOf true policy bridge zones = [] := rfl

end Sets

/-! ## A FORBIDDEN interval inside a REQUIRED one (R129) -/

section Within

variable {r f : ZoneEntry} (hr : r.mode = .required) (hf : f.mode = .forbidden)
include hr hf

theorem requiredSet_pair : requiredSet [r, f] = [r.stretch] := by
  simp [requiredSet, intervalsOf, hr, hf, unionOf, sortStretches, insertStretch, mergeFrom]

theorem forbiddenSet_pair : forbiddenSet false [r, f] = .set [f.stretch] := by
  simp [forbiddenSet, intervalsOf, hr, hf, unionOf, sortStretches, insertStretch, mergeFrom]

variable {u v w : Nat} (hu : 0 < u) (hv : 0 < v) (hw : 0 < w) (reach : u + v + w < 2147483648)
  (fa : f.a = r.a + pu u) (fb : f.b = r.a + pu (u + v)) (rb : r.b = r.a + pu (u + v + w))
include hu hv hw reach fa fb rb

omit hr hf hu in
theorem within_places : beyond r.a r.a = 0 ∧ beyond r.a f.a = u ∧ beyond r.a f.b = u + v ∧ beyond r.a r.b = u + v + w := by
  rw [fa, fb, rb]
  exact ⟨beyond_self _, beyond_pu (by omega), beyond_pu (by omega), beyond_pu reach⟩

theorem plan_within (bridge : Nat) : hasConflict false [r, f] = true ∧
    planOf false .forbidWins bridge [r, f] = [⟨r.a, f.a⟩, ⟨f.b, r.b⟩] ∧ losers false .forbidWins [r, f] = [r] ∧
    planOf false .requireWins bridge [r, f] = [⟨r.a, r.b⟩] ∧ losers false .requireWins [r, f] = [f] ∧
    ∀ policy, planOf true policy bridge [r, f] = [] ∧ losers true policy [r, f] = [r] := by
  obtain ⟨ra0, fau, fbv, rbw⟩ := within_places hv hw reach fa fb rb
  have required := requiredSet_pair hr hf
  have forbidden := forbiddenSet_pair hr hf
  have ahead_r : r.stretch.Ahead r.a := by
    show beyond r.a r.a < beyond r.a r.b ∧ beyond r.a r.b < _
    omega
  have ahead_f : f.stretch.Ahead r.a := by
    show beyond r.a f.a < beyond r.a f.b ∧ beyond r.a f.b < _
    omega
  have lies : r.stretch.overlaps f.stretch = true := overlaps_within ahead_r ahead_f
    (show beyond r.a r.a ≤ beyond r.a f.a by omega) (show beyond r.a f.b ≤ beyond r.a r.b by omega)
  have lies' : f.stretch.overlaps r.stretch = true := by
    obtain ⟨x, a, b⟩ := (overlaps_iff ahead_r ahead_f).mp lies
    exact (overlaps_iff ahead_f ahead_r).mpr ⟨x, b, a⟩
  have first : precedes r.a f.a = true := (precedes_beyond r.a (by omega) (by omega)).mpr (by omega)
  have last : precedes f.b r.b = true := (precedes_beyond r.a (by omega) (by omega)).mpr (by omega)
  have back : precedes f.b f.a = false := not_precedes_beyond (o := r.a) (by omega) (by omega) (by omega)
  have cut : differenceOf [r.stretch] [f.stretch] = [⟨r.a, f.a⟩, ⟨f.b, r.b⟩] := by
    simp only [differenceOf, List.foldl_cons, List.foldl_nil, List.flatMap_singleton, cutOut, lies, if_true]
    simp only [ZoneEntry.stretch, first, last, if_true, List.singleton_append]
  have touched : Forbidden.touches (.set [f.stretch]) ⟨f.a, f.b⟩ = true := by
    simp [Forbidden.touches, Stretch.touches, ZoneEntry.stretch, back]
  refine ⟨?_, ?_, ?_, ?_, ?_, fun policy => ⟨planOf_banned _ _ _, ?_⟩⟩
  · simp [hasConflict, required, forbidden, Forbidden.overlaps, lies]
  · rw [planOf_forbidWins required forbidden, cut]
    simp only [bridged, bridgeFrom, touched, Bool.true_eq_false, and_false, if_false]
  · simp [losers, policyInForce, forbidden, hr, hf, Forbidden.overlaps, lies]
  · rw [planOf_requireWins required forbidden]
    rfl
  · simp [losers, policyInForce, required, hr, hf, lies']
  · simp [losers, policyInForce, forbiddenSet, hr, hf, Forbidden.overlaps]

end Within

/-! ## An opening between two REQUIRED intervals (R130) -/

section Between

variable {r q f : ZoneEntry} (hr : r.mode = .required) (hq : q.mode = .required) (hf : f.mode = .forbidden)
  {u v w x y : Nat} (hu : 0 < u) (hv : 0 < v) (hw : 0 < w) (hy : 0 < y) (lies : x + y ≤ v) (reach : u + v + w < 2147483648)
  (rb : r.b = r.a + pu u) (qa : q.a = r.a + pu (u + v)) (qb : q.b = r.a + pu (u + v + w))
  (fa : f.a = r.a + pu (u + x)) (fb : f.b = r.a + pu (u + x + y))

include hv hw reach rb qa qb

theorem between_places : beyond r.a r.a = 0 ∧ beyond r.a r.b = u ∧ beyond r.a q.a = u + v ∧ beyond r.a q.b = u + v + w := by
  rw [rb, qa, qb]
  exact ⟨beyond_self _, beyond_pu (by omega), beyond_pu (by omega), beyond_pu reach⟩

/-- Two REQUIRED intervals with an opening between them stay two. -/
theorem unionOf_between : unionOf [r.stretch, q.stretch] = [⟨r.a, r.b⟩, ⟨q.a, q.b⟩] := by
  obtain ⟨ra0, rbu, qav, qbw⟩ := between_places hv hw reach rb qa qb
  have order : precedes q.a r.a = false := not_precedes_beyond (o := r.a) (by omega) (by omega) (by omega)
  have opening : precedes r.b q.a = true := (precedes_beyond r.a (by omega) (by omega)).mpr (by omega)
  simp [unionOf, sortStretches, insertStretch, mergeFrom, ZoneEntry.stretch, order, opening]

theorem opening_length : (q.a - r.b).toNat = v := by
  obtain ⟨-, rbu, qav, -⟩ := between_places hv hw reach rb qa qb
  rw [beyond_sub (o := r.a) (by omega), rbu, qav]
  omega

include hr hq in
theorem plan_between (policy : Policy) (bridge : Nat) : hasConflict false [r, q] = false ∧
    planOf false policy bridge [r, q] = (if v < bridge then [⟨r.a, q.b⟩] else [⟨r.a, r.b⟩, ⟨q.a, q.b⟩]) := by
  have required : requiredSet [r, q] = [⟨r.a, r.b⟩, ⟨q.a, q.b⟩] := by
    rw [← unionOf_between hv hw reach rb qa qb]
    simp [requiredSet, intervalsOf, hr, hq]
  have forbidden : forbiddenSet false [r, q] = .set [] := by
    simp [forbiddenSet, intervalsOf, hr, hq, unionOf, sortStretches]
  have length := opening_length hv hw reach rb qa qb
  have joined : bridged bridge (.set []) [⟨r.a, r.b⟩, ⟨q.a, q.b⟩] =
      if v < bridge then [⟨r.a, q.b⟩] else [⟨r.a, r.b⟩, ⟨q.a, q.b⟩] := by
    simp only [bridged, bridgeFrom, length, Forbidden.touches, List.any_nil, and_true]
  refine ⟨?_, ?_⟩
  · simp [hasConflict, required, forbidden, Forbidden.overlaps]
  · cases policy
    · rw [planOf_forbidWins required forbidden, ← joined]
      rfl
    · rw [planOf_requireWins required forbidden, joined]

include hr hq hf hu hy lies fa fb in
theorem plan_around (policy : Policy) (bridge : Nat) : hasConflict false [r, q, f] = false ∧
    planOf false policy bridge [r, q, f] = [⟨r.a, r.b⟩, ⟨q.a, q.b⟩] := by
  obtain ⟨ra0, rbu, qav, qbw⟩ := between_places hv hw reach rb qa qb
  have fax : beyond r.a f.a = u + x := by rw [fa]; exact beyond_pu (by omega)
  have fby : beyond r.a f.b = u + x + y := by rw [fb]; exact beyond_pu (by omega)
  have required : requiredSet [r, q, f] = [⟨r.a, r.b⟩, ⟨q.a, q.b⟩] := by
    rw [← unionOf_between hv hw reach rb qa qb]
    simp [requiredSet, intervalsOf, hr, hq, hf]
  have forbidden : forbiddenSet false [r, q, f] = .set [f.stretch] := by
    simp [forbiddenSet, intervalsOf, hr, hq, hf, unionOf, sortStretches, insertStretch, mergeFrom]
  have ahead_r : Stretch.Ahead r.a ⟨r.a, r.b⟩ := by
    show beyond r.a r.a < beyond r.a r.b ∧ beyond r.a r.b < _
    omega
  have ahead_q : Stretch.Ahead r.a ⟨q.a, q.b⟩ := by
    show beyond r.a q.a < beyond r.a q.b ∧ beyond r.a q.b < _
    omega
  have ahead_f : Stretch.Ahead r.a f.stretch := by
    show beyond r.a f.a < beyond r.a f.b ∧ beyond r.a f.b < _
    omega
  have before : Stretch.overlaps ⟨r.a, r.b⟩ f.stretch = false :=
    overlaps_apart ahead_r ahead_f (.inl (show beyond r.a r.b ≤ beyond r.a f.a by omega))
  have after : Stretch.overlaps ⟨q.a, q.b⟩ f.stretch = false :=
    overlaps_apart ahead_q ahead_f (.inr (show beyond r.a f.b ≤ beyond r.a q.a by omega))
  have cut : differenceOf [⟨r.a, r.b⟩, ⟨q.a, q.b⟩] [f.stretch] = [⟨r.a, r.b⟩, ⟨q.a, q.b⟩] := by
    simp [differenceOf, cutOut, before, after]
  have past : precedes q.a f.a = false := not_precedes_beyond (o := r.a) (by omega) (by omega) (by omega)
  have short : precedes f.b r.b = false := not_precedes_beyond (o := r.a) (by omega) (by omega) (by omega)
  have touched : Forbidden.touches (.set [f.stretch]) ⟨r.b, q.a⟩ = true := by
    simp [Forbidden.touches, Stretch.touches, ZoneEntry.stretch, past, short]
  have stays : bridged bridge (.set [f.stretch]) [⟨r.a, r.b⟩, ⟨q.a, q.b⟩] = [⟨r.a, r.b⟩, ⟨q.a, q.b⟩] := by
    simp only [bridged, bridgeFrom, touched, Bool.true_eq_false, and_false, if_false]
  refine ⟨?_, ?_⟩
  · simp [hasConflict, required, forbidden, Forbidden.overlaps, before, after]
  · cases policy
    · rw [planOf_forbidWins required forbidden, cut, stays]
    · rw [planOf_requireWins required forbidden, stays]

end Between

/-- Settles O33: the sets of a plan pu by pu, and the three short lists evaluated. -/
theorem planByPolicyAndBridge : Obligations.PlanByPolicyAndBridge := by
  refine ⟨fun o zones ban policy bridge ahead => ⟨⟨planOf_iff ahead, fun y mem => ?_, ?_⟩, hasConflict_iff ahead, mem_losers_iff ahead⟩,
    fun r f u v w bridge hr hf hu hv hw reach fa fb rb => ?_,
    fun r q f u v w x y bridge policy hr hq hf hu hv hw hy lies reach rb qa qb fa fb => ?_⟩
  · exact ((planOf_apart ahead).1 y mem).1
  · exact (planOf_apart ahead).2
  · exact plan_within hr hf hu hv hw reach fa fb rb bridge
  · obtain ⟨calm, plan⟩ := plan_between hr hq hv hw reach rb qa qb policy bridge
    obtain ⟨calm', plan'⟩ := plan_around hr hq hf hu hv hw hy lies reach rb qa qb fa fb policy bridge
    exact ⟨calm, plan, calm', plan'⟩

end Sys2Proof.Machine
end

section
/-! PROOFS. Synthetic marks: the fields of an INJECT MARK body, and the mark it presents to its lane (R50, R51, R199). -/

namespace Sys2Proof.Machine

variable {body : List Byte} {token : Byte} {l : Lane} {shape : MarkShape} {tag : Byte} {p : Word32} {older : List Segment}
  {g : Segment} {s : State}

/-! ## The body (R199) -/

theorem exec_injectMark (token : Byte) (body : List Byte) (s : State) :
    exec (.injectMark token body) s = .next (serve 0x32#8 token (injectMarkReply body) s) := rfl

/-- The first of R199's field conditions that an INJECT MARK body breaks. -/
theorem firstFailing_injectChecks (body : List Byte) :
    firstFailing (injectChecks body) =
      if 1 < byteAt body 0 then some 0
      else if byteAt body 1 = 0 ∨ 3 < byteAt body 1 then some 1
      else if 1 < byteAt body 3 then some 3
      else none := by
  have lane : inRange 0 1 (byteAt body 0) = true ↔ ¬1 < byteAt body 0 := by simp [inRange]
  have shape : inRange 1 3 (byteAt body 1) = true ↔ ¬(byteAt body 1 = 0 ∨ 3 < byteAt body 1) := by simp [inRange]; omega
  have mode : inRange 0 1 (byteAt body 3) = true ↔ ¬1 < byteAt body 3 := by simp [inRange]
  rw [injectChecks, firstFailing_cons lane, firstFailing_cons shape, firstFailing_cons mode]
  rfl

theorem shapeOfCode_valid {n : Nat} (low : 1 ≤ n) (high : n ≤ 3) :
    shapeOfCode n = some (if n = 1 then .cue else if n = 2 then .pitch else .tail) := by
  have code : n = 1 ∨ n = 2 ∨ n = 3 := by omega
  rcases code with rfl | rfl | rfl <;> rfl

theorem injectMark_refused {n : Nat} (room : 0 < ownRoom s) (len : body.length = 8)
    (fails : firstFailing (injectChecks body) = some n) :
    Answered s (respTo s 0x32#8 token 2 n []) (serve 0x32#8 token (injectMarkReply body) s) := by
  have refused : injectMarkReply body s = badField n s := by simp [injectMarkReply, sized, validated, len, fails]
  exact serve_answered room refused

/-- The synthetic mark counted and presented to its lane (R51). -/
def presented (l : Lane) (shape : MarkShape) (tag : Byte) (p : Word32) (s : State) : State :=
  takeMark l shape tag p (bumpSynthetic l s)

theorem injectMarkReply_presents (len : body.length = 8) (valid : firstFailing (injectChecks body) = none)
    (lane : laneOfCode (byteAt body 0) = some l) (named : shapeOfCode (byteAt body 1) = some shape) :
    injectMarkReply body s = accept (presented l shape (body.getD 2 0#8) (injectPos body s) s) := by
  simp [injectMarkReply, sized, validated, len, valid, lane, named, presented]

/-! ## The count of the mark (R51) -/

theorem bumpSynthetic_lane : (bumpSynthetic l s).lane l =
    { s.lane l with synthetic := min ((s.lane l).synthetic + 1) 65535 } := State.lane_modLane s l _

theorem bumpSynthetic_tracker : (bumpSynthetic l s).tracker = s.tracker := by cases l <;> rfl

theorem bumpSynthetic_setup : (bumpSynthetic l s).setup = s.setup := by cases l <;> rfl

theorem bumpSynthetic_mode : ((bumpSynthetic l s).lane l).mode = (s.lane l).mode := by rw [bumpSynthetic_lane]

theorem bumpSynthetic_record : ((bumpSynthetic l s).lane l).record = (s.lane l).record := by rw [bumpSynthetic_lane]

theorem bumpSynthetic_holding (tag : Byte) : (bumpSynthetic l s).holding tag = s.holding tag := by cases l <;> rfl

theorem bumpSynthetic_slot (i : Nat) : (bumpSynthetic l s).slot i = s.slot i := by cases l <;> rfl

theorem bumpSynthetic_jobOf (g : Segment) : (bumpSynthetic l s).jobOf g = s.jobOf g := by cases l <;> rfl

theorem bumpSynthetic_roomFor {job : JobDef} (room : roomFor l job s) : roomFor l job (bumpSynthetic l s) := by
  cases l <;> exact room

theorem presented_nodeAddr : (presented l shape tag p s).nodeAddr = s.nodeAddr :=
  (inside_takeMark l shape tag p _).nodeAddr.trans (State.nodeAddr_modLane s l _)

theorem presented_tracker : (presented l shape tag p s).tracker = s.tracker :=
  (inside_takeMark l shape tag p _).tracker.trans bumpSynthetic_tracker

theorem presented_synthetic : ((presented l shape tag p s).lane l).synthetic = min ((s.lane l).synthetic + 1) 65535 :=
  ((inside_takeMark l shape tag p _).synthetic l).trans (by rw [bumpSynthetic_lane])

/-! ## The mark at the lane (R50 to R58) -/

theorem presented_disabled (mode : (s.lane l).mode = .disabled) : presented l shape tag p s = bumpSynthetic l s :=
  takeMark_disabled (bumpSynthetic_mode.trans mode)

theorem presented_draining (mode : (s.lane l).mode = .draining) (cue : shape = .cue) :
    presented l shape tag p s = bumpRefused l (bumpSynthetic l s) :=
  cue ▸ takeMark_draining_cue (bumpSynthetic_mode.trans mode)

theorem presented_cue (mode : (s.lane l).mode = .running) (cue : shape = .cue) :
    presented l shape tag p s = takeCue l tag p (bumpSynthetic l s) :=
  cue ▸ takeMark_cue (bumpSynthetic_mode.trans mode)

theorem presented_unreadable (mode : (s.lane l).mode = .running) (cue : shape = .cue) (unreadable : tag = 0#8 ∨ tag = 255#8) :
    presented l shape tag p s = raise prioCueRefused (bumpRefused l (bumpSynthetic l s)) :=
  (presented_cue mode cue).trans (takeCue_unreadable unreadable)

theorem presented_inner (mode : (s.lane l).mode ≠ .disabled) (inner : shape ≠ .cue) :
    presented l shape tag p s = takeInnerMark l shape p (bumpSynthetic l s) :=
  takeMark_inner (bumpSynthetic_mode.symm ▸ mode) inner

theorem presented_stray (mode : (s.lane l).mode ≠ .disabled) (inner : shape ≠ .cue) (none : openSeg (s.lane l) = none) :
    presented l shape tag p s = bumpStray l (bumpSynthetic l s) := by
  have closed : openSeg ((bumpSynthetic l s).lane l) = Option.none := by
    rw [openSeg, newest, bumpSynthetic_segs]
    exact none
  rw [presented_inner mode inner, takeInnerMark_none closed]

/-- An accepted synthetic cue on an empty map is the newest segment, anchored at its position (R57). -/
theorem presented_registers {i : Nat} {j : JobRecord} (mode : (s.lane l).mode = .running) (cue : shape = .cue) (low : tag ≠ 0#8)
    (high : tag ≠ 255#8) (empty : (s.lane l).segs = []) (held : s.holding tag = some i) (slot : s.slot i = some j)
    (admits : laneAdmits j.defn.lane l = true) (loaded : j.state = .loaded) (room : roomFor l j.defn s) :
    ∃ g, newest ((presented l shape tag p s).lane l) = some g ∧ g.tag = tag ∧ g.slot = i ∧ g.pCue = p ∧ g.anchorP = p ∧
      g.state = .opened := by
  have segs : ((bumpSynthetic l s).lane l).segs = [] := (bumpSynthetic_segs l l s).trans empty
  have registers : presented l shape tag p s = register l tag i p j (bumpSynthetic l s) := by
    rw [presented_cue mode cue, takeCue_empty low high (by rw [newest, segs]; rfl),
      acceptCue_registers ((bumpSynthetic_holding tag).trans held) ((bumpSynthetic_slot i).trans slot) admits loaded
        (bumpSynthetic_roomFor room)]
  obtain ⟨g, last, grown, -⟩ := register_newest (l := l) (tag := tag) (slot := i) (p := p) (r := j) (s := bumpSynthetic l s)
    (by rw [segs]; nofun)
  exact ⟨g, by rw [registers, last], grown.tag, grown.slot, grown.pCue, grown.anchorP, grown.state⟩

/-- A synthetic PITCH mark in tolerance re-anchors the open segment (R58, R62). -/
theorem presented_reanchors {n : Nat} (mode : (s.lane l).mode ≠ .disabled) (segs : (s.lane l).segs = older ++ [g])
    (alone : ∀ h ∈ older, h.id ≠ g.id) (opened : g.state = .opened) (next : g.next = some (.pitch n)) (pitch : shape = .pitch)
    (near : (sdiff p (g.coord (markOffset (s.jobOf g) (.pitch n)))).natAbs ≤ (s.lane l).record.markTol) :
    ∃ h, newest ((presented l shape tag p s).lane l) = some h ∧ h.id = g.id ∧ h.anchorP = p ∧
      h.anchorX = markOffset (s.jobOf g) (.pitch n) := by
  subst pitch
  have here : ((bumpSynthetic l s).lane l).segs = older ++ [g] := (bumpSynthetic_segs l l s).trans segs
  have near' : (sdiff p (g.coord (markOffset ((bumpSynthetic l s).jobOf g) (.pitch n)))).natAbs ≤
      ((bumpSynthetic l s).lane l).record.markTol := by
    rwa [bumpSynthetic_jobOf, bumpSynthetic_record]
  have matched : presented l .pitch tag p s = pitchTaken l p g n (bumpSynthetic l s) := by
    rw [presented_inner mode (by decide), takeInnerMark_open (openSeg_last here opened) next,
      if_pos ((marksMatch_iff _ _ .pitch p g (.pitch n)).mpr ⟨rfl, nofun, near'⟩)]
    rfl
  obtain ⟨h, last, grown⟩ := pitchTaken_newest (p := p) (i := n) here alone opened
  exact ⟨_, (congrArg (fun u : State => newest (u.lane l)) matched).trans last, grown.id, grown.anchorP,
    grown.anchorX.trans (congrArg (fun job => markOffset job (.pitch n)) (bumpSynthetic_jobOf g))⟩

/-- A detected mark at the same position is taken like the synthetic one (R50, R51). -/
theorem convertMark_presented {c : Word32} {r : Reference} (conv : Convertible c r s) :
    convertMark l shape tag c (bumpSynthetic l s) = presented l shape tag (markedAt c r s) s := by
  have same : (bumpSynthetic l s).tracker = s.tracker := bumpSynthetic_tracker
  have conv' : Convertible c r (bumpSynthetic l s) :=
    ⟨same ▸ conv.datum, same ▸ conv.found, same ▸ conv.paid, same ▸ conv.ref, conv.near⟩
  rw [conv'.taken, markedAt, bumpSynthetic_tracker, bumpSynthetic_setup]
  rfl

/-- Settles O49: the fields are tried in R199's order, and the mark of a valid body is counted and then taken by its lane. -/
theorem syntheticMarkTaken : Obligations.SyntheticMarkTaken := by
  intro s token body room len
  have fields := firstFailing_injectChecks body
  refine ⟨_, exec_injectMark token body s, fun lane => ?_, fun lane shape => ?_, fun lane low high mode => ?_,
    fun lane low high mode => ?_⟩
  · exact injectMark_refused room len (fields.trans (if_pos lane))
  · exact injectMark_refused room len (fields.trans ((if_neg (by omega)).trans (if_pos shape)))
  · exact injectMark_refused room len (fields.trans ((if_neg (by omega)).trans ((if_neg (by omega)).trans (if_pos mode))))
  · have valid := fields.trans ((if_neg (by omega)).trans ((if_neg (by omega)).trans (if_neg (by omega))))
    have laneNamed := laneOfCode_valid (not_lt.mpr lane)
    have shapeNamed := shapeOfCode_valid low high
    intro l
    generalize named : (if byteAt body 1 = 1 then MarkShape.cue else if byteAt body 1 = 2 then .pitch else .tail) = shape at *
    have presents := injectMarkReply_presents (s := s) len valid laneNamed shapeNamed
    have answered := serve_accepted (token := token) (code := 0x32#8) room presents presented_nodeAddr
    have becomes : ∀ {u}, presented l shape (body.getD 2 0#8) (injectPos body s) s = u →
        Answered u (respTo s 0x32#8 token 0 0 []) (serve 0x32#8 token (injectMarkReply body) s) := fun same => same ▸ answered
    refine ⟨answered.carries, answered.tracker.trans presented_tracker,
      (congrArg LaneState.synthetic (answered.lane l)).trans presented_synthetic, ?_⟩
    intro marked resp shape' tag p
    refine ⟨fun mode => becomes (presented_disabled mode), fun mode cue => becomes (presented_draining mode cue),
      fun mode cue unreadable => becomes (presented_unreadable mode cue unreadable),
      fun mode inner none => becomes (presented_stray mode inner none), ?_, ?_, ?_⟩
    · intro i j mode cue low high empty held slot admits loaded fits
      obtain ⟨g, last, rest⟩ := presented_registers (p := p) mode cue low high empty held slot admits loaded fits
      exact ⟨g, (congrArg newest (answered.lane l)).trans last, rest⟩
    · intro older g n mode segs alone opened next pitch near
      obtain ⟨h, last, rest⟩ := presented_reanchors (tag := tag) mode segs alone opened next pitch near
      exact ⟨h, (congrArg newest (answered.lane l)).trans last, rest⟩
    · intro r m datum found paid ref near at_
      have conv : Convertible m r s := ⟨datum, found, paid, ref, near⟩
      have taken : exec (.markConversion l shape tag m) (bumpSynthetic l s) = .next (finish (presented l shape tag p s)) := by
        rw [exec_markConversion, convertMark_presented conv, markedAt, at_]
      exact ⟨presented l shape tag p s, finish (presented l shape tag p s), taken, endOfEvent_finish _, answered⟩

end Sys2Proof.Machine
end
